-- ==== Sys2Proof/Word.lean ====
section
/-! DEFINITION. The word widths of the engine and the shape of its sparse stores. -/

namespace Sys2Proof

/-- A 32-bit register word (R10, R11). -/
abbrev W32 := BitVec 32
/-- House time, counters and double words. -/
abbrev W64 := BitVec 64
/-- A packet payload beat (R23). -/
abbrev W128 := BitVec 128
/-- A partial in its widest form: five beats of 128 bits (Table CMB-2). -/
abbrev Wide := BitVec 640

/-- A sparse store: (key, value) pairs with strictly rising keys, none equal to what an unlisted key reads as. -/
abbrev Tbl (α : Type) := List (Nat × α)

/-- Bits [hi:lo] of a word as a number. -/
def bitsN {w : Nat} (x : BitVec w) (hi lo : Nat) : Nat := (x.toNat >>> lo) % 2 ^ (hi - lo + 1)

/-- One bit of a word. -/
def bitB {w : Nat} (x : BitVec w) (i : Nat) : Bool := x.getLsbD i

end Sys2Proof
end

