-- ==== Sys2Proof/Syntax.lean ====
section
/-! DEFINITION. The commands of the block: packets of its links, and one constructor for each row of spec/opcode_table.json. -/

namespace Sys2Proof

/-- A place in the tree (Table ARC-1, R21): a stirrup, a stall, a barn, a half root or the die root. -/
inductive Place where
  | stirrup (n : Nat)
  | stall (n : Nat)
  | barn (n : Nat)
  | half (n : Nat)
  | die
  deriving DecidableEq, Repr

/-- A CALL or a partial on its way up (Table STR-12, R77), in the wide form of Table CMB-2.
`child` names the sender below the receiving node; `leftT` is the TCLK in which a CALL left its stirrup (R64);
`firstAt`, `lastAt` and `lastVt` are the arrival stamps of R279. -/
structure Partial where
  slot    : Nat
  gen     : BitVec 6
  op      : BitVec 5
  fmt     : BitVec 4
  vote    : BitVec 2
  count   : Nat
  tag     : BitVec 20
  data    : Wide
  child   : Nat
  seq     : Nat
  leftT   : Nat
  firstAt : Nat
  lastAt  : Nat
  lastVt  : Nat
  word    : W32
  deriving DecidableEq, Repr

/-- A home request (Table HOM-2). `src` is a stirrup, 0x7FF for the host, 0x7FE for a set-up access, 0x7FD for a watchpoint;
`ring`, `didx` and `sub` tie a host request to its descriptor. -/
structure HomeReq where
  tok    : Bool
  obj    : Nat
  op     : BitVec 5
  nohold : Bool
  rid    : Nat
  src    : Nat
  merged : Bool
  mlevel : Bool
  mrec   : Nat
  poll   : Bool
  part   : Nat
  pay    : W128
  leftT  : Nat
  ring   : Nat
  didx   : W32
  sub    : Nat
  word   : W32
  deriving DecidableEq, Repr

/-- A home response (Table HOM-3). -/
structure HomeRsp where
  tok    : Bool
  obj    : Nat
  op     : BitVec 5
  status : BitVec 5
  rid    : Nat
  dest   : Nat
  merged : Bool
  mlevel : Bool
  mrec   : Nat
  poll   : Bool
  role   : BitVec 16
  pay    : W128
  deriving DecidableEq, Repr

/-- A tally request (Table MEM-3). `src` 0x7FF is the host, with its ring and descriptor index. -/
structure TallyReq where
  tally  : Nat
  op     : BitVec 5
  nohold : Bool
  src    : Nat
  part   : Nat
  pay    : W128
  leftT  : Nat
  ring   : Nat
  didx   : W32
  word   : W32
  deriving DecidableEq, Repr

/-- A tally response (Table MEM-3). -/
structure TallyRsp where
  tally  : Nat
  op     : BitVec 5
  nohold : Bool
  dest   : Nat
  status : BitVec 5
  role   : BitVec 16
  pay    : W128
  deriving DecidableEq, Repr

/-- A CTRL packet of a stirrup (Table STR-9): the command word and STIR_PAY0 as sampled. -/
structure CtrlPkt where
  word  : W32
  pay0  : W32
  src   : Nat
  leftT : Nat
  deriving DecidableEq, Repr

/-- What travels up a tree link and has no arrival row of its own. -/
inductive UpPkt where
  | call  (p : Partial)
  | home  (r : HomeReq)
  | tally (r : TallyReq)
  | ctrl  (c : CtrlPkt)
  deriving DecidableEq, Repr

/-- A CUE (Table STR-13). `epoch` is the epoch released, `next` the one then open (R80, R214), `stalls` the stalls of the child masks it travels by (R121, R74),
`profile` the gait profile picked (R129), `verdictSlot` whether the slot is a verdict slot (R54),
`abort` marks a cue that ends an epoch without a complete set (R74, R208, R214, R289); `host` whether the host member's call
belongs to it (R262); `tag`, `lastVt`, `firstAt` and `lastAt` are what trace tells of the epoch (R279);
`counted` tells the cue of a count slot. Its `notes` are the children of the node it leaves with the last number counted of each (R90),
and at a stall the stirrups it is due to; those of a cue that aborts a count slot's epoch are the members with a pending call (R74).
`marks` are the watchpoints whose MARK record follows the cue's SYNC_EVENT (R286). -/
structure Cue where
  slot        : Nat
  epoch       : W32
  next        : W32
  status      : BitVec 5
  fmt         : BitVec 4
  verdict     : BitVec 2
  inexact     : Bool
  overflow    : Bool
  role        : BitVec 16
  data        : W128
  profile     : Nat
  stalls      : List Nat
  verdictSlot : Bool
  abort       : Bool
  host        : Bool
  tag         : BitVec 20
  lastVt      : Nat
  firstAt     : Nat
  lastAt      : Nat
  notes       : List (Nat × Nat)
  counted     : Bool
  marks       : List Nat
  deriving DecidableEq, Repr

/-- A tug or rein packet (Table FAB-6): its header, and its payload beats from bit 0 up (R190). What arrives on a port is one beat of a
tug packet or one flit of a rein packet, whose first beat is number `beat`; inside the engine a packet is whole and `beat` is 0.
`empty` tells a PARTIAL that represents no member (R100; log 28). -/
structure SpanPkt where
  fkind : BitVec 4
  span  : BitVec 20
  gen   : BitVec 6
  opst  : BitVec 5
  vote  : BitVec 2
  beat  : BitVec 3
  count : BitVec 24
  data  : Wide
  empty : Bool
  deriving DecidableEq, Repr

/-- T of a CUE packet: bits [63:0] of its beat 1 (R190). -/
def SpanPkt.time (p : SpanPkt) : W64 := (p.data >>> 128).setWidth 64

/-- Where a home or CTRL command takes its effect: written by a tile to STIR_CMD, or executed at its unit (log 7). -/
inductive HomeSite where
  | tile (st : Nat) (w : W32)
  | unit (r : HomeReq)
  deriving DecidableEq, Repr

inductive CtrlSite where
  | tile (st : Nat) (w : W32)
  | unit (c : CtrlPkt)
  deriving DecidableEq, Repr

/-- A register path: a tile's sync window, the manager window, the management port, a partition page. -/
inductive Path where
  | tile (st : Nat)
  | manager
  | mgmt
  | page (p : Nat)
  deriving DecidableEq, Repr

/-- A started host descriptor: partition, ring, ring index and the eight words (R258). -/
structure Desc where
  part : Nat
  ring : Nat
  idx  : W32
  d    : List W64
  deriving DecidableEq, Repr

/-- Which ring a DMA fault stops (R263, Table HST-6). -/
inductive DmaKind where
  | descRead (ring : Nat)
  | completion
  | event
  | snapshot (ring : Nat)
  deriving DecidableEq, Repr

/-- A fault report on its way to the fault manager (Table FLT-10, Table FLT-11): `detail` lists the DETAIL items in the table's order. -/
structure Report where
  type   : Nat
  unit   : Nat
  index  : Nat
  part   : Option Nat
  house  : W64
  detail : List Nat
  deriving DecidableEq, Repr

/-- The extent of an uncorrectable error a scrub or read meets (Table FLT-1, Table FLT-2). -/
inductive MemError where
  | corrected (unit index addr : Nat)
  | slot (at_ : Place) (slot : Nat) (epoch : Option W32) (check : Nat)
  | lockstep (at_ : Place) (slot : Nat) (output : Nat)
  | packet (lower : Place) (down : Bool)
  | state (part unit ram addr : Nat)
  | journal (part : Nat)
  | retention (st : Nat)
  | die (unit addr : Nat)
  | spill (index : Nat)
  | snapshot
  | logMemory (addr : Nat)
  deriving DecidableEq, Repr

/-- The fuse block (Table INT-5). -/
structure Fuses where
  keyHash  : BitVec 384
  serial   : W128
  seed     : W64
  debugDis : Bool
  minBook  : W32
  spiDiv   : BitVec 2
  grade    : BitVec 2
  goodMap  : BitVec 1728
  trim     : List (BitVec 12)
  deriving DecidableEq, Repr

/-- What the flash reader returns for one copy: whether every read completed, SFDP found, the bytes (R304, R306). -/
structure FlashCopy where
  copyB    : Bool
  complete : Bool
  sfdp     : Bool
  spiMode  : Nat
  addr4    : Bool
  bytes    : List (BitVec 8)
  again    : Bool
  deriving DecidableEq, Repr

/-- Where a curtain request comes from (Table OBS-7): `ring` is a CURTAIN descriptor of the manager ring, `manager` UHK_CUR_CTL or the
management mailbox, both with the Manager cause. -/
inductive CurtainSrc where
  | verdict | watchpoint | tile | tenant | manager | ring | fault
  deriving DecidableEq, Repr

/-- The windows of Table PAR-6 in which RW partition fields take effect. -/
inductive Window where
  | refill | trace
  deriving DecidableEq, Repr

/-- The commands: one constructor for each row of spec/opcode_table.json. -/
inductive Instr where
  -- tile-side operations (02, 06, 07)
  | call (st : Nat) (w : W32)
  | signal (x : HomeSite)
  | wait (x : HomeSite)
  | trywait (x : HomeSite)
  | waitTo (x : HomeSite)
  | semRead (x : HomeSite)
  | set (x : HomeSite)
  | fetchAdd (x : HomeSite)
  | cas (x : HomeSite)
  | fetchMax (x : HomeSite)
  | fetchOr (x : HomeSite)
  | post (x : HomeSite)
  | acquire (x : HomeSite)
  | tryacquire (x : HomeSite)
  | acquirePri (x : HomeSite)
  | acquirePriForward (r : HomeReq) (entry : Nat)
  | postTag (x : HomeSite)
  | acquireTag (x : HomeSite)
  | level (x : HomeSite)
  | arm (st : Nat) (w : W32)
  | flagPost (st : Nat) (w : W32)
  | tallyRead (st : Nat) (w : W32)
  | fence (st : Nat) (w : W32)
  | abstain (x : CtrlSite)
  | rejoin (x : CtrlSite)
  | ctrlCurtain (x : CtrlSite)
  | mark (x : CtrlSite)
  | queuedCommandIssue (st : Nat)
  | payloadCommit (st : Nat) (v : W32)
  | stirStatRead (st : Nat)
  | houseLoRead (st : Nat)
  | remoteWriteReport (st : Nat) (scope : BitVec 2)
  | landAck (st : Nat) (scope : BitVec 2) (effect : Bool)
  -- the tree (03, 04)
  | partialArrival (at_ : Place) (pkt : UpPkt)
  | freezeOrder (st : Nat) (cause : Nat) (fromT : Nat) (w : W32)
  | rootDecision (at_ : Place) (slot : Nat)
  | emptyBoundaryApply (p : Nat)
  | wbAcknowledge (key : Nat)
  | dieWideApply
  | roleStampWrite (st : Nat)
  | idle (at_ : Place) (slot : Nat) (child : Nat) (gen : BitVec 6)
  | active (at_ : Place) (slot : Nat) (child : Nat) (gen : BitVec 6)
  | activeAcknowledgement (at_ : Place) (slot : Nat) (epoch : W32)
  | rearm (at_ : Place) (slot : Nat) (gen : BitVec 6) (stalls : List Nat)
  -- cues (05)
  | cueArrival (at_ : Place) (c : Cue)
  | waveRelease (stall : Nat) (c : Cue)
  | cueDelivery (st : Nat) (c : Cue)
  | auditPush (p : Nat) (draw : BitVec 29)
  -- home (06, 09)
  | signalCombining (at_ : Place) (r : HomeReq)
  | mergeWindowClose (at_ : Place) (rec : Nat)
  | homeReqEntry
  | homePick (pipe : Nat)
  | wakePass (tok : Bool) (obj : Nat)
  | bucketRefill
  | waiterExpiry (entry : Nat)
  | pollResend (r : HomeReq)
  | waiterRemoval (st : Nat) (answer : Bool)
  | homeRsp (at_ : Place) (r : HomeRsp)
  | undo (p : Nat) (pipe : Nat)
  | undoComplete (p : Nat)
  -- tallies (07)
  | tallyReqArrival
  | tallyResponse (at_ : Place) (r : TallyRsp)
  | landReport (half : Nat) (lane : Nat) (tally : Nat) (units : BitVec 7)
  -- power and schedule (05)
  | budgetChange (b : BitVec 2)
  | holdExpiry (slot : Nat)
  | spacedRelease (slot : Nat)
  | scheduledRelease (slot : Nat)
  | houseFrame (edges : Nat) (href : W64)
  -- fabric (08)
  -- `taken`: a whole packet leaves the receiving port's buffer (R192); else a beat or flit arrives
  | spanPartial (port : Nat) (p : SpanPkt) (taken : Bool)
  | spanCue (port : Nat) (p : SpanPkt) (taken : Bool)
  | spanIdle (port : Nat) (p : SpanPkt) (taken : Bool)
  | spanActive (port : Nat) (p : SpanPkt) (taken : Bool)
  | spanAbort (port : Nat) (p : SpanPkt) (taken : Bool)
  | fabricPacketDiscard (port : Nat) (p : SpanPkt)
  | heartbeat (port : Nat)
  | portTimeout (port : Nat)
  | tugTrained (port : Nat) (up : Bool)
  | tugTraining (port : Nat) (transit : Nat) (peerN : Nat)
  | tugResend (port : Nat)
  | reinUp (up : Bool)
  | reinUnreach (die : BitVec 16)
  | reinFlitSend (bulk : Bool)
  | house (port : Nat) (start : W64) (state : BitVec 2) (kind : BitVec 2) (value : W64) (frame : Nat)
  | houseExchange
  | holdoverLimit
  -- curtain, resets (09, 12)
  | curtainPacket (port : Nat) (p : SpanPkt)
  | curtainRaise (p : Nat) (src : CurtainSrc) (inForce : Bool)
  | curtainLift (p : Nat) (src : CurtainSrc) (inForce : Bool)
  | curtainLiftAbort (p : Nat) (src : CurtainSrc) (inForce : Bool)
  | dieCurtain (act : Nat) (propagate : Bool)
  | partReset (p : Nat) (cause : Nat) (ends : Bool)
  | dieError (unit : Nat) (addr : Nat)
  -- faults (09)
  | faultReport (r : Report)
  | patrolScrub (e : Option MemError)
  | bistStart (kind : Nat) (index : Nat)
  | bistDone (pass : Bool) (fails : Nat)
  | fltTailWrite (v : W32)
  | lgclr
  | attrClear (index : Nat)
  | recipe (msg : List (BitVec 8))
  | debugToken (msg : List (BitVec 8))
  | nonceRead
  | drop
  | authExpiry
  | powerDown
  | exportPop
  -- partitions (10)
  | create (p : Nat)
  | destroy (p : Nat)
  | reset (p : Nat)
  | revoke (p : Nat)
  | doneForced (p : Nat)
  | resume (p : Nat)
  | split (k : Nat)
  | partQuiesce (x : Desc)
  | quiesced (p : Nat)
  | accountingWindow (w : Window)
  | dirtyClear
  -- host rings (11)
  | sqDoorbell (p : Nat) (q : Nat) (v : W32)
  | sqEnable (p : Nat) (q : Nat) (v : W32)
  | sqReset (p : Nat) (q : Nat)
  | cqReset (p : Nat)
  | eqReset (p : Nat)
  | cqDoorbell (p : Nat) (v : W32)
  | descriptorFetch
  | descriptorDecode (x : Desc)
  | nop (x : Desc)
  | hostCall (x : Desc)
  | hostAbstain (x : Desc)
  | hostRejoin (x : Desc)
  | hostCallCompletion (c : Cue)
  | semOp (x : Desc)
  | tokenOp (x : Desc)
  | tallyOp (x : Desc)
  | stageConfig (x : Desc)
  | watchSet (x : Desc)
  | traceMark (x : Desc)
  | snapshot (x : Desc)
  | dmaFault (p : Nat) (k : DmaKind)
  | irqTimer (p : Nat)
  | irqAck
  | indexWriteback (p : Nat)
  -- observation (12)
  | pctrLowRead (p : Nat) (i : Nat)
  | ctrDataLowRead
  | hcTimeLoRead (page : Option Nat)
  | rcCounterRead (path : Path) (off : Nat) (size : Nat)
  | freezeArm
  | freeze (slot : Option Nat)
  | timebase
  | traceWindowEnd
  | dropPhaseEnd
  | pcSample (st : Nat) (pc : BitVec 24) (tileState : BitVec 4)
  | wpOwnerWrite (w : Nat) (v : W32)
  | scan
  -- boot and register map (13, 14)
  | resetRelease (f : Fuses)
  | resetAssert (pwrgd : Bool)
  | flashRead (c : FlashCopy)
  | bookCheck (c : FlashCopy)
  | firstcue
  | retry
  | stage2Switch
  | tileIso (st : Nat) (on : Bool)
  | regionSleep (line : Nat) (on : Bool)
  | thaw (st : Nat)
  | rosterStage (st : Nat) (v : W32)
  | objSelWrite (v : W32)
  | objValueWrite (v : W32)
  | hcSeedWrite (hi : W32)
  | hcCtlWrite (v : W32)
  | cancel
  | lockWrite (v : W32)
  | registerWrite (path : Path) (off : Nat) (size : Nat) (v : W64)
  | malformedCommand (st : Nat) (w : W32)
  | traceOut
  | heartbeatArrival (port : Nat)
  | exchangeReply (port : Nat) (t1 t2 t3 : W64) (asPeer : Bool)
  | objBusyClear (value cfg : W32) (waiters : Nat)
  deriving DecidableEq, Repr

end Sys2Proof
end

