-- ==== Sys2Proof/Decode.lean ====
section
/-! DEFINITION. The decoder of command words: spec/opcode_table.json gives none of its 176 rows bits, so no word spells a command. -/

namespace Sys2Proof

/-- The command that a word spells by the table's bits: none, since no row has bits. -/
def decodeTableWord (_nbits _w : Nat) : Option Instr := none

end Sys2Proof
end

