-- ==== Sys2Proof/Config.lean ====
section
/-! DEFINITION. What the spec leaves open or takes from outside: constants without a body, so that nothing can rest on a value of them. -/

namespace Sys2Proof

/-- A data item of a CBOR map (RFC 8949), as recipes and tokens carry them. -/
inductive CborVal where
  | uint (n : Nat)
  | bytes (b : List (BitVec 8))
  | array (l : List Nat)
  deriving DecidableEq, Repr

/-- Free values: applied to the counter `State.free` (log 4). -/
opaque Config.freeNat : Nat → Nat

/-- The 96 DETAIL bits of a fault record: Table FLT-11 names their items and gives no bit layout (log 8). -/
opaque Config.detailBits : Nat → List Nat → BitVec 96

/-- SHA-384 (R250); the spec names the standard and does not define it (log 12). -/
opaque Config.sha384 : List (BitVec 8) → BitVec 384

/-- Whether an ECDSA P-384 signature holds: key, message, signature (R250; log 12). -/
opaque Config.ecdsaHolds : List (BitVec 8) → List (BitVec 8) → List (BitVec 8) → Bool

/-- Whether a COSE_Sign1 structure's ES384 signature holds under a key (R234, R251; log 12). -/
opaque Config.coseHolds : List (BitVec 8) → List (BitVec 8) → Bool

/-- The CBOR map in a COSE_Sign1 payload; none where the structure is malformed (R234, R251; log 12). -/
opaque Config.coseMap : List (BitVec 8) → Option (List (Nat × CborVal))

/-- The bytes of a signature in the export queue as CBOR (R233; log 12). -/
opaque Config.cborSignature : List Nat → List (BitVec 8)

/-- The die's free-running draw generator (POLICY 0, R224; log 13): fuse seed, draw number. -/
opaque Config.generator : W64 → Nat → BitVec 29

/-- A fresh debug nonce (R251; log 13). -/
opaque Config.nonce : Nat → W64

/-- The header bits [59:0] of a CTRL packet, of which the spec names the items and no layout (R23; log 134). -/
opaque Config.ctrlHeader : Instr → BitVec 60

/-- The 9 SEC-DED check bits over a beat's 192 data bits, whose code the spec does not give (R23; log 134). -/
opaque Config.checkBits : BitVec 192 → BitVec 9

/-- What a snapshot's header holds besides "UHKS" and the version (Table OBS-9). -/
structure SnapHead where
  die     : Nat
  part    : Nat
  house   : W64
  causes  : BitVec 6
  state   : Nat
  replays : Nat
  written : Nat
  omitted : Nat
  trunc   : Bool
  deriving DecidableEq, Repr

/-- What a slot's record holds after its four words: arrivals held, held or waiting cue (Table OBS-9). -/
structure SnapSlot where
  epoch    : W32
  arrivals : Nat
  cue      : Option Cue
  deriving DecidableEq, Repr

/-- A waiter's record for one link (Table OBS-9); `left` is the time remaining in units of 256 ticks, none without a deadline. -/
structure SnapWaiter where
  stirrup : Nat
  rid     : BitVec 2
  space   : Bool
  obj     : Nat
  count   : W32
  seq     : W32
  shadow  : Bool
  left    : Option Nat
  deriving DecidableEq, Repr

/-- Word `k` of a snapshot's header, of the two last words of a slot's record and of a waiter's record: Table OBS-9 names the items
and gives no bit layout (log 20). -/
opaque Config.snapHead : SnapHead → Nat → W64
opaque Config.snapSlot : SnapSlot → Nat → W64
opaque Config.snapWaiter : SnapWaiter → Nat → W64

end Sys2Proof
end

