-- ==== Sys2Proof/Machine/State.lean ====
section
/-! DEFINITION. The state of one die's engine as plain data, and the state at reset (INVENTORY.md lists every field with its rule). -/

namespace Sys2Proof.Machine

/-- Why a step stops. -/
inductive Fault where
  /-- Raised by a command whose operand names a part that does not exist (a stirrup of 1,728 or more, a partition of 64
  or more ...). Safe: no such command exists on the hardware. -/
  | noSuchPart
  /-- Raised by a tile command whose word is not of the row it was given under. Safe: the sender broke the form. -/
  | notThisCommand
  deriving DecidableEq, Repr

/-- Why a step has no meaning. -/
inductive Refusal where
  /-- Raised by the dispatch arms of rows not modelled yet. Safe. -/
  | notModelled (mnemonic : String)
  deriving DecidableEq, Repr

/-- The clocks of Table ARC-3 that the model counts. `mult` is TCLK in units of 31.25 MHz; `eclkAcc` and `mclkAcc` are what is
left until the next edge, from the present TCLK edge, in units of 1/mult house tick. -/
structure Clocks where
  tclk    : Nat
  mult    : Nat
  eclk    : Nat
  eclkAcc : Nat
  mclk    : Nat
  mclkAcc : Nat
  deriving DecidableEq, Repr

/-- The clock an agenda entry is due on. -/
inductive Clk where
  | tclk | eclk | mclk | house
  deriving DecidableEq, Repr

/-- Something under way: the command it becomes at its due cycle. -/
structure Timed where
  clk : Clk
  due : Nat
  ev  : Instr
  deriving DecidableEq, Repr

inductive HcState where
  | free | locking | locked | holdover
  deriving DecidableEq, Repr

/-- An announced correction of house time (R203): at frame `frame`, a slew of one frame by `slew` ticks or a step. -/
structure Announce where
  frame : Nat
  slew  : Int
  step  : Option W64
  deriving DecidableEq, Repr

/-- Consecutive house frames of 128 ticks with `n` TCLK edges each: the start of the first and the TCLK count of its first edge; `bad`
marks unstable ones (R138, R200). -/
structure HouseRun where
  start : W64
  tclk  : Nat
  n     : Nat
  bad   : Bool
  deriving DecidableEq, Repr

/-- The house clock (R31, R138). `edge` is the present TCLK edge's number in its frame, `fresh` says that a frame has begun and its
first edge is still to come, `lead` counts the TCLK edges until frame 0's first one (0 from then on), `len` is the TCLK edges of the
present frame (0 while TCLK is stopped) and `n` the count of the frame before. `unstable` is of the present frame, `badLast` of the
frame counted last, `nStat` the count of the latest stable frame. `href` is the HREF counter in cycle `hrefCyc` of its frame. `runs` tells of the frames so far, the latest first.
`ticks` is the length of the frame before in house ticks. `exch` is the t1 of the exchange under way, once it has been sent,
`exchOn` whether one is under way. -/
structure House where
  frameStart : W64
  edge       : Nat
  fresh      : Bool
  lead       : Nat
  n          : Nat
  len        : Nat
  unstable   : Bool
  badLast    : Bool
  nStat      : Nat
  frameNo    : Nat
  href       : W64
  hrefCyc    : Nat
  runs       : List HouseRun
  ticks      : Int
  state      : HcState
  offset     : BitVec 16
  good       : Nat
  slew       : Int
  announced  : List Announce
  /-- A correction is to be announced in the next frame's first edge. -/
  tell       : Bool
  adopt      : Option W64
  seedLo     : W32
  mgrLatch   : W32
  exch       : Option W64
  exchOn     : Bool
  holdSince  : Nat
  lastExch   : Nat
  excur      : W32
  deriving DecidableEq, Repr

/-- A staged WB word (R18, R35): the value and the mask of the bits acknowledged, and the writes that wait for their acknowledgement,
as value and mask, the oldest first. -/
structure Staged where
  val  : W32
  mask : W32
  pend : List (W32 × W32)
  deriving DecidableEq, Repr

/-- Bits of `m` taken from `v` over those staged before. -/
def Staged.put (g : Staged) (v m : W32) : Staged := { g with val := (g.val &&& ~~~ m) ||| (v &&& m), mask := g.mask ||| m }

/-- All that is staged, as if acknowledged. -/
def Staged.all (g : Staged) : Staged := { (g.pend.foldl (fun a x => a.put x.1 x.2) g) with pend := [] }

/-- A command accepted from STIR_CMD with the payload and TAG sampled with it (R45); `lim` where a limit kept it waiting as it was
written, which holds the tile until its issue (R51, R52). -/
structure StirCmd where
  word : W32
  pay  : W128
  tag  : BitVec 20
  at_  : Nat
  lim  : Bool
  deriving DecidableEq, Repr

/-- The pending CALL of a stirrup. `commit` is the quiescence payload most recently committed (R92). -/
structure PendCall where
  slot   : Nat
  hold   : Bool
  boot   : Bool
  cmd    : StirCmd
  commit : W128
  deriving DecidableEq, Repr

structure HomeFly where
  rid  : Nat
  held : Bool
  req  : HomeReq
  deriving DecidableEq, Repr

structure ExactFly where
  cmd   : StirCmd
  tally : Bool
  held  : Bool
  leftT : Nat
  deriving DecidableEq, Repr

/-- A stirrup: the sync window registers and the bookkeeping of R49 to R67. `roleAt` is the TCLK in which
its stamp was written or, in reduced service, in which the causes of its hold ended. -/
structure Stirrup where
  pay      : W128
  tag      : BitVec 20
  status   : BitVec 5
  verdict  : BitVec 2
  inexact  : Bool
  overflow : Bool
  posterr  : Bool
  /-- POSTERR set in the present TCLK: a read in it does not see nor clear it (R17). -/
  postNew  : Bool
  frozen   : Bool
  cause    : BitVec 4
  audit    : W32
  pushed   : W32
  res      : W128
  role     : W32
  newRole  : Option W32
  roleAt   : Option Nat
  outDie   : BitVec 10
  outPkg   : BitVec 10
  outFab   : BitVec 10
  houseHi  : W32
  call     : Option PendCall
  homeQ    : List StirCmd
  homeFly  : List HomeFly
  exactFly : List ExactFly
  cmdQ     : List StirCmd
  fence    : Option (BitVec 3)
  hold     : Bool
  iso      : Bool
  callLost : Bool
  lastPc   : BitVec 24
  deriving DecidableEq, Repr

/-- What a node holds of one epoch: the children that have arrived, and their combined partial. -/
structure Hold where
  kids   : List Nat
  voided : List Nat
  acc    : Option Partial
  poison : Bool
  votes  : List (Nat × BitVec 2)
  deriving DecidableEq, Repr

def Hold.none : Hold := { kids := [], voided := [], acc := .none, poison := false, votes := [] }

/-- A partial forwarded by a count slot: its number, the child partials it merged, and the epoch in which the root has counted it
(R90). At the root, an epoch that is cut and not yet decided, with its partial. -/
structure CountRec where
  seq   : Nat
  kids  : List (Nat × Nat)
  acc   : Option Partial
  epoch : Option W32
  deriving DecidableEq, Repr

/-- An abstention: the first epoch excluded and how many (0: until REJOIN); `asleep` marks one under R88 item 1. -/
structure Abst where
  member : Nat
  from_  : W32
  k      : Nat
  asleep : Bool
  deriving DecidableEq, Repr

/-- What one node holds for one slot. -/
structure NodeSlot where
  epoch   : W32
  sent    : Bool
  sentN   : Bool
  cur     : Hold
  nxt     : Hold
  late    : List Partial
  idle    : List (Nat × W32)
  abst    : List Abst
  idleSent : Bool
  ackWait : Bool
  ackKids : List Nat
  passT   : Nat
  lastEv  : Nat
  seqOut  : Nat
  recs    : List CountRec
  kidSeq  : List (Nat × Nat)
  cutAt   : Option Nat
  poisonNext : Bool
  /-- Members with a pending quiescence call whose next round is on its way (R92). -/
  again   : List Nat
  deriving DecidableEq, Repr

def NodeSlot.none : NodeSlot :=
  { epoch := 0, sent := false, sentN := false, cur := .none, nxt := .none, late := [], idle := [], abst := [], idleSent := false, ackWait := false,
    ackKids := [], passT := 0, lastEv := 0, seqOut := 0, recs := [], kidSeq := [], cutAt := .none, poisonNext := false, again := [] }

/-- A packet waiting for an outgoing link: its R25 key, the TCLK from which it may leave, its beats and hop, and its arrival. -/
structure LinkItem where
  link  : Nat
  prio  : Nat
  ready : Nat
  beats : Nat
  hop   : Nat
  ev    : Instr
  deriving DecidableEq, Repr

/-- A cue held at its root (R131, R132). `since` is the house time its hold counts from; `placed` after the end of RED. -/
structure HeldCue where
  at_    : Place
  cue    : Cue
  since  : Nat
  decT   : Nat
  placed : Bool
  due    : Bool
  deriving DecidableEq, Repr

/-- A cue delayed in a stall (R122): its remaining count and the stirrups it is due to. -/
structure WaveCue where
  stall : Nat
  cue   : Cue
  left  : Nat
  deriving DecidableEq, Repr

/-- A merge record (R158). `kids` keeps for each contributor: source, RID, MERGED, MREC. -/
structure MergeRec where
  node  : Nat
  idx   : Nat
  sem   : Nat
  sum   : Nat
  kids  : List (Nat × Nat × Bool × Nat)
  first : HomeReq
  sent  : Bool
  deriving DecidableEq, Repr

/-- A span cue scheduled for house time `t` (R194, R198, R200). -/
structure Sched where
  slot  : Nat
  t     : W64
  cue   : Cue
  deriving DecidableEq, Repr

/-- A REPLAY cue waiting for its undo (R219, R221), its decision TCLK, the entries the undo had to reverse, and what waits for its
end: verdict decisions of this die, and span cues received from another (R217). -/
structure UndoRun where
  part    : Nat
  at_     : Place
  cue     : Cue
  decT    : Nat
  entries : Nat
  waiting : List (Place × Nat)
  later   : List Sched
  deriving DecidableEq, Repr

/-- A packet on a tree link: the TCLK of its first beat, its beats, and itself (R23). -/
structure WireRun where
  link  : Nat
  since : Nat
  beats : Nat
  ev    : Instr
  deriving DecidableEq, Repr

structure Tree where
  undos    : List UndoRun
  nodes    : Tbl NodeSlot
  epochs   : Tbl W32
  links    : List LinkItem
  linkBusy : Tbl Nat
  wires    : List WireRun
  merges   : List MergeRec
  frozen   : List Nat
  held     : List HeldCue
  waves    : List WaveCue
  stageErr : Tbl Nat
  deriving DecidableEq, Repr

/-- A request crossing into ECLK; `entry` is the waiter entry of an ACQUIRE_PRI's second step (R154). -/
structure Crossing where
  due   : Nat
  req   : HomeReq
  entry : Option Nat
  deriving DecidableEq, Repr

/-- An item of a home input store. -/
structure HomeItem where
  req   : HomeReq
  entry : Option Nat
  deriving DecidableEq, Repr

/-- A wake pass running or due (R149): its object and the source of the operation that started it. -/
structure Pass where
  tok    : Bool
  obj    : Nat
  src    : Nat
  picked : Bool
  deriving DecidableEq, Repr

/-- What a TCLK-side decision asks of the ECLK side after its crossing (Table ARC-4): commit, discard or reverse a journal,
copy the home's counters at a freeze (R275). -/
inductive MarkKind where
  | commit | discard | reverse | counters
  deriving DecidableEq, Repr

structure Marker where
  due  : Nat
  part : Nat
  kind : MarkKind
  deriving DecidableEq, Repr

structure Home where
  crossing : List Crossing
  marks    : List Marker
  input    : Tbl (List HomeItem)
  deficit  : Tbl Nat
  ptr      : Tbl Nat
  bucket   : Tbl Nat
  lastPick : Tbl Nat
  passes   : List Pass
  undoing  : List (Nat × Nat)
  changed  : List (Nat × Bool × Nat)
  deriving DecidableEq, Repr

/-- A semaphore or token pool: V or C, the sequence counter, the FIFO as (entry, sequence number), the tags. -/
structure Obj where
  val  : W32
  seq  : W32
  fifo : List (Nat × W32)
  tags : List W32
  deriving DecidableEq, Repr

def Obj.none : Obj := { val := 0, seq := 0, fifo := [], tags := [] }

/-- A waiter entry (R155). `lag` is the age of the house time its ECLK edges carry (R151). `kept` marks one that has left its FIFOs and is kept for the journal (R161); `shadow` R220. -/
structure Waiter where
  req      : HomeReq
  count    : W32
  deadline : Option W64
  lag      : Nat
  links    : List (Bool × Nat × W32)
  shadow   : Bool
  kept     : Bool
  since    : Nat
  deriving DecidableEq, Repr

/-- A journal entry (Table HOM-9). -/
structure JEntry where
  type  : Nat
  tok   : Bool
  obj   : Nat
  part  : Nat
  who   : Nat
  entry : Nat
  seq   : W32
  data  : W32
  deriving DecidableEq, Repr

structure Journal where
  opened  : Bool
  closed  : Bool
  entries : List JEntry
  deriving DecidableEq, Repr

structure Tally where
  count    : W32
  expect   : W32
  armed    : Bool
  done     : Bool
  compl    : BitVec 16
  flagseen : Bool
  deriving DecidableEq, Repr

def Tally.none : Tally := { count := 0, expect := 0, armed := false, done := false, compl := 0, flagseen := false }

/-- What takes effect at the tally unit at TCLK `due`: a report or a command (R173, R178). -/
inductive TallyAct where
  | report (half lane tally : Nat) (units : BitVec 7)
  | cmd (r : TallyReq)
  deriving DecidableEq, Repr

structure TallyDue where
  due : Nat
  act : TallyAct
  deriving DecidableEq, Repr

/-- A TALLY_DONE strobe on its way: the TCLK from which it may leave the ports (R176). -/
structure Strobe where
  due   : Nat
  tally : Nat
  drop  : Bool
  deriving DecidableEq, Repr

structure Tallies where
  tbl     : Tbl Tally
  start   : Tbl Tally
  due     : List TallyDue
  strobes : List Strobe
  deriving DecidableEq, Repr

inductive PartState where
  | free | active | quiescing | quiesced | resetting
  deriving DecidableEq, Repr

structure Dirty where
  en     : Bool
  ovf    : Bool
  log2   : Nat
  baseLo : W32
  baseHi : W32
  prod   : BitVec 16
  cons   : BitVec 16
  /-- The ring is full where PROD and CONS agree (R249, LOG2SIZE 16). -/
  full   : Bool
  cache  : List W64
  deriving DecidableEq, Repr

/-- A partition. `causes` are the cause bits of its curtain, `curtain` those in effect on the die (R287, R288). -/
structure Part where
  state     : PartState
  causes    : BitVec 6
  curtain   : BitVec 6
  resetAt   : Nat
  replays   : Nat
  steps     : W32
  counters  : Tbl W64
  bank      : Tbl W64
  frzSeq    : BitVec 8
  frzTime   : W64
  frzValid  : Bool
  frozenMode : Bool
  rateEff   : Nat
  burstEff  : Nat
  shareEff  : Nat
  dirty     : Dirty
  houseHi   : W32
  pctrHi    : W32
  deriving DecidableEq, Repr

/-- The die curtain: the flag DIE as requested, in effect, and the TCLKs in which changes take effect; SEQ and the packets applied. -/
structure Curtain where
  raw      : Bool
  die      : Bool
  dues     : List (Nat × Nat)
  byError  : Bool
  scanOk   : Bool
  seq      : BitVec 8
  seen     : List (Nat × Nat)
  deriving DecidableEq, Repr

structure FaultRec where
  rep : Report
  seq : W32
  sev : Nat
  deriving DecidableEq, Repr

structure Attr where
  stamps   : List Nat
  scount   : BitVec 16
  retire   : Bool
  margined : Bool
  deriving DecidableEq, Repr

def Attr.none : Attr := { stamps := [], scount := 0, retire := false, margined := false }

/-- A signature of Table FLT-13, key by key. -/
structure Signature where
  dieId  : Nat
  serial : W128
  house  : W64
  type   : Nat
  unit   : Nat
  index  : Nat
  steps  : Nat
  stamps : Nat
  n      : Nat
  budget : Nat
  deriving DecidableEq, Repr

structure Recipe where
  seedpol : Option Nat
  floor   : Option Nat
  target  : Option (BitVec 1728)
  tfrac   : Option Nat
  deriving DecidableEq, Repr

structure Faults where
  log     : Tbl FaultRec
  head    : BitVec 12
  tail    : BitVec 12
  seq     : W32
  lost    : W32
  cnt     : Tbl W32
  gasp    : List FaultRec
  dieErr  : Bool
  logMem  : Bool
  faultN  : Bool
  corrAt  : Tbl Nat
  attr    : Tbl Attr
  steps   : W32
  mreq    : Bool
  msrc    : BitVec 12
  seedpol : Nat
  floor   : Nat
  tfrac   : Nat
  target  : BitVec 1728
  rcpSeq  : W32
  rcpResult : BitVec 4
  rcpStaged : Option Recipe
  pperr   : W64
  exports : List Signature
  expLost : W32
  deriving DecidableEq, Repr

structure Power where
  budget  : BitVec 2
  holds   : W32
  expired : W32
  sleep   : BitVec 18
  wake    : BitVec 18
  lastOut : Option Nat
  lastDue : Tbl Nat
  deriving DecidableEq, Repr

structure Bist where
  busy   : Bool
  result : BitVec 2
  fails  : BitVec 16
  kind   : Nat
  index  : Nat
  failed : List (Nat × Nat)
  deriving DecidableEq, Repr

/-- What a port sends in one TCLK: a tug's beat of 192 bits, or a rein flit of 512 bits (R190, Table FAB-8). -/
structure FabUnit where
  port : Nat
  bits : BitVec 512
  deriving DecidableEq, Repr

/-- A tug (0 N, 1 E, 2 S, 3 W) or rein peer (8 + i): the interface's training, in use, declared lost, cut off for its content
(Table PAR-7), raw transit, the neighbour's n, whether it waits to be measured again (R192), latest arrival and sending (house ticks),
resends of the beat under way, the times of its latest discarded flits, the packets of which some beats have come, the unit sent last
with its TCLK, and one to be resent with its TCLK. -/
structure FabPort where
  phy     : Bool
  up      : Bool
  lost    : Bool
  cut     : Bool
  transit : Nat
  peerN   : Nat
  again   : Bool
  lastRx  : Nat
  lastTx  : Nat
  resends : Nat
  bads    : List Nat
  asm     : List SpanPkt
  last    : Option (Nat × FabUnit)
  resend  : Option (Nat × FabUnit)
  deriving DecidableEq, Repr

def FabPort.none : FabPort :=
  { phy := false, up := false, lost := false, cut := false, transit := 0, peerN := 0, again := false, lastRx := 0, lastTx := 0,
    resends := 0, bads := [], asm := [], last := .none, resend := .none }

/-- BROKEN and LASTDIES of a span entry; `abortNext`: the open epoch ends once the cue decided before the loss has left (R208, R209). -/
structure SpanState where
  broken    : Bool
  lastDies  : Nat
  abortNext : Bool
  deriving DecidableEq, Repr

def SpanState.none : SpanState := { broken := false, lastDies := 0, abortNext := false }

/-- A packet to send on a port: the TCLK from which it may leave, its beats, and the next of them to go. -/
structure FabOut where
  port  : Nat
  part  : Option Nat
  pkt   : SpanPkt
  ready : Nat
  beats : Nat
  next  : Nat
  deriving DecidableEq, Repr

structure Fabric where
  ports    : Tbl FabPort
  reinUp   : Bool
  late     : W32
  latemax  : BitVec 16
  retry    : W32
  spans    : Tbl SpanState
  reinQ    : List FabOut
  sent     : List FabUnit
  credit   : Nat
  creditAt : Nat
  drrPtr   : Nat
  drr      : Tbl Nat
  sched    : List Sched
  bytes    : Tbl W64
  deriving DecidableEq, Repr

/-- A fetched descriptor: its words once decoded, the ECLK from which it may start, whether it has started or waits at its unit
under a curtain (Table OBS-8), whether it is refused, the physical ids its relative ids named at its check (R240, R241), and
the requests of a SEM_OP or TOKEN_OP still to send and to come back. -/
structure DescState where
  x       : Desc
  decoded : Bool
  /-- Ended before its words arrived: it completes with ABORTED when they do (R268, R270). -/
  aborted : Bool
  readyAt : Nat
  started : Bool
  parked  : Bool
  refusal : Nat
  /-- The ECLK in which a refused descriptor that runs outside the home is answered, 0 for none (R244). -/
  endAt   : Nat
  ids     : List Nat
  left    : Nat
  next    : Nat
  worst   : BitVec 5
  deriving DecidableEq, Repr

/-- A DMA write: partition whose PASID it carries, kind (1 completion, 2 event, 3 index, 4 snapshot, 5 dirty log), address,
data. `HostQ.kept` lists those of a QUIESCED partition, which wait for RESUME (R249). -/
structure DmaWrite where
  part : Nat
  kind : Nat
  addr : W64
  data : List W64
  deriving DecidableEq, Repr

/-- A DMA read: the PASID's partition, the address, its bytes (R258). -/
structure DmaRead where
  part  : Nat
  addr  : W64
  bytes : Nat
  deriving DecidableEq, Repr

/-- What leaves the engine towards the host, in issue order (R267, R270, R323): a write of at most 64 bytes within one 64-byte block, a
read, the ordering read of DMA_FLUSH, an interrupt behind the writes it announces. -/
inductive DmaItem where
  | write (w : DmaWrite) | read (r : DmaRead) | flush | irq (part vec : Nat)
  deriving DecidableEq, Repr

/-- The host queue engine. `dma` is the DMA request of this ECLK and `dmaQ` those waiting, one an ECLK (R323). `keptIrqs` follow the writes of `kept`; `cqSince` counts the completions since the last interrupt, `cqFirst`
is the time of the first of them, `cqWant` marks those with IRQ 1 among them (R267). -/
structure HostQ where
  descs    : List DescState
  rr       : Nat
  rrStart  : Nat
  rings    : Tbl Nat
  irqs     : List (Nat × Nat)
  keptIrqs : List (Nat × Nat)
  cqSince  : Tbl Nat
  cqFirst  : Tbl Nat
  cqWant   : W64
  dma      : Option DmaItem
  dmaQ     : List DmaItem
  kept     : List DmaWrite
  wbAt     : Tbl Nat
  wbDue    : List Nat
  hostCall : List (Nat × Desc)
  fly      : Tbl Nat
  off      : Bool
  /-- The read that follows the last writes of a power-down is under way (R270). -/
  flushWait : Bool
  deriving DecidableEq, Repr

/-- A trace record in the spill buffer. -/
structure TraceRec where
  part     : Nat
  reserved : Bool
  bits     : W128
  /-- Marked invalid: an uncorrectable error in the spill buffer (Table FLT-1). -/
  bad      : Bool
  deriving DecidableEq, Repr

/-- A SNAPSHOT request: whether it raised the curtain, and how far it is: 0 waits for the buffer, 1 for the curtain, 2 for the
capture, 3 for the write (R293). -/
structure SnapRun where
  x      : Desc
  raised : Bool
  stage  : Nat
  deriving DecidableEq, Repr

/-- A record formed in TCLK on its way into ECLK (Table ARC-4). -/
structure Capture where
  due : Nat
  item : TraceRec
  deriving DecidableEq, Repr

structure Observe where
  capture   : List Capture
  spill     : List TraceRec
  dropped   : W32
  dropPhase : Bool
  winLeft   : Nat
  winStart  : Nat
  entered   : Tbl Nat
  lostRun   : Tbl Nat
  lostAt    : Tbl Nat
  winDropped : List Nat
  frzArmed  : Bool
  frzLate   : Bool
  frzSeq    : BitVec 8
  /-- The partitions whose bank was filled in this TCLK (R275). -/
  frzNow    : List Nat
  ctrHi     : W32
  wpHits    : Tbl W32
  snaps     : List SnapRun
  snapBuf   : Tbl W64
  /-- The snapshot in the buffer is marked invalid (Table FLT-1). -/
  snapBad   : Bool
  deriving DecidableEq, Repr

/-- The accepted prompt book, record by record (Table BOO-5). -/
structure BookRec where
  type  : Nat
  value : List (BitVec 8)
  deriving DecidableEq, Repr

structure Book where
  copyB : Bool
  seq   : W32
  recs  : List BookRec
  deriving DecidableEq, Repr

/-- Start-up. `phase` of the book: 0 to be read, 1 read, 2 rows 1 to 4 passed, 3 to be read again (R306), 4 read again, 5 staged. -/
structure Boot where
  inReset   : Bool
  pwrgd     : Bool
  fuses     : Fuses
  stage     : BitVec 4
  halted    : Bool
  firstDone : Bool
  firstReq  : Bool
  copy      : BitVec 2
  unprov    : Bool
  sfdpOk    : Bool
  resA      : BitVec 4
  resB      : BitVec 4
  spiMode   : BitVec 3
  addr4     : Bool
  spiBusy   : Bool
  phase     : Nat
  sha       : Option (BitVec 384)
  bookSeq   : W32
  t1        : BitVec 16
  t2        : BitVec 16
  badIdx    : BitVec 16
  badType   : BitVec 16
  reduced   : Bool
  draining  : Bool
  book      : Option Book
  recipeKey : Option (List (BitVec 8))
  debugKey  : Option (List (BitVec 8))
  grade     : Nat
  logical   : Nat
  good      : BitVec 1728
  trims     : List (BitVec 12)
  deriving DecidableEq, Repr

structure Dbg where
  auth     : BitVec 2
  expiry   : W64
  nonce    : W64
  nonceOk  : Bool
  disabled : Bool
  result   : BitVec 4
  deriving DecidableEq, Repr

/-- Set-up ports: object port, die-wide request, partition commands, mailbox, read data. -/
structure SetUp where
  objValue : W32
  objCfg   : W32
  objWaiters : BitVec 16
  objBusy  : Bool
  objSeen  : Bool
  dwPending : Bool
  dwWait   : W64
  /-- Partitions whose boundary slot's epoch was aborted in this TCLK, which is their apply point (R134). -/
  abortWait : W64
  pcBusy   : Bool
  pcResult : BitVec 3
  pcCause  : BitVec 4
  mbBusy   : Bool
  mbResult : BitVec 4
  rdata    : W64
  revoked  : List (Nat × Nat)
  narrowed : W32
  deriving DecidableEq, Repr

/-- A flash pin as the engine drives it (R303, R322): not at all, at a level, as a clock, or as a data line driven and released. -/
inductive Pin where
  | released | level (high : Bool) | clock | data
  deriving DecidableEq, Repr

/-- SPI_CS_N, SPI_CLK and SPI_IO. -/
structure SpiPins where
  csN : Pin
  clk : Pin
  io0 : Pin
  io1 : Pin
  io2 : Pin
  io3 : Pin
  deriving DecidableEq, Repr

/-- SPI_CS_N high and the others undriven (R303). -/
def SpiPins.idle : SpiPins := { csN := .level true, clk := .released, io0 := .released, io1 := .released, io2 := .released, io3 := .released }

/-- Outputs as last driven. -/
structure Outs where
  spi       : SpiPins
  tallyDone : List (Nat × Bool)
  sample    : Option Nat
  ctrFreeze : Bool
  ctrSnap   : BitVec 8
  /-- What TRACE_D and TRACE_LOW carry in the two trace-clock cycles of a record (R276). -/
  trace     : List (W64 × Bool)
  /-- Whether that record is marked invalid (Table FLT-1; log 119). -/
  traceBad  : Bool
  tileCurtain : W64
  deriving DecidableEq, Repr

/-- What the present cycle of a register's clock has changed, for a read or a write in that cycle (R16, R17): the values of RC counters
before their increments, by offset (a page's LOST at 0x100000 + p); the lateness of this cycle's late cues; W1C bits set; the signatures
queued (R327). -/
structure Cycle where
  rc      : Tbl W32
  latemax : BitVec 16
  mreq    : Bool
  pperr   : W64
  frzLate : Bool
  exports : Nat
  deriving DecidableEq, Repr

def Cycle.none : Cycle := { rc := [], latemax := 0, mreq := false, pperr := 0, frzLate := false, exports := 0 }

/-- The engine of one die, and the queue of commands waiting for it. -/
structure State where
  clk      : Clocks
  house    : House
  force    : Tbl W32
  staged   : Tbl Staged
  su       : SetUp
  stirs    : Tbl Stirrup
  tree     : Tree
  agenda   : List Timed
  home     : Home
  objs     : Tbl Obj
  waiters  : Tbl Waiter
  journals : Tbl Journal
  tly      : Tallies
  parts    : Tbl Part
  cur      : Curtain
  flt      : Faults
  pwr      : Power
  bist     : Bist
  fab      : Fabric
  page     : Tbl W32
  hq       : HostQ
  obs      : Observe
  boot     : Boot
  dbg      : Dbg
  out      : Outs
  cyc      : Cycle
  free     : Nat
  pending  : List Instr
  deriving DecidableEq, Repr

/-- The boot call of R295: payload and TAG zero, vote CLEAN, held. -/
def bootCall : PendCall :=
  { slot := 0, hold := true, boot := true, cmd := { word := 0, pay := 0, tag := 0, at_ := 0, lim := false }, commit := 0 }

/-- A stirrup at reset (Tables STR-2 to STR-7, R295, Table INT-2). -/
def Stirrup.initial : Stirrup :=
  { pay := 0, tag := 0, status := 0, verdict := 0, inexact := false, overflow := false, posterr := false, postNew := false,
    frozen := false, cause := 0, audit := 0, pushed := 0, res := 0, role := 0, newRole := none, roleAt := none, outDie := 0, outPkg := 0,
    outFab := 0, houseHi := 0, call := some bootCall, homeQ := [], homeFly := [], exactFly := [],
    cmdQ := [], fence := none, hold := true, iso := false, callLost := false, lastPc := 0 }

def Dirty.initial : Dirty :=
  { en := false, ovf := false, log2 := 9, baseLo := 0, baseHi := 0, prod := 0, cons := 0, full := false, cache := [] }

/-- A partition at reset, in state `st` (R235). -/
def Part.initial (st : PartState) : Part :=
  { state := st, causes := 0, curtain := 0, resetAt := 0, replays := 0, steps := 0, counters := [], bank := [],
    frzSeq := 0, frzTime := 0, frzValid := false, frozenMode := false, rateEff := 0, burstEff := 16, shareEff := 16,
    dirty := .initial, houseHi := 0, pctrHi := 0 }

def Fuses.blank : Fuses :=
  { keyHash := 0, serial := 0, seed := 0, debugDis := false, minBook := 0, spiDiv := 0, grade := 0, goodMap := 0, trim := [] }

/-- The machine right after reset: held in reset, before UHK_RST_N is released (R314, R336, log 5). -/
def State.reset : State where
  clk := { tclk := 0, mult := 40, eclk := 0, eclkAcc := 1, mclk := 0, mclkAcc := 2 }
  house := { frameStart := 0, edge := 0, fresh := false, lead := 0, n := 0, len := 0, unstable := false, badLast := false, nStat := 0, frameNo := 0,
             href := 0, hrefCyc := 0, runs := [], ticks := 128, state := .free,
             offset := 0, good := 0, slew := 0, announced := [], tell := false, adopt := none, seedLo := 0, mgrLatch := 0, exch := none, exchOn := false,
             holdSince := 0, lastExch := 0, excur := 0 }
  force := []
  staged := []
  su := { objValue := 0, objCfg := 0, objWaiters := 0, objBusy := false, objSeen := false, dwPending := false, dwWait := 0, abortWait := 0,
          pcBusy := false, pcResult := 0, pcCause := 0, mbBusy := false, mbResult := 0, rdata := 0, revoked := [], narrowed := 0 }
  stirs := []
  tree := { undos := [], nodes := [], epochs := [], links := [], linkBusy := [], wires := [], merges := [], frozen := [], held := [], waves := [],
            stageErr := [] }
  agenda := []
  home := { crossing := [], marks := [], input := [], deficit := [], ptr := [], bucket := [], lastPick := [], passes := [],
            undoing := [], changed := [] }
  objs := []
  waiters := []
  journals := []
  tly := { tbl := [], start := [], due := [], strobes := [] }
  parts := [(0, Part.initial .active)]
  cur := { raw := false, die := false, dues := [], byError := false, scanOk := false, seq := 0, seen := [] }
  flt := { log := [], head := 0, tail := 0, seq := 0, lost := 0, cnt := [], gasp := [], dieErr := false, logMem := false,
           faultN := true, corrAt := [], attr := [], steps := 0, mreq := false, msrc := 0, seedpol := 0, floor := 0,
           tfrac := 0, target := 0, rcpSeq := 0, rcpResult := 0, rcpStaged := none, pperr := 0, exports := [],
           expLost := 0 }
  pwr := { budget := 0, holds := 0, expired := 0, sleep := 0, wake := 0, lastOut := none, lastDue := [] }
  bist := { busy := false, result := 0, fails := 0, kind := 0, index := 0, failed := [] }
  fab := { ports := [], reinUp := false, late := 0, latemax := 0, retry := 0, spans := [], reinQ := [], sent := [],
           credit := 0, creditAt := 0, drrPtr := 0, drr := [], sched := [], bytes := [] }
  page := []
  hq := { descs := [], rr := 0, rrStart := 0, rings := [], irqs := [], keptIrqs := [], cqSince := [], cqFirst := [], cqWant := 0, dma := none,
          dmaQ := [], kept := [], wbAt := [], wbDue := [],
          hostCall := [], fly := [], off := false, flushWait := false }
  obs := { capture := [], spill := [], dropped := 0, dropPhase := false, winLeft := 0, winStart := 0, entered := [], lostRun := [],
           lostAt := [], winDropped := [], frzArmed := false, frzLate := false, frzSeq := 0, frzNow := [], ctrHi := 0, wpHits := [],
           snaps := [], snapBuf := [], snapBad := false }
  boot := { inReset := true, pwrgd := true, fuses := Fuses.blank, stage := 0, halted := false, firstDone := false,
            firstReq := false, copy := 0, unprov := false, sfdpOk := false, resA := 0, resB := 0, spiMode := 0,
            addr4 := false, spiBusy := false, phase := 0, sha := none, bookSeq := 0, t1 := 0, t2 := 0, badIdx := 0, badType := 0, reduced := true,
            draining := false, book := none, recipeKey := none, debugKey := none, grade := 0, logical := 0,
            good := 0, trims := [] }
  dbg := { auth := 0, expiry := 0, nonce := 0, nonceOk := false, disabled := false, result := 0 }
  out := { spi := .idle, tallyDone := [], sample := none, ctrFreeze := false, ctrSnap := 0, trace := [], traceBad := false, tileCurtain := 0 }
  cyc := Cycle.none
  free := 0
  pending := []

end Sys2Proof.Machine
end

