-- ==== Sys2Proof/Machine/Tbl.lean ====
section
/-! DEFINITION. The operations of sparse stores. `d` is what an unlisted key reads as. -/

namespace Sys2Proof.Tbl

/-- Reading a key. -/
def get {α : Type} (d : α) : Tbl α → Nat → α
  | [], _ => d
  | (k, v) :: t, i => if i = k then v else get d t i

/-- Whether a key is listed. -/
def has {α : Type} : Tbl α → Nat → Bool
  | [], _ => false
  | (k, _) :: t, i => i == k || has t i

/-- Removing a key. -/
def erase {α : Type} : Nat → Tbl α → Tbl α
  | _, [] => []
  | i, (k, v) :: t => if i = k then t else (k, v) :: erase i t

/-- Inserting a key at its place, in place of what it held. -/
def insert {α : Type} (i : Nat) (a : α) : Tbl α → Tbl α
  | [] => [(i, a)]
  | (k, v) :: t =>
    if i < k then (i, a) :: (k, v) :: t
    else if i = k then (i, a) :: t
    else (k, v) :: insert i a t

/-- Writing a key: the value an unlisted key reads as removes the entry. -/
def set {α : Type} [DecidableEq α] (d : α) (i : Nat) (a : α) (t : Tbl α) : Tbl α :=
  if a = d then erase i t else insert i a t

/-- Changing a key's value. -/
def upd {α : Type} [DecidableEq α] (d : α) (i : Nat) (f : α → α) (t : Tbl α) : Tbl α :=
  set d i (f (get d t i)) t

/-- Keys strictly rise from `lo` on, and no entry equals what its key reads as unlisted. -/
def wfFrom {α : Type} [DecidableEq α] (d : Nat → α) : Nat → Tbl α → Bool
  | _, [] => true
  | lo, (k, v) :: t => decide (lo ≤ k) && decide (v ≠ d k) && wfFrom d (k + 1) t

/-- The canonical form. -/
def wf {α : Type} [DecidableEq α] (d : Nat → α) (t : Tbl α) : Bool := wfFrom d 0 t

end Sys2Proof.Tbl
end

