-- ==== Sys2Proof/Machine/Ops.lean ====
section
/-! DEFINITION. The named operations every meaning shares: places of the tree, time, the agenda, register words, fault
reports, partition records. -/

namespace Sys2Proof

/-! ## Places (R21) -/

def nStirrup : Nat := 1728

def stallOf (st : Nat) : Nat := (st / 864) * 54 + ((st % 864) / 36 / 4) * 9 + (st % 36) / 4

/-- R21's barn number of a stirrup, from its row and column. -/
def barnOfStirrup (st : Nat) : Nat := (st / 864) * 9 + ((st % 864) / 36 / 8) * 3 + (st % 36) / 12

/-- The barn of a stall: six stalls, three columns by two rows. -/
def barnOf (stall : Nat) : Nat := (stall / 54) * 9 + ((stall % 54) / 9 / 2) * 3 + (stall % 9) / 3

def halfOf (barn : Nat) : Nat := barn / 9

/-- The stirrups of a stall, ascending. -/
def stirrupsOf (stall : Nat) : List Nat :=
  let base := (stall / 54) * 864 + ((stall % 54) / 9) * 4 * 36 + (stall % 9) * 4
  (List.range 4).flatMap fun r => (List.range 4).map fun c => base + r * 36 + c

/-- The node number of Table FLT-10. -/
def Place.node : Place → Nat
  | .stirrup n => n
  | .stall n => n
  | .barn n => 126 + n
  | .half n => 144 + n
  | .die => 146

/-- Whether the place exists. -/
def Place.ok : Place → Bool
  | .stirrup n => n < nStirrup
  | .stall n => n < 108
  | .barn n => n < 18
  | .half n => n < 2
  | .die => true

/-- The parent of a place and the number by which the parent knows it. -/
def Place.parent : Place → Option (Place × Nat)
  | .stirrup n => some (.stall (stallOf n), n)
  | .stall n => some (.barn (barnOf n), n)
  | .barn n => some (.half (halfOf n), n)
  | .half n => some (.die, n)
  | .die => none

/-- Level in the encoding of ROOT (Table BAR-1): 0 stall, 1 barn, 2 half, 3 die. -/
def Place.lvl : Place → Nat
  | .stirrup _ => 0
  | .stall _ => 0
  | .barn _ => 1
  | .half _ => 2
  | .die => 3

/-- The node of level `l` above a stirrup. -/
def nodeAbove (l : Nat) (st : Nat) : Place :=
  match l with
  | 0 => .stall (stallOf st)
  | 1 => .barn (barnOfStirrup st)
  | 2 => .half (st / 864)
  | _ => .die

/-- Child numbers at the die root: halves 0 and 1, the host member 2, tugs 16 to 19, rein peers 24 to 39. -/
def hostChild : Nat := 2
def portChild (port : Nat) : Nat := 16 + port

/-- Up-path hop above a node (Table ARC-7), before doubling in reduced service. -/
def Place.hopUp : Place → Nat
  | .stirrup _ => 3
  | .stall _ => 5
  | .barn _ => 7
  | .half _ => 9
  | .die => 0

/-- Outgoing link numbers: upward from a place, and downward to it from its parent. -/
def Place.linkUp : Place → Nat
  | .stirrup n => n
  | .stall n => 2000 + n
  | .barn n => 2200 + n
  | .half n => 2300 + n
  | .die => 2400

def Place.linkDown (c : Place) : Nat := 4000 + c.linkUp

/-- The link from a half root to its home port (Table ARC-8). -/
def homePortLink (half : Nat) : Nat := 8000 + half
/-- The link from a half root's home port downwards. -/
def homePortDown (half : Nat) : Nat := 8010 + half

end Sys2Proof

namespace Sys2Proof.Machine

/-! ## Answers and service -/

/-- A register write: without effect while the engine is held in reset (R297, R324). -/
def regWrite (f : State → State) (s : State) : State := if s.boot.inReset then s else f s

/-- Whether a target of Table FLT-8 is under test or out of service after one (R229). -/
def isolated (s : State) (kind i : Nat) : Bool :=
  (s.bist.busy && s.bist.kind == kind && s.bist.index == i) || s.bist.failed.contains (kind, i)


/-- The answer of a command that names existing parts. -/
def answer (ok : Bool) (t : State) : Host.Outcome State Fault Refusal :=
  if ok then .next t else .fault .noSuchPart

/-! ## Time -/

/-- A latency in TCLK, doubled in reduced service (R300, Table BOO-3). -/
def scaled (s : State) (n : Nat) : Nat := if s.boot.reduced then 2 * n else n

/-- n of R31's formula: the count of the frame before (R138), or TCLK's own n where no frame, or a gap of none, was counted (log 2). -/
def nOf (s : State) : Nat := if s.house.n = 0 then s.clk.mult else s.house.n

/-- House time with its 7-bit fraction, in units of 1/128 tick (R31): edge k of a frame lies k * 128 / n ticks after its start. -/
def houseFine (s : State) : Nat := s.house.frameStart.toNat * 128 + s.house.edge * 128 * 128 / nOf s

/-- House time of the current TCLK edge in whole ticks (R31, R47). -/
def houseNow (s : State) : W64 := BitVec.ofNat 64 (houseFine s / 128)

/-- Ticks of 0.25 ns in a microsecond. -/
def usTicks : Nat := 4000

/-- Takes one free value below `m` (log 4). -/
def takeFree (m : Nat) (s : State) : Nat × State := (Config.freeNat s.free % m, { s with free := s.free + 1 })

/-- Period of a clock in units of 1/mult tick. -/
def period (s : State) : Clk → Nat
  | .tclk => 128
  | .eclk => 4 * s.clk.mult
  | .mclk => 20 * s.clk.mult
  | .house => s.clk.mult

/-- The present count of a clock. -/
def clkNow (s : State) : Clk → Nat
  | .tclk => s.clk.tclk
  | .eclk => s.clk.eclk
  | .mclk => s.clk.mclk
  | .house => (houseNow s).toNat

/-- The latest destination edge a crossing of bound `a` source + `b` destination cycles may take (R33, Table ARC-4). -/
def crossBound (s : State) (src dst : Clk) (a b : Nat) : Nat := b + a * period s src / max 1 (period s dst)

/-- The first TCLK edge no earlier than `a` MCLK and `b` TCLK from the present MCLK edge (R334). -/
def mclkThen (s : State) (a b : Nat) : Nat := s.clk.tclk + b + (s.clk.mclkAcc + (a - 1) * period s .mclk + 127) / 128

/-- The destination cycle in which an item crossing now becomes usable: free between the second edge and the bound (R33, log 3). -/
def crossDue (s : State) (src dst : Clk) (a b : Nat) : Nat × State :=
  let (f, s1) := takeFree (crossBound s src dst a b - 1) s
  (clkNow s dst + 2 + f, s1)

/-! ## The agenda -/

def schedule (c : Clk) (due : Nat) (ev : Instr) (s : State) : State :=
  { s with agenda := s.agenda ++ [{ clk := c, due := due, ev := ev }] }

/-- `n` TCLK from now. -/
def afterT (n : Nat) (ev : Instr) (s : State) : State := schedule .tclk (s.clk.tclk + n) ev s

def afterE (n : Nat) (ev : Instr) (s : State) : State := schedule .eclk (s.clk.eclk + n) ev s

/-- `us` microseconds of house time from now. -/
def afterUs (us : Nat) (ev : Instr) (s : State) : State :=
  schedule .house ((houseNow s).toNat + us * usTicks) ev s

/-- Across a clock crossing. -/
def across (src dst : Clk) (a b : Nat) (ev : Instr) (s : State) : State :=
  let (d, s1) := crossDue s src dst a b
  schedule dst d ev s1

/-- Drops the agenda entries that `p` names. -/
def unschedule (p : Instr → Bool) (s : State) : State := { s with agenda := s.agenda.filter fun t => !p t.ev }

/-! ## Register words -/

/-- Keys of the indirect words. -/
def rosterKey (st : Nat) : Nat := 0x20000 + st
def memberKey (slot w : Nat) : Nat := 0x30000 + 54 * slot + w
def objCfgKey (tok : Bool) (i : Nat) : Nat := 0x40000 + (if tok then 0x2000 else 0) + i
def partKey (p w : Nat) : Nat := 0x1000 + 64 * p + w
def slotKey (slot w : Nat) : Nat := 0x2000 + 16 * slot + w
def verdKey (p : Nat) : Nat := 0x4900 + 4 * p
def wpKey (w o : Nat) : Nat := 0x4400 + 32 * w + o
def spanKey (e o : Nat) : Nat := 0x6100 + 16 * e + o
def gaitKey (p o : Nat) : Nat := 0x4000 + 64 * p + o
def usKey (b : Nat) : Nat := 0x8000 + 4 * b

/-- The reset value of a register word (the Reset columns of the tables, R72, R235). -/
def resetWord (key : Nat) : W32 :=
  if key = 0x0100 then 0x0000_4004#32
  else if 0x1000 ≤ key ∧ key < 0x2000 then
    let o := (key - 0x1000) % 64
    if o = 0x0C then 0x1010_1010#32
    else if o = 0x10 then 0x0000_0010#32
    else if key = 0x1014 then 0x4000_1000#32
    else if key = 0x1018 ∨ key = 0x1020 ∨ key = 0x1030 ∨ key = 0x1038 then 1#32
    else 0#32
  else if key = 0x2000 then 0x80C0_0000#32
  else if 0x2000 ≤ key ∧ key < 0x4000 ∧ key % 16 = 0 then 0x01C0_0000#32
  else if key = 0x4800 then 2#32
  else if key = 0x4844 then 0x0000_0063#32
  else if key = 0x4848 then 0x000F_4240#32
  else if 0x4900 ≤ key ∧ key < 0x4A00 then 0x1000_0402#32
  else if key = 0x5000 then 0x00E0_0000#32
  else if key = 0x6000 then 0x4002_0014#32
  else if key = 0x6004 then 8#32
  else if key = 0x7000 then 0x0000_0075#32
  else if key = 0x7004 then 0x0064_0040#32
  else 0#32

/-- The word in force at a key. -/
def reg (s : State) (key : Nat) : W32 := Tbl.get (resetWord key) s.force key

def setReg (key : Nat) (v : W32) (s : State) : State := { s with force := Tbl.set (resetWord key) key v s.force }

/-- A field of the word in force. -/
def fld (s : State) (key hi lo : Nat) : Nat := bitsN (reg s key) hi lo

def noStage : Staged := { val := 0, mask := 0, pend := [] }

def stagedAt (s : State) (key : Nat) : Staged := Tbl.get noStage s.staged key

def setStage (key : Nat) (g : Staged) (s : State) : State := { s with staged := Tbl.set noStage key g s.staged }

/-- Staged bits over the bits in force. -/
def overWord (w : W32) (g : Staged) : W32 := (w &&& ~~~ g.mask) ||| (g.val &&& g.mask)

/-- The word as staged. -/
def stagedWord (s : State) (key : Nat) : W32 := overWord (reg s key) (stagedAt s key).all

/-- The word that an apply of the acknowledged staged values would put in force (R35). -/
def nextWord (s : State) (key : Nat) : W32 := overWord (reg s key) (stagedAt s key)

/-- Stages `v` under `mask`; the acknowledgement follows its crossing (R18, R35, Table ARC-4). -/
def stage (key : Nat) (v mask : W32) (s : State) : State :=
  let g := stagedAt s key
  across .mclk .tclk 2 3 (.wbAcknowledge key) (setStage key { g with pend := g.pend ++ [(v, mask)] } s)

/-- The oldest write of a word that waits is held on the TCLK side. -/
def ackStage (key : Nat) (s : State) : State :=
  let g := stagedAt s key
  match g.pend with
  | [] => s
  | x :: t => setStage key { g.put x.1 x.2 with pend := t } s

/-- Discards all that is staged of a word. -/
def unstage (key : Nat) (s : State) : State := { s with staged := Tbl.erase key s.staged }

/-- The acknowledged staged bits are gone, by an apply or a rejection (R338). -/
def settleStage (key : Nat) (s : State) : State := setStage key { noStage with pend := (stagedAt s key).pend } s

/-- Puts the acknowledged staged bits in force. -/
def applyWord (key : Nat) (s : State) : State :=
  if (stagedAt s key).mask ≠ 0 then settleStage key (setReg key (nextWord s key) s) else s

/-- Replaces bits [hi:lo] of a word. -/
def putBits (w : W32) (hi lo : Nat) (v : Nat) : W32 :=
  let m : W32 := BitVec.ofNat 32 ((2 ^ (hi - lo + 1) - 1) <<< lo)
  (w &&& ~~~ m) ||| (BitVec.ofNat 32 (v <<< lo) &&& m)

/-- The set-up of an on-page register word (partition page `p`, offset `o`). -/
def pageKey (p o : Nat) : Nat := p * 0x1000 + o

def pageReset (key : Nat) : W32 :=
  let o := key % 0x1000
  if o < 0x80 ∧ o % 0x20 = 8 then 6#32
  else if o = 0x88 then 0x0001_0006#32
  else if o = 0xA8 then 6#32
  else 0#32

def pageReg (s : State) (p o : Nat) : W32 := Tbl.get (pageReset (pageKey p o)) s.page (pageKey p o)

def setPage (p o : Nat) (v : W32) (s : State) : State :=
  { s with page := Tbl.set (pageReset (pageKey p o)) (pageKey p o) v s.page }

/-! ## Fault reports (R230) -/

/-- Severity of a record type (Table FLT-11). -/
def sevOf (type : Nat) : Nat :=
  if type ∈ [0x02, 0x05, 0x0A, 0x0F, 0x10] then 0
  else if type ∈ [0x0D, 0x11, 0x12, 0x13, 0x14, 0x18] then 2
  else if type ∈ [0x1B, 0x1C] then 3
  else 1

/-- The clock of a subsystem (Table ARC-2). -/
def unitClk (unit : Nat) : Clk :=
  if unit ∈ [7, 8, 9, 17, 19] then .eclk else if unit ∈ [16, 18, 20] then .mclk else .tclk

/-- Sends a report towards the fault manager: it crosses into MCLK (Table ARC-4). -/
def report (type unit index : Nat) (part : Option Nat) (detail : List Nat) (s : State) : State :=
  across (unitClk unit) .mclk 2 3
    (.faultReport { type := type, unit := unit, index := index, part := part, house := houseNow s, detail := detail }) s

/-- A manager-access record: offset, written value, cause (Table FLT-11). -/
def mgrAccess (off v cause : Nat) (s : State) : State := report 0x01 20 0 none [off, v, cause] s

/-- A staged entry refused at its apply point: a manager-access record of the partition and policy unit that names the entry, its
partition and the failed row (R73). -/
def entryReject (off v row entry : Nat) (p : Option Nat) (s : State) : State := report 0x01 16 entry p [off, v, row] s

/-- The subsystem of a port: the tug ports, or the rein adapter (Table ARC-2). -/
def portUnit (port : Nat) : Nat := if port < 4 then 11 else 12

/-! ## Stirrups, nodes, objects, partitions -/

def stir (s : State) (i : Nat) : Stirrup := Tbl.get Stirrup.initial s.stirs i

def setStir (i : Nat) (x : Stirrup) (s : State) : State := { s with stirs := Tbl.set Stirrup.initial i x s.stirs }

def updStir (i : Nat) (f : Stirrup → Stirrup) (s : State) : State := setStir i (f (stir s i)) s

def nodeKey (at_ : Place) (slot : Nat) : Nat := at_.node * 512 + slot

def node (s : State) (at_ : Place) (slot : Nat) : NodeSlot := Tbl.get NodeSlot.none s.tree.nodes (nodeKey at_ slot)

def setNode (at_ : Place) (slot : Nat) (x : NodeSlot) (s : State) : State :=
  { s with tree := { s.tree with nodes := Tbl.set NodeSlot.none (nodeKey at_ slot) x s.tree.nodes } }

def epochOf (s : State) (slot : Nat) : W32 := Tbl.get 0#32 s.tree.epochs slot

def setEpoch (slot : Nat) (e : W32) (s : State) : State :=
  { s with tree := { s.tree with epochs := Tbl.set 0#32 slot e s.tree.epochs } }

def objIx (tok : Bool) (i : Nat) : Nat := (if tok then 0x2000 else 0) + i

def obj (s : State) (tok : Bool) (i : Nat) : Obj := Tbl.get Obj.none s.objs (objIx tok i)

def setObj (tok : Bool) (i : Nat) (x : Obj) (s : State) : State := { s with objs := Tbl.set Obj.none (objIx tok i) x s.objs }

def partFree : Part := Part.initial .free

def part (s : State) (p : Nat) : Part := Tbl.get partFree s.parts p

def setPart (p : Nat) (x : Part) (s : State) : State := { s with parts := Tbl.set partFree p x s.parts }

def updPart (p : Nat) (f : Part → Part) (s : State) : State := setPart p (f (part s p)) s

def counter (s : State) (p i : Nat) : W64 := Tbl.get 0#64 (part s p).counters i

/-- Adds to counter `i` of partition `p` (Table OBS-1, R271). -/
def count (p i n : Nat) (s : State) : State :=
  updPart p (fun x => { x with counters := Tbl.set 0#64 i (Tbl.get 0#64 x.counters i + BitVec.ofNat 64 n) x.counters }) s

def tallyNone : Tally := Tally.none

def tally (s : State) (i : Nat) : Tally := Tbl.get Tally.none s.tly.tbl i

def setTally (i : Nat) (x : Tally) (s : State) : State :=
  { s with tly := { s.tly with tbl := Tbl.set Tally.none i x s.tly.tbl } }

def stageErr (s : State) (key : Nat) : Bool := Tbl.get 0 s.tree.stageErr key != 0

def setStageErr (key : Nat) (b : Bool) (s : State) : State :=
  { s with tree := { s.tree with stageErr := Tbl.set 0 key (if b then 1 else 0) s.tree.stageErr } }

/-! ## Cycles of registers (R16, R17) -/

/-- The clock of an RC register: MCLK in the fault manager, ECLK for trace and the rings, TCLK for the others. -/
def rcClock (off : Nat) : Clk :=
  if (0x4800 ≤ off ∧ off < 0x4A80) ∨ off = 0x1_0014 then .mclk
  else if off = 0x5008 ∨ 0x100000 ≤ off then .eclk
  else .tclk

/-- Keeps the value an RC register had before its first increment of the cycle (R17). -/
def rcBefore (off : Nat) (old : W32) (s : State) : State :=
  if Tbl.has s.cyc.rc off then s else { s with cyc := { s.cyc with rc := Tbl.insert off old s.cyc.rc } }

/-- What a read of an RC register returns, and what the register then holds: an increment of the same cycle is kept (R17). -/
def rcSplit (s : State) (off : Nat) (now : W32) : W32 × W32 :=
  match s.cyc.rc.lookup off with
  | some old => (old, now - old)
  | none => (now, 0)

/-- A read has cleared an RC register: what it holds is of this cycle. -/
def rcTaken (off : Nat) (s : State) : State :=
  if Tbl.has s.cyc.rc off then { s with cyc := { s.cyc with rc := Tbl.insert off 0 s.cyc.rc } } else s

/-- A cycle of clock `c` begins. -/
def newCycle (c : Clk) (s : State) : State :=
  let rc := s.cyc.rc.filter fun x => rcClock x.1 != c
  { s with cyc := match c with
      | .mclk => { Cycle.none with rc := rc, latemax := s.cyc.latemax }
      | .tclk => { s.cyc with rc := rc, latemax := 0 }
      | _ => { s.cyc with rc := rc } }

/-! ## Ownership (R71, R235, R240) -/

/-- A bit of a partition's map: slots at 0x18, semaphores at 0x20, tokens at 0x30, tallies at 0x38. -/
def mapBit (s : State) (p base g : Nat) : Bool := bitB (reg s (partKey p (base + 4 * (g / 32)))) (g % 32)

/-- The partition whose map holds group `g`, the lowest. -/
def ownerOf (s : State) (base g : Nat) : Option Nat :=
  (List.range 64).find? fun p => (part s p).state ≠ .free && mapBit s p base g

/-- In reduced service the shadows grant partition 0 slot 0 and semaphores 0 to 63 alone (Table BOO-3). -/
def slotOwner (s : State) (slot : Nat) : Option Nat :=
  if s.boot.reduced then (if slot = 0 then some 0 else none) else ownerOf s 0x18 (slot / 8)

def objOwner (s : State) (tok : Bool) (i : Nat) : Option Nat :=
  if s.boot.reduced then (if !tok && i < 64 then some 0 else none)
  else if tok then ownerOf s 0x30 (i / 32) else ownerOf s 0x20 (i / 64)

/-- The partition a tally's group is allocated to (R174). -/
def tallyOwner (s : State) (i : Nat) : Option Nat := ownerOf s 0x38 (i / 16)

/-- The partition that the stalls' shadows let command a tally: none in reduced service (Table BOO-3). -/
def tallyGrant (s : State) (i : Nat) : Option Nat := if s.boot.reduced then none else tallyOwner s i

/-- The objects of a kind that `p` owns, ascending (R240). -/
def owned (s : State) (p base per total : Nat) : List Nat :=
  (List.range total).filter fun i => mapBit s p base (i / per)

/-- The physical number of relative id `j` (R240). -/
def physical (s : State) (p base per total j : Nat) : Option Nat := (owned s p base per total)[j]?

/-! ## Role stamps and members (R59, R76) -/

def rosterWord (s : State) (st : Nat) : W32 := reg s (rosterKey st)
def wAssigned (w : W32) : Bool := bitB w 31
def wPart (w : W32) : Nat := bitsN w 15 10
def wVtile (w : W32) : Nat := bitsN w 26 16
def wStamp (w : W32) : BitVec 16 := w.setWidth 16

/-- Whether the roster in force assigns a stirrup to partition `p`. -/
def assignedTo (s : State) (p st : Nat) : Bool := wAssigned (rosterWord s st) && wPart (rosterWord s st) == p

def assignedOf (s : State) (p : Nat) : List Nat := (List.range nStirrup).filter (assignedTo s p)

/-- The stamp in force for partition `p`'s members (R59): the stamp of its lowest assigned stirrup, which R333 row 4 makes common. -/
def stampOf (s : State) (p : Nat) : BitVec 16 :=
  match (List.range nStirrup).find? (assignedTo s p) with
  | some st => wStamp (rosterWord s st)
  | none => BitVec.ofNat 16 (p * 1024)

def slotCfg (s : State) (slot : Nat) : W32 := reg s (slotKey slot 0)
def slotPlace (s : State) (slot : Nat) : W32 := reg s (slotKey slot 8)
def slotMode (s : State) (slot : Nat) : Nat := bitsN (slotCfg s slot) 30 29
def slotOp (s : State) (slot : Nat) : BitVec 5 := BitVec.ofNat 5 (bitsN (slotCfg s slot) 14 10)
def slotFmt (s : State) (slot : Nat) : BitVec 4 := BitVec.ofNat 4 (bitsN (slotCfg s slot) 9 6)
def slotVerdict (s : State) (slot : Nat) : Bool := bitB (slotCfg s slot) 28
def slotHost (s : State) (slot : Nat) : Bool := bitB (slotCfg s slot) 26
def slotCountN (s : State) (slot : Nat) : Nat := bitsN (reg s (slotKey slot 4)) 10 0

/-- Membership by the given words (R72, R75, R76). -/
def memberBy (s : State) (cfg : W32) (bit : Bool) (slot st : Nat) : Bool :=
  if bitB cfg 25 then bit
  else match slotOwner s slot with
    | some p => assignedTo s p st
    | none => false

/-- Whether a stirrup is a member of a slot in force. -/
def isMember (s : State) (slot st : Nat) : Bool :=
  memberBy s (slotCfg s slot) (bitB (reg s (memberKey slot (st / 32))) (st % 32)) slot st

def members (s : State) (slot : Nat) : List Nat := (List.range nStirrup).filter (isMember s slot)

/-- The stalls that hold a member of the slot: the leaves of its child masks (R76). -/
def memberStalls (s : State) (slot : Nat) : List Nat :=
  (List.range 108).filter fun k => (stirrupsOf k).any (isMember s slot)

/-- The lowest level whose subtree contains every listed stirrup (R82). -/
def coverLevel (l : List Nat) : Nat :=
  match l with
  | [] => 3
  | a :: t =>
    if t.all fun b => stallOf b == stallOf a then 0
    else if t.all fun b => barnOfStirrup b == barnOfStirrup a then 1
    else if t.all fun b => b / 864 == a / 864 then 2
    else 3

/-- EFFROOT: the level in force (R82). -/
def effRoot (s : State) (slot : Nat) : Nat :=
  let r := bitsN (slotCfg s slot) 24 22
  if r = 7 then (if slotHost s slot then 3 else coverLevel (members s slot)) else r

/-- The root node of a slot on this die (R82). -/
def rootOf (s : State) (slot : Nat) : Place :=
  let r := bitsN (slotCfg s slot) 24 22
  let n := bitsN (slotCfg s slot) 21 15
  if r = 0 then .stall n
  else if r = 1 then .barn n
  else if r = 2 then .half n
  else if r = 7 then
    (match members s slot with
     | a :: _ => nodeAbove (effRoot s slot) a
     | [] => .die)
  else .die

/-- Whether the slot is rooted above the die. -/
def spanRooted (s : State) (slot : Nat) : Bool := bitsN (slotCfg s slot) 24 22 == 4 || bitsN (slotCfg s slot) 24 22 == 5

/-- The boundary slot of a partition (R95, Table PAR-1). -/
def boundary (s : State) (p : Nat) : Nat := if p = 0 then 0 else fld s (partKey p 0) 20 12

/-- Whether partition `p` is covered by a curtain in effect (R287, R288); a reset's covers it from the trigger TCLK (R214; log 41). -/
def covered (s : State) (p : Nat) : Bool := s.cur.die || (part s p).curtain != 0 || (part s p).state == .resetting

/-- The index of a stall within its barn (R228). -/
def usIndex (stall : Nat) : Nat := (stall % 54 / 9) % 2 * 3 + (stall % 54 % 9) % 3

/-- The active parent is the stall or its understudy (R22), with equal latencies; UHK_US_MAP tells which is in force (R228). The tree
names both by the stall. -/
def understudyOf (s : State) (stall : Nat) : Bool :=
  let w := reg s (usKey (barnOf stall))
  bitB w 3 && bitsN w 2 0 == usIndex stall

/-- The node number of the part in force at a place (Table FLT-10): an understudy has its own, 108 + b (R21). -/
def nodeNumber (s : State) (at_ : Place) : Nat :=
  match at_ with
  | .stall k => if understudyOf s k then 108 + barnOf k else k
  | _ => at_.node

/-- Its subsystem (Table ARC-2). -/
def nodeUnit (s : State) (at_ : Place) : Nat :=
  match at_ with
  | .stirrup _ => 1
  | .stall k => if understudyOf s k then 3 else 2
  | .barn _ => 3
  | .half _ => 4
  | .die => 5

end Sys2Proof.Machine
end

