-- ==== Sys2Proof/Machine/Flags.lean ====
section
/-! DEFINITION. Status codes and their ranking (R56), votes and their merging (R59, R213), and the flags of a cue (R113). -/

namespace Sys2Proof.Machine

/-- The status codes of Table STR-11. -/
def stOk : BitVec 5 := 0x00#5
def stReplay : BitVec 5 := 0x01#5
def stAborted : BitVec 5 := 0x02#5
def stWatch : BitVec 5 := 0x03#5
def stTimeout : BitVec 5 := 0x04#5
def stEmpty : BitVec 5 := 0x05#5
def stBusy : BitVec 5 := 0x06#5
def stRefused : BitVec 5 := 0x10#5

/-- ABORTED outranks REPLAY, REPLAY outranks WATCH, WATCH outranks OK (R56). -/
def statusRank (x : BitVec 5) : Nat :=
  if x = stAborted then 3 else if x = stReplay then 2 else if x = stWatch then 1 else 0

def statusMax (a b : BitVec 5) : BitVec 5 := if statusRank a < statusRank b then b else a

/-- The worse of two completion statuses of a multi-object request (R261): any failure outranks OK; DESIGN CHOICE among failures (log 25). -/
def statusWorse (a b : BitVec 5) : BitVec 5 := if a = stOk then b else if b = stOk then a else if a.toNat < b.toNat then b else a

def voteClean : BitVec 2 := 0#2
def voteDetected : BitVec 2 := 1#2
def voteSuspect : BitVec 2 := 2#2
def votePoison : BitVec 2 := 3#2

/-- Rank of a vote in merging: POISON above DETECTED above SUSPECT above CLEAN (R59, R213). -/
def voteRank (v : BitVec 2) : Nat :=
  if v = votePoison then 3 else if v = voteDetected then 2 else if v = voteSuspect then 1 else 0

def voteMerge (a b : BitVec 2) : BitVec 2 := if voteRank a < voteRank b then b else a

/-- The VERDICT field of a cue: a merged vote without POISON, which counts as DETECTED (R59, R213). -/
def verdictOf (v : BitVec 2) : BitVec 2 := if v = votePoison then voteDetected else v

/-- A posted command has completed with another status than OK (R54): POSTERR; a frozen stirrup takes nothing (R65). It is seen from
the coming TCLK, so that a read in this one neither returns nor clears it (R17). -/
def postErr (x : Stirrup) : Stirrup := if x.frozen then x else { x with postNew := true }

/-- POSTERR as the coming TCLK shows it. -/
def postSeen (x : Stirrup) : Stirrup := if x.postNew then { x with posterr := true, postNew := false } else x

/-- The stirrup's STIR_STAT word (Table STR-4). -/
def statWord (x : Stirrup) : W32 :=
  let homeout := x.homeQ.length + x.homeFly.length
  BitVec.ofNat 32 (homeout % 256 * 2 ^ 16 + x.posterr.toNat * 2 ^ 13 + x.overflow.toNat * 2 ^ 12 + x.inexact.toNat * 2 ^ 11
    + x.frozen.toNat * 2 ^ 9 + x.call.isSome.toNat * 2 ^ 8 + x.verdict.toNat * 2 ^ 5 + x.status.toNat)

/-- HOMEOUT: home operations queued or in flight (Table STR-4, R51). -/
def homeout (x : Stirrup) : Nat := x.homeQ.length + x.homeFly.length

/-- The stirrup's STIR_OUT word (Table STR-6). -/
def outWord (x : Stirrup) : W32 :=
  BitVec.ofNat 32 (x.outFab.toNat * 2 ^ 20 + x.outPkg.toNat * 2 ^ 10 + x.outDie.toNat)

end Sys2Proof.Machine
end

