-- ==== Sys2Proof/Machine/Arith.lean ====
section
/-! DEFINITION. The arithmetic of the combining tree (04_combining.md): formats, widening at the stall, combining, and the
single rounding or clamping at the root. -/

namespace Sys2Proof.Machine

/-! ## Lanes -/

/-- Lane `i` of width `w`. -/
def lane (w : Nat) (x : Nat) (i : Nat) : Nat := (x >>> (w * i)) % 2 ^ w

/-- Packs lanes of width `w` from bit 0 upward (R97, R108). -/
def packLanes (w : Nat) : List Nat → Nat
  | [] => 0
  | a :: t => a % 2 ^ w + (packLanes w t) * 2 ^ w

def lanesOf (w n x : Nat) : List Nat := (List.range n).map (lane w x)

/-- Two's complement value of a lane. -/
def sval (w x : Nat) : Int := if x < 2 ^ (w - 1) then (x : Int) else (x : Int) - (2 ^ w : Nat)

/-- Two's complement lane of a value. -/
def slane (w : Nat) (v : Int) : Nat := (v % ((2 ^ w : Nat) : Int)).toNat

/-! ## Formats (Table CMB-1) -/

def fmtNONE : BitVec 4 := 0#4
def fmtINT16 : BitVec 4 := 2#4
def fmtINT32 : BitVec 4 := 3#4
def fmtINT64 : BitVec 4 := 4#4
def fmtUINT32 : BitVec 4 := 5#4
def fmtUINT64 : BitVec 4 := 6#4
def fmtE4M3 : BitVec 4 := 7#4
def fmtE5M2 : BitVec 4 := 8#4
def fmtFP16 : BitVec 4 := 9#4
def fmtBF16 : BitVec 4 := 10#4
def fmtFP32 : BitVec 4 := 11#4
def fmtFP64 : BitVec 4 := 12#4

/-- Lane width of a format; 0 for NONE and the reserved codes. -/
def laneW (f : BitVec 4) : Nat :=
  match f.toNat with
  | 1 => 64 | 2 => 16 | 3 => 32 | 4 => 64 | 5 => 32 | 6 => 64 | 7 => 8 | 8 => 8 | 9 => 16 | 10 => 16 | 11 => 32 | 12 => 64
  | _ => 0

def isFloat (f : BitVec 4) : Bool := 7 ≤ f.toNat && f.toNat ≤ 12
def isSigned (f : BitVec 4) : Bool := f == fmtINT16 || f == fmtINT32 || f == fmtINT64
def isInt (f : BitVec 4) : Bool := 2 ≤ f.toNat && f.toNat ≤ 6

/-- Significand bits below the leading one, and bias, of a floating-point format. -/
def manW (f : BitVec 4) : Nat :=
  match f.toNat with | 7 => 3 | 8 => 2 | 9 => 10 | 10 => 7 | 11 => 23 | _ => 52
def biasOf (f : BitVec 4) : Nat :=
  match f.toNat with | 7 => 7 | 8 => 15 | 9 => 15 | 10 => 127 | 11 => 127 | _ => 1023

def canonNaN (f : BitVec 4) : Nat :=
  match f.toNat with
  | 7 => 0x7F | 8 => 0x7E | 9 => 0x7E00 | 10 => 0x7FC0 | 11 => 0x7FC0_0000 | _ => 0x7FF8_0000_0000_0000

/-- Magnitude bits (all but the sign) of a lane. -/
def magBits (f : BitVec 4) (x : Nat) : Nat := x % 2 ^ (laneW f - 1)
def isNeg (f : BitVec 4) (x : Nat) : Bool := 2 ^ (laneW f - 1) ≤ x

/-- Bits of +infinity; E4M3 has none (Table CMB-1). -/
def infBits (f : BitVec 4) : Nat := 2 ^ (laneW f - 1) - 2 ^ manW f

def isNaN (f : BitVec 4) (x : Nat) : Bool :=
  if f = fmtE4M3 then magBits f x = 0x7F else infBits f < magBits f x
def isInf (f : BitVec 4) (x : Nat) : Bool := f != fmtE4M3 && magBits f x == infBits f

/-- Encoding of the largest finite magnitude. -/
def maxFinite (f : BitVec 4) : Nat := if f = fmtE4M3 then 0x7E else infBits f - 1

/-- Total order of the non-NaN values of a lane: -0 ranks below +0 (R104). -/
def floatKey (f : BitVec 4) (x : Nat) : Int :=
  if isNeg f x then -(magBits f x : Int) - 1 else (magBits f x : Int)

/-- Order of a lane's value as its format defines it. -/
def valueKey (f : BitVec 4) (x : Nat) : Int :=
  if isFloat f then floatKey f x else if isSigned f then sval (laneW f) x else (x : Int)

/-! ## Operations (Table CMB-2) -/

def opNONE : BitVec 5 := 0x00#5
def opSUMWRAP : BitVec 5 := 0x01#5
def opSUMSAT : BitVec 5 := 0x02#5
def opXSUM : BitVec 5 := 0x03#5
def opXSUMW : BitVec 5 := 0x04#5
def opMIN : BitVec 5 := 0x05#5
def opMAX : BitVec 5 := 0x06#5
def opAND : BitVec 5 := 0x07#5
def opOR : BitVec 5 := 0x08#5
def opXOR : BitVec 5 := 0x09#5
def opMINLOC : BitVec 5 := 0x0A#5
def opMAXLOC : BitVec 5 := 0x0B#5
def opCOUNT : BitVec 5 := 0x0C#5
def opNANCOUNT : BitVec 5 := 0x0D#5

/-- The permitted pairs (R99). -/
def permitted (op : BitVec 5) (f : BitVec 4) : Bool :=
  let n := f.toNat
  match op.toNat with
  | 0 => n == 0
  | 1 | 2 => isInt f
  | 3 | 4 => 7 ≤ n && n ≤ 11
  | 5 | 6 => 2 ≤ n && n ≤ 12
  | 7 | 8 | 9 => 1 ≤ n && n ≤ 6
  | 10 | 11 => n == 3 || n == 11
  | 12 => n == 5
  | 13 => 7 ≤ n && n ≤ 12
  | _ => false

def isX (op : BitVec 5) : Bool := op == opXSUM || op == opXSUMW

/-- Width of an XA lane (Table CMB-3). -/
def xaW (f : BitVec 4) : Nat := if f = fmtFP32 ∨ f = fmtBF16 then 320 else if f = fmtFP16 then 96 else 64

/-- Number of XA lanes read (Table CMB-2). -/
def xaLanes (op : BitVec 5) (f : BitVec 4) : Nat :=
  if op = opXSUMW then 2 else if f = fmtE4M3 ∨ f = fmtE5M2 then 8 else if f = fmtFP16 then 4 else 2

/-- Beats of a partial above the stirrup (Table CMB-2). -/
def beatsOf (op : BitVec 5) (f : BitVec 4) : Nat :=
  if op = opSUMSAT then (if f = fmtINT16 then 3 else 2)
  else if isX op then (xaW f * xaLanes op f + 127) / 128
  else 1

/-- Extra cycles of each combine (the c of R116) and of the root's rounding stage (the f of R116). -/
def combineExtra (op : BitVec 5) : Nat := if isX op then 2 else 0
def roundStage (op : BitVec 5) : Nat := if isX op then 6 else 0

/-! ## Exact accumulators (R108, R109, R110) -/

/-- The weight of sum bit 0 is 2^(-L). -/
def xaL (f : BitVec 4) : Nat :=
  match f.toNat with | 7 => 9 | 8 => 16 | 9 => 24 | _ => 149

/-- Magnitude of a finite value in units of sum bit 0. -/
def xaMag (f : BitVec 4) (x : Nat) : Nat :=
  let e := magBits f x / 2 ^ manW f
  let m := magBits f x % 2 ^ manW f
  let sig := if e = 0 then m else 2 ^ manW f + m
  sig <<< ((max e 1 - 1) + (if f = fmtBF16 then 16 else 0))

/-- Conversion of one input lane to an XA lane (R109). -/
def toXa (f : BitVec 4) (x : Nat) : Nat :=
  let w := xaW f
  if isNaN f x then 2 ^ (w - 1)
  else if isInf f x then (if isNeg f x then 2 ^ (w - 2) else 2 ^ (w - 3))
  else
    let m : Int := xaMag f x
    let nmz := if isNeg f x ∧ magBits f x = 0 then 0 else 2 ^ (w - 4)
    slane (w - 4) (if isNeg f x then -m else m) + nmz

/-- Two XA lanes: sums added exactly, flags ORed (R110). -/
def addXa (w a b : Nat) : Nat :=
  let s := (a % 2 ^ (w - 4) + b % 2 ^ (w - 4)) % 2 ^ (w - 4)
  let fl := (a / 2 ^ (w - 4)) ||| (b / 2 ^ (w - 4))
  s + fl * 2 ^ (w - 4)

/-- The target format of the rounding (R111). -/
def roundTarget (op : BitVec 5) (f : BitVec 4) : BitVec 4 := if op = opXSUMW then fmtFP64 else f

/-- Rounds m x 2^(-L) to nearest even in format `t` (R111): the magnitude's encoding, and whether it was inexact.
Where the text's d is negative, which XSUM_WIDE meets, the value is exact (log 26). -/
def roundMag (t : BitVec 4) (l m : Nat) : Nat × Bool :=
  let p : Int := manW t + 1
  let emin : Int := 1 - (biasOf t : Int)
  let e : Int := (Nat.log2 m : Int) - l
  let qe : Int := max (e - p + 1) (emin - p + 1)
  let d : Int := qe + l
  let k := if 0 ≤ d then m >>> d.toNat else m <<< (-d).toNat
  let rem := if 0 ≤ d then m % 2 ^ d.toNat else 0
  let half := if 1 ≤ d then 2 ^ (d.toNat - 1) else 0
  let up := 1 ≤ d ∧ (half < rem ∨ (rem = half ∧ k % 2 = 1))
  let k1 := if up then k + 1 else k
  -- the encoding is additive in k: a carry out of the significand raises the exponent field
  let expo := (qe - (emin - p + 1)).toNat
  ((if k1 < 2 ^ manW t then k1 else expo * 2 ^ manW t + k1), rem != 0)

/-- Rounds one XA lane: the lane delivered, INEXACT, OVERFLOW (R111, R112). -/
def roundXa (op : BitVec 5) (f : BitVec 4) (sat : Bool) (x : Nat) : Nat × Bool × Bool :=
  let w := xaW f
  let t := roundTarget op f
  let sign := 2 ^ (laneW t - 1)
  let nan := x.testBit (w - 1)
  let ninf := x.testBit (w - 2)
  let pinf := x.testBit (w - 3)
  let nmz := x.testBit (w - 4)
  let v := sval (w - 4) (x % 2 ^ (w - 4))
  if nan ∨ (pinf ∧ ninf) then (canonNaN t, false, false)
  else if pinf then (infBits t, false, false)
  else if ninf then (sign + infBits t, false, false)
  else if v = 0 then ((if nmz then 0 else sign), false, false)
  else
    let neg : Nat := if v < 0 then sign else 0
    let (mag, inexact) := roundMag t (xaL f) v.natAbs
    if maxFinite t < mag then
      if t = fmtE4M3 then (if sat then (neg + 0x7E, true, true) else (canonNaN t, true, true))
      else (neg + infBits t, true, true)
    else (neg + mag, inexact, false)

/-! ## Widening, combining, finishing -/

/-- SUM_SAT lanes: width, number, widened width (R103). -/
def satLanes (f : BitVec 4) : Nat := 128 / laneW f
def satW (f : BitVec 4) : Nat := laneW f + 32

def mapRange (n : Nat) (g : Nat → Nat) : List Nat := (List.range n).map g

/-- The partial form of one member's payload (R103, R107, R109; Table CMB-2). `q` marks a quiescence slot (R91). -/
def widen (op : BitVec 5) (f : BitVec 4) (q : Bool) (pay : W128) : Wide :=
  let x := pay.toNat
  BitVec.ofNat 640 <|
    if q then lane 64 x 0 + (lane 64 x 1 % 2) * 2 ^ 64
    else if op = opNONE then 0
    else if op = opSUMSAT then
      packLanes (satW f) (mapRange (satLanes f) fun i =>
        let a := lane (laneW f) x i
        if isSigned f then slane (satW f) (sval (laneW f) a) else a)
    else if isX op then packLanes (xaW f) (mapRange (xaLanes op f) fun i => toXa f (lane (laneW f) x i))
    else if op = opCOUNT then x % 2
    else if op = opNANCOUNT then
      packLanes 32 (mapRange (if f = fmtFP64 then 2 else 4) fun i =>
        let a := lane (laneW f) x i
        if isNaN f a || isInf f a then 1 else 0)
    else x

/-- The better of two lanes of MIN (`lo`) or MAX; a NaN in either gives the canonical NaN (R104). -/
def pickLane (f : BitVec 4) (lo : Bool) (a b : Nat) : Nat :=
  if isFloat f && (isNaN f a || isNaN f b) then canonNaN f
  else if (valueKey f a ≤ valueKey f b) == lo then a else b

/-- Rank of a MINLOC or MAXLOC value: a NaN lies beyond every other value on the winning side (R106). -/
def locKey (f : BitVec 4) (lo : Bool) (v : Nat) : Int :=
  if isFloat f && isNaN f v then (if lo then -(2 ^ 40 : Nat) else (2 ^ 40 : Nat)) else valueKey f v

/-- The winner of two pairs: by rank, then by the lower index (R106). -/
def pickPair (f : BitVec 4) (lo : Bool) (a b : Nat) : Nat :=
  let ka := locKey f lo (a / 2 ^ 32)
  let kb := locKey f lo (b / 2 ^ 32)
  if ka = kb then (if a % 2 ^ 32 ≤ b % 2 ^ 32 then a else b)
  else if (ka < kb) == lo then a else b

def zipLanes (w n : Nat) (g : Nat → Nat → Nat) (a b : Nat) : Nat :=
  packLanes w (mapRange n fun i => g (lane w a i) (lane w b i))

/-- Combines two non-empty partials (R91, R102 to R107, R110). -/
def combine (op : BitVec 5) (f : BitVec 4) (q : Bool) (a b : Wide) : Wide :=
  let x := a.toNat
  let y := b.toNat
  BitVec.ofNat 640 <|
    if q then (lane 64 x 0 + lane 64 y 0) % 2 ^ 64 + (lane 64 x 1 % 2) * (lane 64 y 1 % 2) * 2 ^ 64
    else if op = opSUMWRAP then zipLanes (laneW f) (128 / laneW f) (fun u v => (u + v) % 2 ^ laneW f) x y
    else if op = opSUMSAT then zipLanes (satW f) (satLanes f) (fun u v => (u + v) % 2 ^ satW f) x y
    else if isX op then zipLanes (xaW f) (xaLanes op f) (addXa (xaW f)) x y
    else if op = opMIN then zipLanes (laneW f) (128 / laneW f) (pickLane f true) x y
    else if op = opMAX then zipLanes (laneW f) (128 / laneW f) (pickLane f false) x y
    else if op = opAND then x &&& y
    else if op = opOR then x ||| y
    else if op = opXOR then x ^^^ y
    else if op = opMINLOC then zipLanes 64 2 (pickPair f true) x y
    else if op = opMAXLOC then zipLanes 64 2 (pickPair f false) x y
    else if op = opCOUNT ∨ op = opNANCOUNT then zipLanes 32 4 (fun u v => (u + v) % 2 ^ 32) x y
    else 0

/-- Clamps a widened lane to its format (R103): the lane and whether it was clamped. -/
def clampLane (f : BitVec 4) (x : Nat) : Nat × Bool :=
  let w := laneW f
  if isSigned f then
    let v := sval (satW f) x
    let top : Int := (2 ^ (w - 1) : Nat)
    if top ≤ v then (2 ^ (w - 1) - 1, true)
    else if v < -top then (2 ^ (w - 1), true)
    else (slane w v, false)
  else if 2 ^ w ≤ x then (2 ^ w - 1, true) else (x, false)

/-- A delivered float lane with its NaN canonical (R98). -/
def canon (f : BitVec 4) (x : Nat) : Nat := if isFloat f && isNaN f x then canonNaN f else x

/-- The result a root forms from the total: result, INEXACT, OVERFLOW (R99, R103, R106, R111, R113). -/
def finish (op : BitVec 5) (f : BitVec 4) (sat : Bool) (x : Wide) : W128 × Bool × Bool :=
  let n := x.toNat
  if op = opSUMSAT then
    let l := (lanesOf (satW f) (satLanes f) n).map (clampLane f)
    (BitVec.ofNat 128 (packLanes (laneW f) (l.map (·.1))), false, l.any (·.2))
  else if isX op then
    let l := (lanesOf (xaW f) (xaLanes op f) n).map (roundXa op f (sat && op == opXSUM))
    (BitVec.ofNat 128 (packLanes (laneW (roundTarget op f)) (l.map (·.1))), l.any (·.2.1), l.any (·.2.2))
  else if (op = opMIN ∨ op = opMAX) then
    (BitVec.ofNat 128 (packLanes (laneW f) ((lanesOf (laneW f) (128 / laneW f) n).map (canon f))), false, false)
  else if op = opMINLOC ∨ op = opMAXLOC then
    (BitVec.ofNat 128 (packLanes 64 ((lanesOf 64 2 n).map fun p => canon f (p / 2 ^ 32) * 2 ^ 32 + p % 2 ^ 32)), false, false)
  else if op = opNONE then (0, false, false)
  else (BitVec.ofNat 128 n, false, false)

end Sys2Proof.Machine
end

