-- ==== Sys2Proof/Machine/Notify.lean ====
section
/-! DEFINITION. What the engine tells the outside: host memory writes with their dirty-page log (R249), events and
completions (R257, R264), interrupts (R267), index write-backs (R254), and trace records (R276 to R283). -/

namespace Sys2Proof.Machine

/-! ## Host memory writes -/

/-- Whether host DMA for `p` is allowed (Table PAR-1, PASIDV). -/
def dmaAllowed (s : State) (p : Nat) : Bool := bitB (reg s (partKey p 4)) 31

def queueDma (l : List DmaItem) (s : State) : State := { s with hq := { s.hq with dmaQ := s.hq.dmaQ ++ l } }

/-- A write in requests of at most 64 bytes: every target starts a 64-byte block or lies within one (R323, Table INT-4). -/
def blocksOf (w : DmaWrite) : List DmaItem :=
  (List.range ((w.data.length + 7) / 8)).map fun i =>
    .write { w with addr := w.addr + BitVec.ofNat 64 (64 * i), data := (w.data.drop (8 * i)).take 8 }

def pushDma (w : DmaWrite) (s : State) : State := queueDma (blocksOf w) s

/-- The log entry of a page before the engine writes to it (R249). -/
def dirtyLog (p kind : Nat) (addr : W64) (s : State) : State :=
  let d := (part s p).dirty
  let page := addr >>> 12
  if !d.en || d.ovf || d.cache.contains page then s
  else if d.full || decide (2 ^ d.log2 ≤ (d.prod - d.cons).toNat) then
    updPart p (fun x => { x with dirty := { d with ovf := true } }) s
  else
    let base := d.baseHi ++ d.baseLo
    let slot : W64 := BitVec.ofNat 64 (8 * (d.prod.toNat % 2 ^ d.log2))
    let ent : W64 := (page <<< 12) ||| BitVec.ofNat 64 kind
    let s1 := pushDma { part := 0, kind := 5, addr := (base &&& ~~~ 0xFFF#64) + slot, data := [ent] } s
    updPart p (fun x => { x with dirty := { d with prod := d.prod + 1, full := d.prod + 1 == d.cons,
                                                   cache := (page :: d.cache).take 16 } }) s1

/-- A write is issued, its page logged before it (R249). -/
def issueWrite (w : DmaWrite) (s : State) : State := pushDma w (dirtyLog w.part w.kind w.addr s)

/-- A DMA write under `p`'s PASID: logged, then issued (R249, R323). While `p` is QUIESCED none follows: it is kept (log 39). -/
def hostWrite (p kind : Nat) (addr : W64) (data : List W64) (s : State) : State :=
  let w : DmaWrite := { part := p, kind := kind, addr := addr, data := data }
  if !dmaAllowed s p then s
  else if (part s p).state = .quiesced && !s.hq.off then { s with hq := { s.hq with kept := s.hq.kept ++ [w] } }
  else issueWrite w s

/-- An interrupt request follows the writes it announces (R267): while writes of `p` are kept it waits behind them, and otherwise behind
the requests that have not left. -/
def raiseIrq (p vec : Nat) (s : State) : State :=
  if s.hq.kept.any fun w => w.part == p then { s with hq := { s.hq with keptIrqs := s.hq.keptIrqs ++ [(p, vec)] } }
  else if s.hq.dmaQ.isEmpty then { s with hq := { s.hq with irqs := s.hq.irqs ++ [(p, vec)] } }
  else queueDma [.irq p vec] s

/-- The writes kept for `p` are issued, in their order, and the interrupts that announce them follow (R249, R267). -/
def issueKept (p : Nat) (s : State) : State :=
  let mine := s.hq.kept.filter fun w => w.part == p
  let irqs := s.hq.keptIrqs.filter fun i => i.1 == p
  irqs.foldl (fun a i => raiseIrq i.1 i.2 a) (mine.foldl (fun a w => if dmaAllowed a p then issueWrite w a else a)
    { s with hq := { s.hq with kept := s.hq.kept.filter (fun w => w.part != p), keptIrqs := s.hq.keptIrqs.filter fun i => i.1 != p } })

def isIrq : DmaItem → Bool
  | .irq _ _ => true
  | _ => false

def irqOf : DmaItem → Option (Nat × Nat)
  | .irq p v => some (p, v)
  | _ => none

/-- The DMA port in an ECLK: at most one request, granted in it (R323; log 135); interrupts whose writes have left are raised. -/
def dmaTurn (s : State) : State :=
  let rest := s.hq.dmaQ.dropWhile isIrq
  { s with hq := { s.hq with irqs := s.hq.irqs ++ (s.hq.dmaQ.takeWhile isIrq).filterMap irqOf, dma := rest.head?, dmaQ := rest.drop 1 } }

/-- Asks for an index write-back: within 1 us of a change, at most once a us (R254). -/
def wantWriteback (p : Nat) (s : State) : State :=
  if bitB (pageReg s p 0xC0) 0 && !s.hq.wbDue.contains p then
    let last := Tbl.get 0 s.hq.wbAt p
    let due := max (houseNow s).toNat (if last = 0 then 0 else last + usTicks)
    schedule .house due (.indexWriteback p) { s with hq := { s.hq with wbDue := s.hq.wbDue ++ [p] } }
  else s

def ringSize (w : W32) : Nat := 2 ^ bitsN w 4 0

/-- PHASE of entry `i` (R257). -/
def phaseOf (i : W32) (log2 : Nat) : Nat := 1 - (i.toNat >>> log2) % 2

/-- The base of a ring from its two words. -/
def ringBase (lo hi : W32) : W64 := hi ++ (lo &&& 0xFFFF_F000#32)

/-- Writes one 32-byte entry: bytes 8 to 31 first, then bytes 0 to 7 (R257). -/
def writeEntry (p kind : Nat) (base : W64) (i : W32) (log2 : Nat) (w0 w1 w2 w3 : W64) (s : State) : State :=
  let a := base + BitVec.ofNat 64 (32 * (i.toNat % 2 ^ log2))
  hostWrite p kind a [w0 ||| BitVec.ofNat 64 (phaseOf i log2)] (hostWrite p kind (a + 8) [w1, w2, w3] s)

/-- A notice in `p`'s event ring (R264, Table HST-7); counted in LOST when the ring is full, stopped or disabled. -/
def event (p type : Nat) (d0 : W32) (d1 : W128) (s : State) : State :=
  let ctl := pageReg s p 0xA8
  let prod := pageReg s p 0xAC
  let cons := pageReg s p 0xB0
  if !bitB ctl 31 || bitB ctl 30 || !dmaAllowed s p || decide (ringSize ctl ≤ (prod - cons).toNat) then
    setPage p 0xB4 (pageReg s p 0xB4 + 1) (rcBefore (0x100000 + p) (pageReg s p 0xB4) s)
  else
    let h := houseNow s
    let w0 : W64 := d0 ++ BitVec.ofNat 32 (type * 256)
    let s1 := writeEntry p 2 (ringBase (pageReg s p 0xA0) (pageReg s p 0xA4)) prod (bitsN ctl 4 0) w0
      h (d1.setWidth 64) ((d1 >>> 64).setWidth 64) s
    let s2 := wantWriteback p (setPage p 0xAC (prod + 1) s1)
    if bitB ctl 26 then raiseIrq p (bitsN ctl 28 27) s2 else s2

/-! ## Completions -/

def descWord (x : Desc) (i : Nat) : W64 := x.d.getD i 0
def descBits (x : Desc) (i hi lo : Nat) : Nat := bitsN (descWord x i) hi lo
def descOp (x : Desc) : Nat := descBits x 0 7 0

def sameDesc (x y : Desc) : Bool := x.part == y.part && x.ring == y.ring && x.idx == y.idx

/-- What a completion carries besides its descriptor. -/
structure Done where
  status   : BitVec 5
  verdict  : BitVec 2
  inexact  : Bool
  overflow : Bool
  aux      : W32
  result   : W128

def Done.plain (st : BitVec 5) : Done :=
  { status := st, verdict := 0, inexact := false, overflow := false, aux := 0, result := 0 }

/-- Whether the completion ring's interrupt is to be raised (R267): IRQ_EN, and THRESH completions, TIMER, or one with IRQ 1. -/
def irqDue (s : State) (p : Nat) : Bool :=
  let ctl := pageReg s p 0x88
  let n := Tbl.get 0 s.hq.cqSince p
  bitB ctl 26 && n != 0 && (s.hq.cqWant.getLsbD p || decide (bitsN ctl 23 16 ≤ n)
    || (bitsN ctl 15 8 != 0 && decide (Tbl.get 0 s.hq.cqFirst p + bitsN ctl 15 8 * usTicks ≤ (houseNow s).toNat)))

/-- The interrupt of the completions written so far; the next ones count anew. -/
def signal_ (p : Nat) (s : State) : State :=
  raiseIrq p (bitsN (pageReg s p 0x88) 28 27)
    (unschedule (fun e => e == .irqTimer p)
      { s with hq := { s.hq with cqSince := Tbl.set 0 p 0 s.hq.cqSince, cqFirst := Tbl.set 0 p 0 s.hq.cqFirst,
                                 cqWant := s.hq.cqWant &&& ~~~ (1#64 <<< p) } })

def irqCheck (p : Nat) (s : State) : State := if irqDue s p then signal_ p s else s

/-- TIMER of the first completion not yet signalled. -/
def irqArm (p : Nat) (s : State) : State :=
  let t := bitsN (pageReg s p 0x88) 15 8
  let s1 := unschedule (fun e => e == .irqTimer p) s
  if Tbl.get 0 s.hq.cqSince p = 0 ∨ t = 0 then s1
  else schedule .house (Tbl.get 0 s.hq.cqFirst p + t * usTicks) (.irqTimer p) s1

/-- A completion has been written (R267). -/
def moderate (p : Nat) (irq : Bool) (s : State) : State :=
  let n := Tbl.get 0 s.hq.cqSince p
  let s1 := { s with hq := { s.hq with cqSince := Tbl.set 0 p (n + 1) s.hq.cqSince,
                                       cqFirst := if n = 0 then Tbl.set 0 p (houseNow s).toNat s.hq.cqFirst else s.hq.cqFirst,
                                       cqWant := if irq then s.hq.cqWant ||| (1#64 <<< p) else s.hq.cqWant } }
  irqCheck p (if n = 0 then irqArm p s1 else s1)

/-- Completes a fetched descriptor (R264, Table HST-5). A QUIET one that completes OK writes nothing; a stopped or
disabled completion ring loses the completion (R263). `force` writes it whatever QUIET says (R268). -/
def complete (x : Desc) (r : Done) (force : Bool) (s : State) : State :=
  let s1 := { s with hq := { s.hq with descs := s.hq.descs.filter fun d => !sameDesc d.x x } }
  let p := x.part
  let ctl := pageReg s p 0x88
  let quiet := bitB (descWord x 0) 8 && r.status == stOk && !force
  if quiet || !bitB ctl 31 || bitB ctl 30 then s1
  else
    let prod := pageReg s p 0x8C
    let utag : W32 := ((descWord x 0) >>> 32).setWidth 32
    let lo : W32 := BitVec.ofNat 32 (descOp x * 2 ^ 24 + x.ring * 2 ^ 18 + r.overflow.toNat * 2 ^ 16
      + r.inexact.toNat * 2 ^ 15 + r.verdict.toNat * 2 ^ 13 + r.status.toNat * 2 ^ 8)
    let s2 := writeEntry p 1 (ringBase (pageReg s p 0x80) (pageReg s p 0x84)) prod (bitsN ctl 4 0)
      (utag ++ lo) (r.aux ++ x.idx) (r.result.setWidth 64) ((r.result >>> 64).setWidth 64) s1
    moderate p (bitB (descWord x 0) 9) (wantWriteback p (setPage p 0x8C (prod + 1) s2))

/-! ## Trace -/

def traceMode (s : State) : Nat := if s.boot.reduced then 0 else fld s 0x5000 31 30

/-- A record of Table OBS-4: TYPE, PART and the fields below bit 117. -/
def traceWord (type p low : Nat) : W128 := BitVec.ofNat 128 (type * 2 ^ 124 + p * 2 ^ 118 + low % 2 ^ 118)

/-- TIME: house time bits [41:2] (R279). -/
def traceTime (h : W64) : Nat := h.toNat / 4 % 2 ^ 40 * 2 ^ 22

def sat (w n : Nat) : Nat := min n (2 ^ w - 1)

/-- Queues a LOSS record for `p` (R282, R283); none in mode OFF (Table OBS-3). -/
def lossRecord (p : Nat) (s : State) : State :=
  let n := Tbl.get 0 s.obs.lostRun p
  if n = 0 then s
  else
    let r := traceWord 7 p (sat 32 n * 2 ^ 86 + Tbl.get 0 s.obs.lostAt p)
    { s with obs := { s.obs with
        spill := if traceMode s = 0 then s.obs.spill else s.obs.spill ++ [{ part := p, reserved := true, bits := r, bad := false }],
        lostRun := Tbl.set 0 p 0 s.obs.lostRun, lostAt := Tbl.set 0 p 0 s.obs.lostAt } }

def unreservedCount (s : State) : Nat := (s.obs.spill.filter fun r => !r.reserved).length

/-- The sum of TRACE_SHARE over the ACTIVE partitions (R282). -/
def shareSum (s : State) : Nat :=
  (List.range 64).foldl (fun a p => if (part s p).state = .active then a + (part s p).shareEff else a) 0

/-- Whether a record of `p` is over its share: occupancy 8,192 or more and the window's share entered (R282). -/
def overShare (s : State) (p : Nat) : Bool :=
  decide (8192 ≤ s.obs.spill.length) && decide (4096 * (part s p).shareEff / max 1 (shareSum s) ≤ Tbl.get 0 s.obs.entered p)

/-- A record not admitted (R282): counted, and remembered for the LOSS record. -/
def dropRecord (p : Nat) (s : State) : State :=
  let n := Tbl.get 0 s.obs.lostRun p
  let s1 := rcBefore 0x5008 s.obs.dropped (count p 11 1 s)
  { s1 with obs := { s1.obs with
      dropped := s1.obs.dropped + 1,
      lostRun := Tbl.set 0 p (n + 1) s1.obs.lostRun,
      lostAt := if n = 0 then Tbl.set 0 p (traceTime (houseNow s)) s1.obs.lostAt else s1.obs.lostAt,
      winDropped := if s1.obs.dropPhase || s1.obs.winDropped.contains p then s1.obs.winDropped else s1.obs.winDropped ++ [p] } }

/-- A record at the spill buffer: admitted, or dropped; one in a reserved entry is never dropped (R282, R283). -/
def traceAdmit (r : TraceRec) (s : State) : State :=
  if r.reserved then { s with obs := { s.obs with spill := s.obs.spill ++ [r] } }
  else if s.obs.dropPhase || decide (16256 ≤ unreservedCount s) || overShare s r.part then dropRecord r.part s
  else
    let s1 := { s with obs := { s.obs with
      spill := s.obs.spill ++ [r],
      entered := Tbl.set 0 r.part (Tbl.get 0 s.obs.entered r.part + 1) s.obs.entered } }
    if 16256 ≤ unreservedCount s1 then { s1 with obs := { s1.obs with dropPhase := true } } else s1

/-- A record formed in TCLK crosses into ECLK, in order (Table ARC-4). -/
def traceCross (r : TraceRec) (s : State) : State :=
  let (d, s1) := crossDue s .tclk .eclk 2 3
  let due := s1.obs.capture.foldl (fun a c => max a c.due) d
  { s1 with obs := { s1.obs with capture := s1.obs.capture ++ [{ due := due, item := r }] } }

/-- The records whose crossing ends with this ECLK edge. -/
def captureIn (s : State) : State :=
  (s.obs.capture.filter fun c => decide (c.due ≤ s.clk.eclk)).foldl (fun a c => traceAdmit c.item a)
    { s with obs := { s.obs with capture := s.obs.capture.filter fun c => !decide (c.due ≤ s.clk.eclk) } }

/-- Offers a record of partition `p`, formed in TCLK or, with `inEclk`, in ECLK; none without a TRACE_SHARE (R277). -/
def traceOffer (inEclk : Bool) (p : Nat) (bits : W128) (s : State) : State :=
  if (part s p).shareEff = 0 then s
  else if inEclk then traceAdmit { part := p, reserved := false, bits := bits, bad := false } s
  else traceCross { part := p, reserved := false, bits := bits, bad := false } s

/-- Queues a record in a reserved entry. -/
def traceReserved (bits : W128) (s : State) : State := traceCross { part := 0, reserved := true, bits := bits, bad := false } s

/-- MARK (Table OBS-4), emitted in SMALL mode. -/
def traceMarkRec (p who markid : Nat) (value : W32) (src : Nat) (s : State) : State :=
  if traceMode s = 2 then
    traceOffer (src == 1) p (traceWord 4 p (who % 2 ^ 11 * 2 ^ 107 + markid % 2 ^ 13 * 2 ^ 94 + value.toNat * 2 ^ 62
      + traceTime (houseNow s) + src * 2 ^ 20)) s
  else s

/-- WAIT_EDGE (Table OBS-4), for objects with TRACE 1, in SMALL mode. -/
def traceWaitEdge (p : Nat) (tok : Bool) (i waiter signaller waited n : Nat) (s : State) : State :=
  if traceMode s = 2 ∧ bitB (reg s (objCfgKey tok i)) 30 then
    traceOffer true p (traceWord 2 p (tok.toNat * 2 ^ 117 + i * 2 ^ 104 + waiter % 2 ^ 11 * 2 ^ 93 + signaller % 2 ^ 11 * 2 ^ 82
      + sat 20 waited * 2 ^ 62 + traceTime (houseNow s) + sat 22 n)) s
  else s

/-- REGION_SLEEP (5) or REGION_WAKE (6) (R281). -/
def traceRegion (type barn : Nat) (s : State) : State :=
  if traceMode s = 2 then traceReserved (traceWord type 0 (barn * 2 ^ 113 + traceTime (houseNow s))) s else s

/-- TIMEBASE (R276). -/
def traceTimebase (s : State) : State :=
  if traceMode s = 0 then s
  else traceReserved (traceWord 8 0 (fld s 0x6018 15 0 * 2 ^ 102 + (houseNow s).toNat)) s

/-- Whether a slot is traced (R277). -/
def traced (s : State) (slot : Nat) : Bool :=
  traceMode s != 0 && bitB (reg s (0x5040 + 4 * (slot / 32))) (slot % 32)
    && (match slotOwner s slot with | some p => (part s p).shareEff != 0 | none => false)

/-- How a waiter or member is named in trace: a tile by its VTILE, others by their code (R279). -/
def traceName (s : State) (src : Nat) : Nat := if src < nStirrup then wVtile (rosterWord s src) else src

end Sys2Proof.Machine
end

