-- ==== Sys2Proof/Machine/Operands.lean ====
section
/-! DEFINITION. The operand forms: the STIR_CMD word (Table STR-8, Table STR-9) and its checks (Table STR-14), the packets a
stirrup forms (Tables STR-12, HOM-2, MEM-3), and the relative ids of host descriptors (R240). -/

namespace Sys2Proof.Machine

/-! ## STIR_CMD (Table STR-8) -/

def cClass (w : W32) : Nat := bitsN w 31 28
def cOp (w : W32) : BitVec 5 := BitVec.ofNat 5 (bitsN w 27 23)
def cFmt (w : W32) : BitVec 4 := BitVec.ofNat 4 (bitsN w 22 19)
def cVote (w : W32) : BitVec 2 := BitVec.ofNat 2 (bitsN w 18 17)
def cNohold (w : W32) : Bool := bitB w 16
def cScope (w : W32) : Nat := bitsN w 15 13
def cId (w : W32) : Nat := bitsN w 12 0

/-- Whether OP is listed for the class (Table STR-9). -/
def opListed (cls : Nat) (op : BitVec 5) : Bool :=
  let n := op.toNat
  match cls with
  | 0 => n ≤ 0x0D
  | 1 => n ≤ 0x09 || (0x10 ≤ n && n ≤ 0x16)
  | 2 => 0x18 ≤ n && n ≤ 0x1A
  | 3 => n == 0
  | 4 => n ≤ 3
  | _ => false

/-- Commands that Table STR-10 does not allow to be posted. -/
def noPost (cls : Nat) (op : BitVec 5) : Bool :=
  let n := op.toNat
  (cls == 1 && (n == 1 || n == 2 || n == 3 || n == 4 || n == 0x11 || n == 0x12 || n == 0x13 || n == 0x15 || n == 0x16))
    || (cls == 2 && n == 0x1A)

/-- Bits that Table STR-9 requires to be zero in ID, and TOKEN 2047 in ACQUIRE_PRI. -/
def idBad (cls : Nat) (op : BitVec 5) (id : Nat) : Bool :=
  let n := op.toNat
  match cls with
  | 0 => 512 ≤ id
  | 1 => (0x10 ≤ n && 2048 ≤ id) || (n == 0x13 && id == 2047)
  | 2 => 1024 ≤ id
  | 3 => id != 0
  | 4 => (n ≤ 1 && 512 ≤ id) || (n == 2 && id != 0)
  | _ => false

def fieldBad (w : W32) : Bool :=
  let cls := cClass w
  (cls != 0 && (cFmt w != 0 || cVote w != 0)) || cVote w == 3
    || (cls != 3 && cScope w != 0) || (cls == 3 && 4 ≤ cScope w)
    || (cNohold w && noPost cls (cOp w)) || idBad cls (cOp w) (cId w)

/-- The lowest cause the stirrup detects in a command word (R63, Table STR-14); 0 for none. -/
def stirrupCause (assigned : Bool) (w : W32) : Nat :=
  if 5 ≤ cClass w then 1
  else if !opListed (cClass w) (cOp w) then 2
  else if fieldBad w then 3
  else if !assigned then 4
  else 0

/-- Whether the tile is held by the command (Table STR-10): CTRL is always posted, FENCE has its own rule. -/
def cHeld (w : W32) : Bool := !cNohold w && cClass w != 3 && cClass w != 4

/-- The words of one row: its class, and its OP where the row has one. -/
def wordIs (cls op : Nat) (w : W32) : Bool := cClass w == cls && (cOp w).toNat == op

/-! ## Packets of a stirrup -/

/-- WAIT_TO's payload with the absolute deadline in bits [127:64] (R145, R151). -/
def withDeadline (house : W64) (pay : W128) : W128 :=
  let pay1 : Nat := bitsN pay 63 32
  (house + BitVec.ofNat 64 (256 * pay1)) ++ (pay.setWidth 64)

def callPacket (st : Nat) (c : StirCmd) (pay : W128) (now : Nat) : Partial :=
  { slot := cId c.word, gen := 0, op := cOp c.word, fmt := cFmt c.word, vote := cVote c.word, count := 1, tag := c.tag,
    data := pay.setWidth 640, child := st, seq := 0, leftT := now, firstAt := c.at_, lastAt := c.at_, lastVt := 0,
    word := c.word }

def homePacket (st rid : Nat) (c : StirCmd) (now : Nat) : HomeReq :=
  let op := cOp c.word
  { tok := decide (0x10 ≤ op.toNat), obj := cId c.word, op := op, nohold := cNohold c.word, rid := rid, src := st,
    merged := false, mlevel := false, mrec := 0, poll := false, part := 0, pay := c.pay, leftT := now, ring := 0, didx := 0,
    sub := 0, word := c.word }

def tallyPacket (st : Nat) (c : StirCmd) (now : Nat) : TallyReq :=
  { tally := cId c.word, op := cOp c.word, nohold := cNohold c.word, src := st, part := 0, pay := c.pay, leftT := now,
    ring := 0, didx := 0, word := c.word }

def ctrlPacket (st : Nat) (c : StirCmd) (now : Nat) : CtrlPkt :=
  { word := c.word, pay0 := c.pay.setWidth 32, src := st, leftT := now }

def pay0 (p : W128) : W32 := p.setWidth 32
def pay1 (p : W128) : W32 := (p >>> 32).setWidth 32

/-- A 128-bit result from its words. -/
def resWords (r0 r1 r2 : W32) : W128 := (0#32) ++ (r2 ++ (r1 ++ r0))

/-! ## Relative ids of the host path (R240) -/

def relSlot (s : State) (p j : Nat) : Option Nat := physical s p 0x18 8 512 j
def relSem (s : State) (p j : Nat) : Option Nat := physical s p 0x20 64 8192 j
def relTok (s : State) (p j : Nat) : Option Nat := physical s p 0x30 32 2048 j
def relTally (s : State) (p j : Nat) : Option Nat := physical s p 0x38 16 1024 j

/-- The position of a physical slot among the owner's (Table HST-7). -/
def slotRel (s : State) (p slot : Nat) : Nat := ((owned s p 0x18 8 512).filter (· < slot)).length

/-- The pool number in a result: relative for the host (R240), physical for a tile. -/
def poolName (s : State) (r : HomeReq) (i : Nat) : Nat :=
  if r.src = 0x7FF then ((owned s r.part 0x30 32 2048).filter (· < i)).length else i

end Sys2Proof.Machine
end

