-- ==== Sys2Proof/Machine/Links.lean ====
section
/-! DEFINITION. Tree links: what may leave, in the order of R25, and when it arrives (R23, R24, R25). -/

namespace Sys2Proof.Machine

/-! ## The order of R25: a lower key leaves first -/

/-- Packets that name a slot, in ascending slot; `k` orders packets of one slot. -/
def prioSlot (slot k : Nat) : Nat := slot * 8 + k
def prioFreeze (st : Nat) : Nat := 2 ^ 30 + st
def prioTally (t st : Nat) : Nat := 2 ^ 31 + t * 2048 + st
def prioCtrl (st : Nat) : Nat := 2 ^ 33 + st
/-- Exact-class packets of one stirrup keep the order in which they were offered (R55). -/
def prioIssue : Nat := 0
/-- Home-class packets use only cycles that no exact-class packet needs (R24); among themselves by the TCLK from which they may
leave, then by source (log 23), so that a merged SIGNAL never overtakes an earlier request of one of its stirrups (R55) and
leaves before the request that closed its window (R158). -/
def prioHome (ready src : Nat) : Nat := 2 ^ 40 + ready * 2048 + src

/-- Offers a packet to a link from TCLK `ready` on. -/
def offer (link prio ready beats hop : Nat) (ev : Instr) (s : State) : State :=
  { s with tree := { s.tree with links := s.tree.links ++
      [{ link := link, prio := prio, ready := ready, beats := beats, hop := scaled s hop, ev := ev }] } }

/-- Offers a packet upwards from a place to its parent. -/
def offerUp (from_ : Place) (prio ready beats : Nat) (ev : Instr) (s : State) : State :=
  offer from_.linkUp prio ready beats from_.hopUp ev s

/-- Offers a packet downwards from a parent to its child `to_`. -/
def offerDown (to_ : Place) (prio ready : Nat) (ev : Instr) (s : State) : State :=
  offer to_.linkDown prio ready 1 to_.hopUp ev s

/-- Whether a packet is of the home class (R24). -/
def homeClass (it : LinkItem) : Bool := decide (2 ^ 40 ≤ it.prio)

/-- The item that may leave a link now: the least key among those ready, the earlier offered on a tie. -/
def bestItem (now link : Nat) : List LinkItem → Option LinkItem
  | [] => none
  | a :: t =>
    match bestItem now link t with
    | none => if a.link = link ∧ a.ready ≤ now then some a else none
    | some b => if a.link = link ∧ a.ready ≤ now ∧ a.prio ≤ b.prio then some a else some b

/-- A node out of service: a stall whose understudy does not stand in for it, or a barn (R229). -/
def outOfService (s : State) (at_ : Place) : Bool :=
  match at_ with
  | .stall k => isolated s 0 k && !understudyOf s k
  | .barn b => isolated s 2 b
  | _ => false

/-- Whether a stirrup lies beneath a place. -/
def beneath (at_ : Place) (st : Nat) : Bool :=
  match at_ with
  | .stirrup n => n == st
  | .stall k => stallOf st == k
  | .barn b => barnOfStirrup st == b
  | .half h => st / 864 == h
  | .die => true

/-- Whether an upward arrival left the place. -/
def leftFrom (lower : Place) (ev : Instr) : Bool :=
  match lower.parent with
  | none => false
  | some (par, n) =>
    match ev with
    | .partialArrival at_ (.call p) => at_ == par && p.child == n
    | .partialArrival at_ (.home r) => at_ == par && beneath lower r.src
    | .signalCombining at_ r => at_ == par && beneath lower r.src
    | .partialArrival at_ (.tally r) => at_ == par && beneath lower r.src
    | .partialArrival at_ (.ctrl c) => at_ == par && beneath lower c.src
    | .idle at_ _ c _ => at_ == par && c == n
    | .active at_ _ c _ => at_ == par && c == n
    | _ => false

/-- The mark of a packet that has not left its stirrup. -/
def notLeft : Nat := 2 ^ 80

/-- A packet with the TCLK in which it left its stirrup (R64). -/
def leftAt (now : Nat) : Instr → Instr
  | .partialArrival at_ (.call p) => .partialArrival at_ (.call { p with leftT := now })
  | .partialArrival at_ (.home r) => .partialArrival at_ (.home { r with leftT := now })
  | .partialArrival at_ (.tally r) => .partialArrival at_ (.tally { r with leftT := now })
  | .partialArrival at_ (.ctrl c) => .partialArrival at_ (.ctrl { c with leftT := now })
  | .signalCombining at_ r => .signalCombining at_ { r with leftT := now }
  | e => e

/-- The first exact-class command that has not left takes the TCLK of its leaving. -/
def flyLeft (now : Nat) : List ExactFly → List ExactFly
  | [] => []
  | f :: t => if f.leftT = notLeft then { f with leftT := now } :: t else f :: flyLeft now t

def homeLeft (now rid : Nat) (l : List HomeFly) : List HomeFly :=
  l.map fun f => if f.rid = rid then { f with req := { f.req with leftT := now } } else f

/-- The stirrup's own note of the packet that leaves it (R65). -/
def noteLeft (now : Nat) (ev : Instr) (x : Stirrup) : Stirrup :=
  match ev with
  | .partialArrival _ (.home r) => { x with homeFly := homeLeft now r.rid x.homeFly }
  | .signalCombining _ r => { x with homeFly := homeLeft now r.rid x.homeFly }
  | .partialArrival _ (.tally _) => { x with exactFly := flyLeft now x.exactFly }
  | .partialArrival _ (.ctrl _) => { x with exactFly := flyLeft now x.exactFly }
  | _ => x

/-- A packet leaves on a link: from a stirrup, with the TCLK in which it does. -/
def leave (link hop : Nat) (ev : Instr) (s : State) : State :=
  if link < nStirrup then afterT hop (leftAt s.clk.tclk ev) (updStir link (noteLeft s.clk.tclk ev) s)
  else afterT hop ev s

/-! ## The beats of a packet (R23; Tables STR-12, STR-13, HOM-2, HOM-3, MEM-3) -/

/-- A header from its fields, each with the place of its lowest bit. -/
def packHeader (l : List (Nat × Nat)) : W64 := BitVec.ofNat 64 (l.foldl (fun a x => a + x.1 * 2 ^ x.2) 0)

def callHeader (p : Partial) (beat : Nat) : W64 :=
  packHeader [(1, 60), (p.slot, 51), (p.gen.toNat, 45), (p.op.toNat, 40), (p.fmt.toNat, 36), (p.vote.toNat, 34), (beat, 31), (p.count, 20),
            (p.tag.toNat, 0)]

def cueHeader (c : Cue) (beat : Nat) : W64 :=
  packHeader [(2, 60), (c.slot, 51), (c.epoch.toNat % 64, 45), (c.status.toNat, 40), (c.fmt.toNat, 36), (c.verdict.toNat, 34), (beat, 31),
            (c.inexact.toNat, 30), (c.overflow.toNat, 29), (c.role.toNat, 0)]

def homeReqHeader (r : HomeReq) : W64 :=
  packHeader [(3, 60), (r.obj, 47), (r.op.toNat, 42), (r.nohold.toNat, 41), (r.rid, 39), (r.src, 28), (r.merged.toNat, 27),
            (r.mlevel.toNat, 26), (r.mrec, 23), (r.poll.toNat, 22), (r.part, 16)]

def homeRspHeader (r : HomeRsp) : W64 :=
  packHeader [(4, 60), (r.obj, 47), (r.op.toNat, 42), (r.status.toNat, 37), (r.rid, 35), (r.dest, 24), (r.merged.toNat, 23),
            (r.mlevel.toNat, 22), (r.mrec, 19), (r.poll.toNat, 18), (r.role.toNat, 0)]

def tallyReqHeader (r : TallyReq) : W64 :=
  packHeader [(5, 60), (r.tally, 49), (r.op.toNat, 44), (r.nohold.toNat, 43), (r.src, 32), (r.part, 16)]

def tallyRspHeader (r : TallyRsp) : W64 :=
  packHeader [(5, 60), (1, 59), (r.tally, 49), (r.op.toNat, 44), (r.nohold.toNat, 43), (r.dest, 32), (r.status.toNat, 27), (r.role.toNat, 0)]

/-- Header and payload of beat `k` of a packet; each later beat repeats the header with BEAT incremented. -/
def beatOf (ev : Instr) (k : Nat) : BitVec 192 :=
  match ev with
  | .partialArrival _ (.call p) => callHeader p k ++ ((p.data >>> (128 * k)).setWidth 128 : W128)
  | .partialArrival _ (.home r) => homeReqHeader r ++ r.pay
  | .signalCombining _ r => homeReqHeader r ++ r.pay
  | .partialArrival _ (.tally r) => tallyReqHeader r ++ r.pay
  | .cueArrival _ c => cueHeader c k ++ c.data
  | .cueDelivery _ c => cueHeader c k ++ c.data
  | .homeRsp _ r => homeRspHeader r ++ r.pay
  | .tallyResponse _ r => tallyRspHeader r ++ r.pay
  | .partialArrival _ (.ctrl c) => (6#4 ++ Config.ctrlHeader ev) ++ (c.pay0.setWidth 128 : W128)
  | _ => (6#4 ++ Config.ctrlHeader ev) ++ (0 : W128)

/-- The 201 wires of a link in this TCLK: the beat it carries and its check bits; none where it carries no packet. -/
def linkWires (s : State) (link : Nat) : Option (BitVec 201) :=
  (s.tree.wires.find? fun w => w.link == link && decide (s.clk.tclk < w.since + w.beats)).map fun w =>
    let b := beatOf w.ev (s.clk.tclk - w.since)
    Config.checkBits b ++ b

/-- The mark of a link that a home packet keeps: it holds back home packets alone (R24). -/
def homeBusy (link : Nat) : Nat := 20000 + link

/-- One link's departure in this TCLK: the packet keeps the link for its beats (R25). In reduced service a link carries one
packet every 2 TCLK (Table BOO-3). -/
def depart (link : Nat) (s : State) : State :=
  let now := s.clk.tclk
  let free := s.tree.links.filter fun i => !homeClass i || decide (Tbl.get 0 s.tree.linkBusy (homeBusy link) ≤ now)
  if now < Tbl.get 0 s.tree.linkBusy link then s
  else match bestItem now link free with
    | none => s
    | some it =>
      let k := if homeClass it then homeBusy link else link
      let s1 := { s with tree := { s.tree with links := s.tree.links.erase it,
                                               linkBusy := Tbl.set 0 k (now + scaled s it.beats) s.tree.linkBusy,
                                               wires := s.tree.wires ++ [{ link := link, since := now, beats := it.beats, ev := it.ev }] } }
      leave link (it.hop + (it.beats - 1)) it.ev s1

/-- The packets whose last beat has gone are off the wires. -/
def clearWires (s : State) : State :=
  { s with tree := { s.tree with wires := s.tree.wires.filter fun w => decide (s.clk.tclk < w.since + w.beats) } }

/-- Every link's departure; none while the links drain for the stage-2 switch (R302). -/
def departAll (s0 : State) : State :=
  let s := clearWires s0
  if s.boot.draining then s else
  ((s.tree.links.filter fun i => i.ready ≤ s.clk.tclk).map (·.link)).eraseDups.foldl (fun a l => depart l a) s

/-- Whether a packet is on its way on any tree link or waits for one (R302, R136). -/
def onLinks (p : Instr → Bool) (s : State) : Bool :=
  s.tree.links.any (fun i => p i.ev) || s.agenda.any (fun t => t.clk == .tclk && p t.ev)

end Sys2Proof.Machine
end

