-- ==== Sys2Proof/Machine/Stirrup.lean ====
section
/-! DEFINITION. The stirrup (02_stirrup.md): accepting, queuing and issuing commands, freezing, role stamps, and the
sync-window registers. -/

namespace Sys2Proof.Machine

/-- The partition whose stamp a stirrup holds. -/
def stirPart (x : Stirrup) : Nat := wPart x.role

/-- Whether the partition of a stirrup is being quiesced, or is: its stirrups issue no further command (R247). -/
def stillPart (s : State) (x : Stirrup) : Bool :=
  (part s (stirPart x)).state == .quiescing || (part s (stirPart x)).state == .quiesced

/-- Whether the stirrup may issue nothing now: the curtain (Table OBS-8), a quiesce (R247), a role change (R61), the drain (R302),
a FENCE in progress, which completes first (R55). -/
def mustQueue (s : State) (x : Stirrup) : Bool :=
  s.boot.draining || x.newRole.isSome || x.fence.isSome || covered s (stirPart x) || stillPart s x

/-! ## Holding (R49) -/

/-- FENCE's wait is over (R50): the TILE condition, and the counters up to the named scope. -/
def fenceMet (x : Stirrup) (scope : BitVec 3) : Bool :=
  homeout x == 0 && x.exactFly.isEmpty
    && (scope.toNat < 1 || x.outDie == 0) && (scope.toNat < 2 || x.outPkg == 0) && (scope.toNat < 3 || x.outFab == 0)

/-- Whether a queued command holds the tile as Table STR-10 states: a held one, and a FENCE whose wait is not over. -/
def queueHolds (x : Stirrup) : Bool :=
  (x.cmdQ.dropWhile fun c => cClass c.word == 3 && fenceMet x (BitVec.ofNat 3 (cScope c.word))).any fun c =>
    cHeld c.word || cClass c.word == 3

/-- The hold causes of R49, R51, R52, R61 and R302, at the end of a TCLK; that of a role change ends in the TCLK after the stamp is
written. A posted command that waits holds nothing, but where a limit kept it as it was written (R51, R52). -/
def holdCause (s : State) (x : Stirrup) : Bool :=
  x.frozen || (match x.call with | some c => c.hold | none => false)
    || x.homeQ.any (fun c => cHeld c.word) || x.homeFly.any (·.held) || x.exactFly.any (·.held)
    || x.fence.isSome || x.newRole.isSome || x.roleAt == some s.clk.tclk
    || (!x.cmdQ.isEmpty && (s.boot.draining || queueHolds x || x.cmdQ.any (·.lim)))

/-- In reduced service hold release takes a TCLK more (Table BOO-3): the causes ended in this TCLK. -/
def releaseLater (s : State) (x : Stirrup) : Bool :=
  s.boot.reduced && x.hold && !holdCause s x && decide (x.roleAt ≠ some (s.clk.tclk - 1))

/-- A FENCE in progress ends once its wait is over (R50), as looked at when the TCLK's reports have all been counted (R169). -/
def settleFence (x : Stirrup) : Stirrup :=
  match x.fence with
  | some sc => if fenceMet x sc then { x with fence := none } else x
  | none => x

/-- TILE_HOLD of the coming TCLK: hold release is the TCLK after the last cause ends (R49), and in reduced service the second after
it (R300). -/
def settleHold (s : State) (x : Stirrup) : Stirrup :=
  if releaseLater s x then { x with roleAt := some s.clk.tclk } else { x with hold := holdCause s x }

/-- A stirrup at the end of a TCLK: its hold, and POSTERR as set in it. -/
def endStirrup (s : State) (x : Stirrup) : Stirrup := postSeen (settleHold s x)

/-! ## Freezing at the stirrup (R63, R64, R65) -/

/-- Sets FROZEN with its cause and discards what waits in the stirrup's own queues (R65). -/
def frozenBy (cause : Nat) (x : Stirrup) : Stirrup :=
  { x with frozen := true, cause := BitVec.ofNat 4 cause, homeQ := [], cmdQ := [] }

/-- The stall's record of the stirrups it has frozen (R64, Table FLT-1). -/
def markFrozen (st : Nat) (s : State) : State :=
  if s.tree.frozen.contains st then s else { s with tree := { s.tree with frozen := s.tree.frozen ++ [st] } }

/-- A freeze that the stirrup detects: FROZEN, the record, and the report to the home (R64, R157). -/
def freezeStirrup (st cause : Nat) (w : W32) (s : State) : State :=
  let p := stirPart (stir s st)
  across .tclk .eclk 2 3 (.waiterRemoval st true)
    (report 0x03 1 st (some p) [w.toNat, cause] (updStir st (frozenBy cause) s))

/-! ## Issuing -/

/-- The free request numbers of the four in flight (R141, RID). -/
def freeRid (x : Stirrup) : Option Nat := (List.range 4).find? fun r => x.homeFly.all fun f => f.rid != r

/-- The request the stirrup sends upwards: SIGNALs meet the combining windows, all others the checks alone. -/
def homeArrival (at_ : Place) (r : HomeReq) : Instr :=
  if r.op = 0 ∧ r.tok = false then .signalCombining at_ r else .partialArrival at_ (.home r)

/-- Sends the requests that the in-flight limit allows, in their order (R141); none while the partition is quiesced (R247). -/
def pumpHome (st : Nat) : Nat → State → State
  | 0, s => s
  | k + 1, s =>
    let x := stir s st
    if stillPart s x then s else match x.homeQ, freeRid x with
    | c :: t, some rid =>
      let r := homePacket st rid c notLeft
      let s1 := setStir st { x with homeQ := t, homeFly := x.homeFly ++ [{ rid := rid, held := cHeld c.word, req := r }] } s
      pumpHome st k (offerUp (.stirrup st) (prioHome s.clk.tclk st) s.clk.tclk 1 (homeArrival (.stall (stallOf st)) r) s1)
    | _, _ => s

/-- Issues a CALL (R58): pending from now, counted (Table OBS-1), and on its way. -/
def issueCall (st : Nat) (c : StirCmd) (s : State) : State :=
  let x := stir s st
  let s1 := setStir st { x with call := some { slot := cId c.word, hold := cHeld c.word, boot := false, cmd := c, commit := c.pay } } s
  offerUp (.stirrup st) prioIssue s.clk.tclk 1
    (.partialArrival (.stall (stallOf st)) (.call (callPacket st c c.pay notLeft))) (count (stirPart x) 0 1 s1)

def issueTally (st : Nat) (c : StirCmd) (s : State) : State :=
  let x := stir s st
  let s1 := setStir st { x with exactFly := x.exactFly ++ [{ cmd := c, tally := true, held := cHeld c.word, leftT := notLeft }] } s
  offerUp (.stirrup st) prioIssue s.clk.tclk 1
    (.partialArrival (.stall (stallOf st)) (.tally (tallyPacket st c notLeft))) s1

def issueCtrl (st : Nat) (c : StirCmd) (s : State) : State :=
  let x := stir s st
  let s1 := setStir st { x with exactFly := x.exactFly ++ [{ cmd := c, tally := false, held := false, leftT := notLeft }] } s
  offerUp (.stirrup st) prioIssue s.clk.tclk 1 (.partialArrival (.stall (stallOf st)) (.ctrl (ctrlPacket st c notLeft))) s1

/-- Whether a queue limit keeps the command waiting (R51: 64 home operations; R52: 2 other exact-class commands). -/
def limited (x : Stirrup) (w : W32) : Bool :=
  (cClass w == 1 && 64 ≤ homeout x) || ((cClass w == 2 || cClass w == 4) && 2 ≤ x.exactFly.length)

/-- Whether R53 refuses the command: a CALL is pending, and it is a CALL or a held HOME or TALLY command. -/
def busyRefused (x : Stirrup) (w : W32) : Bool :=
  x.call.isSome && (cClass w == 0 || ((cClass w == 1 || cClass w == 2) && cHeld w))

/-- Issues a command that nothing holds back. -/
def issueNow (st : Nat) (c : StirCmd) (s : State) : State :=
  let x := stir s st
  if busyRefused x c.word then setStir st { x with status := stBusy } s
  else match cClass c.word with
    | 0 => issueCall st c s
    | 1 => pumpHome st 4 (setStir st { x with homeQ := x.homeQ ++ [c] } s)
    | 2 => issueTally st c s
    | 3 => setStir st { x with fence := some (BitVec.ofNat 3 (cScope c.word)) } s
    | _ => issueCtrl st c s

/-- The command as sampled with its write (R45); WAIT_TO's deadline is fixed here (R151). -/
def sample (s : State) (x : Stirrup) (w : W32) : StirCmd :=
  { word := w, pay := if wordIs 1 3 w then withDeadline (houseNow s) x.pay else x.pay, tag := x.tag, at_ := s.clk.tclk,
    lim := limited x w && !busyRefused x w }

/-- A STIR_CMD write (R48, R51 to R53, R61, R63, R64, R302). -/
def writeCmd (st : Nat) (w : W32) (s : State) : State :=
  let x := stir s st
  if x.frozen || x.iso then s
  else
    let cause := stirrupCause (wAssigned x.role) w
    if cause ≠ 0 then freezeStirrup st cause w s
    else
      let c := sample s x w
      if !x.cmdQ.isEmpty || mustQueue s x || c.lim then
        setStir st { x with cmdQ := x.cmdQ ++ [c] } s
      else issueNow st c s

/-- Asks for QUEUED_COMMAND_ISSUE in the coming TCLK where commands wait (R51, R52). -/
def wake (st : Nat) (s : State) : State :=
  let x := stir s st
  if (x.cmdQ.isEmpty && x.homeQ.isEmpty) || s.agenda.any (fun t => t.ev == .queuedCommandIssue st) then s
  else afterT 1 (.queuedCommandIssue st) s

/-- Issues the first of the commands held in the stirrup, where nothing holds it back any longer, and looks at the next one in the
coming TCLK (R51, R52, R61, R302, R289). A cause that the stirrup finds now freezes it (R302: a tile mapped out). -/
def issueHeld (st : Nat) (s : State) : State :=
  let x := stir s st
  match x.cmdQ with
  | [] => s
  | c :: t =>
    if mustQueue s x || x.frozen || (limited x c.word && !busyRefused x c.word) then s
    else if stirrupCause (wAssigned x.role) c.word ≠ 0 then freezeStirrup st (stirrupCause (wAssigned x.role) c.word) c.word s
    else wake st (issueNow st c (setStir st { x with cmdQ := t } s))

/-! ## Role stamps (R60, R61) -/

def stampIs (x : Stirrup) (role : BitVec 16) : Bool := wStamp x.role == role

/-- A stale drop (R60, R81): counted for the partition the packet names, and logged. -/
def staleDrop (p index kind what : Nat) (s : State) : State := report 0x02 1 index (some p) [kind, what] (count p 12 1 s)

/-- The same at a node, which the record names (R81). -/
def staleAt (p : Nat) (at_ : Place) (kind what : Nat) (s : State) : State :=
  report 0x02 (nodeUnit s at_) (nodeNumber s at_) (some p) [kind, what] (count p 12 1 s)

/-- The conditions of R61; a boot call does not stand in the way (R296). -/
def roleReady (x : Stirrup) : Bool :=
  (match x.call with | some c => c.boot | none => true) && x.fence.isNone && homeout x == 0 && x.exactFly.isEmpty

/-- From the TCLK in which it gets a role, a boot call is a call on the boundary slot of the new partition (R296); on slot 0
before the first cue it is part of that (R295). -/
def bootJoin (st : Nat) (s : State) : State :=
  let x := stir s st
  match x.call with
  | none => s
  | some c =>
    let slot := boundary s (stirPart x)
    if !c.boot || !wAssigned x.role || (slot == 0 && !s.boot.firstDone) then s
    else
      let w : W32 := BitVec.ofNat 32 slot
      afterT 0 (.partialArrival (.stall (stallOf st)) (.call (callPacket st { c.cmd with word := w, at_ := s.clk.tclk } 0 s.clk.tclk))) s

/-- Writes a waiting role stamp when the conditions hold, and lets the held commands issue in the next TCLK (R61). -/
def tryRole (st : Nat) (s : State) : State :=
  let x := stir s st
  match x.newRole with
  | none => s
  | some r => if roleReady x then wake st (bootJoin st (setStir st { x with role := r, newRole := none, roleAt := some s.clk.tclk } s)) else s

/-! ## The sync window registers (Table STR-1) -/

/-- Replaces payload word `i`. -/
def setPay (p : W128) (i : Nat) (v : W32) : W128 :=
  (p &&& ~~~ ((0xFFFF_FFFF#128) <<< (32 * i))) ||| ((v.setWidth 128) <<< (32 * i))

/-- Whether a quiescence call is pending at the stirrup (R92). -/
def quiesceCall (s : State) (x : Stirrup) : Bool :=
  match x.call with | some c => !c.boot && slotMode s c.slot == 2 | none => false

/-- A write of STIR_PAY word `i`; STIR_PAY3 commits the set while a quiescence call is pending (R92). -/
def writePay (st i : Nat) (v : W32) (s : State) : State :=
  let x := stir s st
  let pay := setPay x.pay i v
  if i = 3 ∧ quiesceCall s x then
    setStir st { x with pay := pay, call := x.call.map fun c => { c with commit := pay } } s
  else setStir st { x with pay := pay } s

/-- What a read of a sync-window offset returns, its side effects apart (R43, Table STR-1). -/
def readWindow (s : State) (st off : Nat) : W32 :=
  let x := stir s st
  match off with
  | 0x00 => x.pay.setWidth 32
  | 0x04 => (x.pay >>> 32).setWidth 32
  | 0x08 => (x.pay >>> 64).setWidth 32
  | 0x0C => (x.pay >>> 96).setWidth 32
  | 0x10 => x.tag.setWidth 32
  | 0x18 => statWord x
  | 0x1C => x.audit
  | 0x20 => x.res.setWidth 32
  | 0x24 => (x.res >>> 32).setWidth 32
  | 0x28 => (x.res >>> 64).setWidth 32
  | 0x2C => (x.res >>> 96).setWidth 32
  | 0x30 => x.role
  | 0x34 => outWord x
  | 0x38 => (houseNow s).setWidth 32
  | 0x3C => x.houseHi
  | _ => 0

def present (v : W64) (s : State) : State := { s with su := { s.su with rdata := v } }

/-- An increment of a STIR_OUT counter that is below 1,023 (R46). -/
def incOut (scope : BitVec 2) (x : Stirrup) : Stirrup :=
  match scope.toNat with
  | 1 => { x with outDie := x.outDie + 1 }
  | 2 => { x with outPkg := x.outPkg + 1 }
  | _ => { x with outFab := x.outFab + 1 }

def outOf (scope : BitVec 2) (x : Stirrup) : BitVec 10 :=
  match scope.toNat with | 1 => x.outDie | 2 => x.outPkg | _ => x.outFab

def decOut (scope : BitVec 2) (x : Stirrup) : Stirrup :=
  match scope.toNat with
  | 1 => { x with outDie := x.outDie - 1 }
  | 2 => { x with outPkg := x.outPkg - 1 }
  | _ => { x with outFab := x.outFab - 1 }

/-! ## The tile's commands -/

/-- A tile's STIR_CMD write given under the row of class `cls` and operation `op`. -/
def tileCmd (cls op st : Nat) (w : W32) (s : State) : Host.Outcome State Fault Refusal :=
  if !wordIs cls op w then .fault .notThisCommand else answer (decide (st < nStirrup)) (writeCmd st w s)

def execCall (st : Nat) (w : W32) (s : State) : Host.Outcome State Fault Refusal :=
  if cClass w ≠ 0 ∨ opListed 0 (cOp w) = false then .fault .notThisCommand
  else answer (decide (st < nStirrup)) (writeCmd st w s)

def execArm (st : Nat) (w : W32) (s : State) : Host.Outcome State Fault Refusal := tileCmd 2 0x18 st w s
def execFlagPost (st : Nat) (w : W32) (s : State) : Host.Outcome State Fault Refusal := tileCmd 2 0x19 st w s
def execTallyRead (st : Nat) (w : W32) (s : State) : Host.Outcome State Fault Refusal := tileCmd 2 0x1A st w s
def execFence (st : Nat) (w : W32) (s : State) : Host.Outcome State Fault Refusal := tileCmd 3 0 st w s

/-- A STIR_CMD write with a reserved CLASS or an unlisted OP: the freeze of R64 with BAD_CLASS or BAD_OP. -/
def execMalformedCommand (st : Nat) (w : W32) (s : State) : Host.Outcome State Fault Refusal :=
  if opListed (cClass w) (cOp w) then .fault .notThisCommand else answer (decide (st < nStirrup)) (writeCmd st w s)

def execQueuedCommandIssue (st : Nat) (s : State) : Host.Outcome State Fault Refusal :=
  answer (decide (st < nStirrup)) (pumpHome st 4 (issueHeld st s))

def execPayloadCommit (st : Nat) (v : W32) (s : State) : Host.Outcome State Fault Refusal :=
  answer (decide (st < nStirrup)) (writePay st 3 v s)

/-- A read of STIR_STAT returns the status and clears POSTERR (R17, Table STR-4). -/
def execStirStatRead (st : Nat) (s : State) : Host.Outcome State Fault Refusal :=
  answer (decide (st < nStirrup))
    (updStir st (fun x => { x with posterr := false }) (present ((statWord (stir s st)).setWidth 64) s))

/-- A read of HOUSE_LO returns the whole house ticks and latches the high word (R47). -/
def execHouseLoRead (st : Nat) (s : State) : Host.Outcome State Fault Refusal :=
  answer (decide (st < nStirrup))
    (updStir st (fun x => { x with houseHi := ((houseNow s) >>> 32).setWidth 32 })
      (present ((readWindow s st 0x38).setWidth 64) s))

/-- The send unit's report of a remote write; scope 0 is ignored (Table INT-2, R46). A frozen stirrup still counts. -/
def execRemoteWriteReport (st : Nat) (scope : BitVec 2) (s : State) : Host.Outcome State Fault Refusal :=
  answer (decide (st < nStirrup)) <|
    if scope = 0 then s
    else if (outOf scope (stir s st)).toNat = 1023 then
      (if (stir s st).frozen then s else freezeStirrup st 5 0 s)
    else updStir st (incOut scope) s

/-- A landing acknowledgement presented at a port, or taking effect 5 TCLK later (R46, R168). -/
def execLandAck (st : Nat) (scope : BitVec 2) (effect : Bool) (s : State) : Host.Outcome State Fault Refusal :=
  answer (decide (st < nStirrup)) <|
    if scope = 0 then s
    else if !effect then afterT 5 (.landAck st scope true) s
    else if outOf scope (stir s st) = 0 then report 0x04 1 st (some (stirPart (stir s st))) [scope.toNat] s
    else updStir st (decOut scope) s

/-- A new role stamp is written once nothing is pending or in flight (R61). -/
def execRoleStampWrite (st : Nat) (s : State) : Host.Outcome State Fault Refusal :=
  answer (decide (st < nStirrup)) (tryRole st s)

end Sys2Proof.Machine
end

