-- ==== Sys2Proof/Machine/Tree.lean ====
section
/-! DEFINITION. The combining tree (03_barriers.md, 06's windows): what a node holds, when it forwards, and the packets that
arrive at it. -/

namespace Sys2Proof.Machine

/-! ## Children and expected sets (R76, R77, R79, R82) -/

def barnStalls (b : Nat) : List Nat := (List.range 108).filter fun k => barnOf k == b
def halfBarns (h : Nat) : List Nat := (List.range 18).filter fun b => halfOf b == h

def stallHolds (s : State) (slot k : Nat) : Bool := (stirrupsOf k).any (isMember s slot)
def barnHolds (s : State) (slot b : Nat) : Bool := (barnStalls b).any (stallHolds s slot)
def halfHolds (s : State) (slot h : Nat) : Bool := (halfBarns h).any (barnHolds s slot)

/-- The span entry a slot's SPAN field names. -/
def spanOf (s : State) (slot : Nat) : Nat := bitsN (slotPlace s slot) 20 14
def spanValid (s : State) (e : Nat) : Bool := bitB (reg s (spanKey e 0)) 31
def spanRootDie (s : State) (e : Nat) : Bool := bitB (reg s (spanKey e 0)) 29
def spanLevel (s : State) (e : Nat) : Bool := bitB (reg s (spanKey e 0)) 30
def spanState (s : State) (e : Nat) : SpanState := Tbl.get SpanState.none s.fab.spans e
def setSpan (e : Nat) (x : SpanState) (s : State) : State :=
  { s with fab := { s.fab with spans := Tbl.set SpanState.none e x s.fab.spans } }

/-- Tugs are ports 0 to 3 (N, E, S, W), rein peers ports 8 to 23. -/
def spanDown (s : State) (e : Nat) : List Nat :=
  let w := reg s (spanKey e 4)
  (List.range 4).filter (fun t => bitB w (28 - t)) ++ ((List.range 16).filter (fun i => bitB w (5 + i))).map (8 + ·)

def spanUp (s : State) (e : Nat) : Option Nat :=
  let w := reg s (spanKey e 4)
  match bitsN w 31 29 with
  | 1 => some 0 | 2 => some 1 | 3 => some 2 | 4 => some 3
  | 5 => some (8 + bitsN w 24 21)
  | _ => none

/-- The ports a slot's span receives partials from at this die root; none while it is BROKEN (R208). -/
def spanKids (s : State) (slot : Nat) : List Nat :=
  if spanRooted s slot && !(spanState s (spanOf s slot)).broken then (spanDown s (spanOf s slot)).map portChild else []

/-- The child mask of a node (R76). -/
def kidsOf (s : State) (at_ : Place) (slot : Nat) : List Nat :=
  match at_ with
  | .stirrup _ => []
  | .stall k => (stirrupsOf k).filter (isMember s slot)
  | .barn b => (barnStalls b).filter (stallHolds s slot)
  | .half h => (halfBarns h).filter (barnHolds s slot)
  | .die => (List.range 2).filter (halfHolds s slot) ++ (if slotHost s slot then [hostChild] else []) ++ spanKids s slot

/-- Whether `e` lies at or after `from_`, modulo 2^32. -/
def notBefore (from_ e : W32) : Bool := (e - from_).toNat < 2 ^ 31

/-- Whether member `m` abstains from epoch `e` (R84). -/
def abstains (ns : NodeSlot) (m : Nat) (e : W32) : Bool :=
  ns.abst.any fun a => a.member == m && notBefore a.from_ e && (a.k == 0 || (e - a.from_).toNat < a.k)

/-- Whether a child is idle for epoch `e`: it said so, or it is a member that abstains until REJOIN (R79). -/
def kidIdle (ns : NodeSlot) (c : Nat) (e : W32) : Bool :=
  ns.idle.any (fun i => i.1 == c && notBefore i.2 e) || ns.abst.any (fun a => a.member == c && a.k == 0 && notBefore a.from_ e)

/-- The expected set of an epoch (R76). -/
def expected (s : State) (at_ : Place) (slot : Nat) (e : W32) : List Nat :=
  (kidsOf s at_ slot).filter fun c => !kidIdle (node s at_ slot) c e

/-- Every child of the expected set has arrived or abstains (R77). -/
def setDone (s : State) (at_ : Place) (slot : Nat) (h : Hold) (e : W32) : Bool :=
  (expected s at_ slot e).all fun c => h.kids.contains c || abstains (node s at_ slot) c e

/-- Whether this node decides the slot's epochs: its effective root, and above the die only the root die, or any die of a
BROKEN span (R82, R186, R208). -/
def decides (s : State) (at_ : Place) (slot : Nat) : Bool :=
  at_ == rootOf s slot && (!spanRooted s slot || spanRootDie s (spanOf s slot) || (spanState s (spanOf s slot)).broken)

def isQuiesce (s : State) (slot : Nat) : Bool := slotMode s slot == 2
def isCount (s : State) (slot : Nat) : Bool := slotMode s slot == 1

/-! ## Stages (R77, R83, R116, R278) -/

/-- The trace cycle of a traced slot's stall (R278). -/
def traceT (s : State) (at_ : Place) (slot : Nat) : Nat := match at_ with | .stall _ => if traced s slot then 1 else 0 | _ => 0

/-- Cycles of a node's combine: 2, the c of R116, the stall's conversion (b - 1), and the trace cycle of a traced slot's stall. -/
def combineT (s : State) (at_ : Place) (slot : Nat) : Nat :=
  let op := slotOp s slot
  scaled s <| 2 + combineExtra op + traceT s at_ slot + (match at_ with
    | .stall _ => beatsOf op (slotFmt s slot) - 1
    | _ => 0)

/-- The decide stage: 1 TCLK at the lower roots, 2 at the die root (Table BAR-7). -/
def decideT (s : State) (at_ : Place) : Nat := scaled s (match at_ with | .die => 2 | _ => 1)

/-! ## Forming partials -/

/-- An empty partial of a slot (R77, R100); with vote POISON it stands for a failed one (R213). -/
def emptyPartial (s : State) (slot : Nat) (vote : BitVec 2) : Partial :=
  { slot := slot, gen := 0, op := slotOp s slot, fmt := slotFmt s slot, vote := vote, count := 0, tag := 0, data := 0,
    child := 0, seq := 0, leftT := 0, firstAt := 0, lastAt := 0, lastVt := 0, word := 0 }

/-- Combines an arrival into what is held (R100, R102 to R110, R213). The TAG is that of the later arrival at this node,
the lower child on a same-TCLK tie (R279); `leftT` of what is held is that arrival's TCLK here. `seq` counts the other dies
represented (R190). -/
def joinPartial (q : Bool) (now : Nat) (a b : Partial) : Partial :=
  let vote := voteMerge a.vote b.vote
  let dies := a.seq + b.seq
  if b.count = 0 then { a with vote := vote, seq := dies }
  else if a.count = 0 then { b with vote := vote, seq := dies, leftT := now }
  else
    let newer := a.leftT < now ∨ b.child < a.child
    { a with
      vote := vote, seq := dies, count := a.count + b.count, data := combine a.op a.fmt q a.data b.data,
      tag := if newer then b.tag else a.tag, child := if newer then b.child else a.child,
      lastVt := if newer then b.lastVt else a.lastVt, leftT := now,
      firstAt := min a.firstAt b.firstAt, lastAt := max a.lastAt b.lastAt }

/-- Adds an arrival of child `c` to a hold. -/
def Hold.add (q : Bool) (now c : Nat) (p : Partial) (h : Hold) : Hold :=
  { h with
    kids := h.kids ++ [c],
    acc := match h.acc with | some a => some (joinPartial q now a p) | .none => some { p with leftT := now },
    votes := if p.vote = 0 then h.votes else h.votes ++ [(c, p.vote)] }

/-- What a node forwards of a hold: its combined partial, an empty one, or POISON in place of a failed one (R77, R213). -/
def outPartial (s : State) (at_ : Place) (slot : Nat) (h : Hold) (e : W32) : Partial :=
  let a := h.acc.getD (emptyPartial s slot 0)
  let p := if h.poison then { emptyPartial s slot votePoison with seq := a.seq } else a
  let child := match at_.parent with | some (_, n) => n | none => 0
  { p with gen := e.setWidth 6, child := child }

/-! ## Span packets leaving this die (R190) -/

/-- The payload beats of a span packet of a slot (R190). -/
def spanBeats (s : State) (slot : Nat) (kind : BitVec 4) : Nat :=
  if kind = 1 then beatsOf (slotOp s slot) (slotFmt s slot) else if kind = 2 then 2 else 1

/-- Queues a packet for a port from TCLK `ready` on, behind those of its span. -/
def sendSpan (port slot ready : Nat) (pkt : SpanPkt) (s : State) : State :=
  let l := s.fab.reinQ.filter fun o => o.port == port && o.pkt.span == pkt.span
  { s with fab := { s.fab with reinQ := s.fab.reinQ ++
      [FabOut.mk port (slotOwner s slot) pkt (l.foldl (fun a o => max a o.ready) ready) (spanBeats s slot pkt.fkind) 0] } }

/-- A span packet of a slot with its GEN. -/
def spanPkt (s : State) (slot : Nat) (kind : BitVec 4) (gen : BitVec 6) : SpanPkt :=
  { fkind := kind, span := BitVec.ofNat 20 (bitsN (reg s (spanKey (spanOf s slot) 0)) 19 0), gen := gen, opst := slotOp s slot,
    vote := 0, beat := 0, count := 0, data := 0, empty := false }

/-! ## Curtain causes (R287, R290) -/

/-- Cause bits of Table OBS-7; the code in events and packets is one more. -/
def causeOf : CurtainSrc → Nat
  | .verdict => 0
  | .watchpoint => 1
  | .tile => 2
  | .tenant => 3
  | .manager => 4
  | .ring => 4
  | .fault => 5

def spanSlot (s : State) (e : Nat) : Nat := fld s (spanKey e 0) 28 20
def spanPorts (s : State) (e : Nat) : List Nat := (spanUp s e).toList ++ spanDown s e

/-- Beat 0 of a CURTAIN packet (R290). -/
def curtainBeat (id die seq act cause : Nat) (all : Bool) : Wide :=
  BitVec.ofNat 640 (id + die * 2 ^ 20 + seq * 2 ^ 36 + act * 2 ^ 44 + cause * 2 ^ 46 + all.toNat * 2 ^ 49)

/-- Sends one CURTAIN packet on every port of each valid span entry of `p`, except `skip`. -/
def curtainOut (p : Nat) (die seq act cause : Nat) (skip : Option Nat) (s : State) : State :=
  let es := (List.range 128).filter fun e => spanValid s e && slotOwner s (spanSlot s e) == some p
  let pkt := fun (e : Nat) => SpanPkt.mk 8 0 0 0 0 0 0 (curtainBeat (fld s (spanKey e 0) 19 0) die seq act cause false) false
  let add := fun (e : Nat) (b : State) (q : Nat) => { b with fab := { b.fab with reinQ := b.fab.reinQ ++ [FabOut.mk q (some p) (pkt e) s.clk.tclk 1 0] } }
  es.foldl (fun a e => ((spanPorts s e).filter fun q => skip != some q).foldl (add e) a) s

def dieId (s : State) : Nat := fld s 0x6018 15 0

/-- A change of `p`'s curtain that arose on this die is sent with the next SEQ. -/
def sendCurtain (p act cause : Nat) (s : State) : State :=
  curtainOut p (dieId s) s.cur.seq.toNat act cause none { s with cur := { s.cur with seq := s.cur.seq + 1 } }

/-- Sets a cause bit: the first one raises the curtain, with its event. -/
def setCause (p : Nat) (src : CurtainSrc) (s : State) : State :=
  let x := part s p
  let b : BitVec 6 := 1#6 <<< causeOf src
  let s1 := setPart p { x with causes := x.causes ||| b } s
  if x.causes = 0 then event p 0x02 (BitVec.ofNat 32 (causeOf src + 1)) 0 s1 else s1

/-! ## Settling a node (R77, R78, R79, R85) -/

/-- The first epoch of which the node has forwarded nothing. -/
def firstUnsent (ns : NodeSlot) : W32 := if ns.sent then (if ns.sentN then ns.epoch + 2 else ns.epoch + 1) else ns.epoch

/-- Sends a node's partial towards its parent (R77), or over the span's UP (R189, R190). -/
def forward (at_ : Place) (slot : Nat) (h : Hold) (e : W32) (s : State) : State :=
  let ns := node s at_ slot
  let p := outPartial s at_ slot h e
  let stage := combineT s at_ slot
  let ready := if p.count = 0 then max (ns.lastEv + scaled s (2 + traceT s at_ slot)) (max s.clk.tclk (ns.passT + 1)) else s.clk.tclk + stage
  match at_.parent with
  | some (par, _) => offerUp at_ (prioSlot slot 2) ready (beatsOf p.op p.fmt) (.partialArrival par (.call p)) s
  | none =>
    match spanUp s (spanOf s slot) with
    | some port =>
      sendSpan port slot ready { spanPkt s slot 1 (e.setWidth 6) with
        vote := p.vote, data := p.data, count := BitVec.ofNat 24 (p.seq + 1), empty := p.count == 0 } s
    | none => s

/-- Whether a packet waiting for a node's outgoing link is of the slot. -/
def slotPacket (slot : Nat) : Instr → Bool
  | .partialArrival _ (.call p) => p.slot == slot
  | .idle _ i _ _ => i == slot
  | .active _ i _ _ => i == slot
  | _ => false

/-- The packets of a slot that a node has still to send: what follows them, IDLE and ACTIVE included, stays behind them (R79). -/
def unsentOf (s : State) (at_ : Place) (slot : Nat) : List LinkItem :=
  s.tree.links.filter fun i => i.link == at_.linkUp && slotPacket slot i.ev

/-- Offers IDLE or ACTIVE upwards from TCLK `ready` on. -/
def offerEdge (at_ : Place) (slot ready : Nat) (ev : Instr) (s : State) : State :=
  let l := unsentOf s at_ slot
  offerUp at_ (prioSlot slot (if l.isEmpty then 0 else 2)) (l.foldl (fun a i => max a i.ready) ready) 1 ev s

/-- Sends IDLE upwards with the first epoch for which no partial follows (R79). It leaves through the combine stage, so that
the release follows the ABSTAIN as R85 says. -/
def sendIdle (at_ : Place) (slot : Nat) (e : W32) (s : State) : State :=
  match at_.parent with
  | some (par, n) => offerEdge at_ slot (s.clk.tclk + scaled s (2 + traceT s at_ slot)) (.idle par slot n (e.setWidth 6)) s
  | none =>
    match spanUp s (spanOf s slot) with
    | some port => sendSpan port slot (s.clk.tclk + scaled s 2) (spanPkt s slot 3 (e.setWidth 6)) s
    | none => s

def sendActive (at_ : Place) (slot : Nat) (e : W32) (s : State) : State :=
  match at_.parent with
  | some (par, n) => offerEdge at_ slot s.clk.tclk (.active par slot n (e.setWidth 6)) s
  | none =>
    match spanUp s (spanOf s slot) with
    | some port => sendSpan port slot s.clk.tclk (spanPkt s slot 4 (e.setWidth 6)) s
    | none => s

/-- Every child of the mask is idle for the epoch (R79). -/
def allIdle (s : State) (at_ : Place) (slot : Nat) (e : W32) : Bool :=
  let k := kidsOf s at_ slot
  !k.isEmpty && k.all fun c => kidIdle (node s at_ slot) c e

/-- A child of an idle node is expected again: ACTIVE goes up, and the node waits for its acknowledgement (R79, R337). -/
def settleActive (at_ : Place) (slot : Nat) (s : State) : State :=
  let ns := node s at_ slot
  if !decides s at_ slot && ns.idleSent && !allIdle s at_ slot (firstUnsent ns) then
    sendActive at_ slot ns.epoch (setNode at_ slot { ns with idleSent := false, ackWait := at_.parent.isSome } s)
  else s

/-- Every child has gone idle: IDLE goes up (R79). -/
def settleIdle (at_ : Place) (slot : Nat) (s : State) : State :=
  let ns := node s at_ slot
  if !decides s at_ slot && allIdle s at_ slot (firstUnsent ns) && !ns.idleSent && ns.late.isEmpty then
    sendIdle at_ slot (firstUnsent ns) (setNode at_ slot { ns with idleSent := true } s)
  else s

/-- Looks at the open epoch: the partial leaves, or the root's decision follows, once the set is complete (R77, R78). -/
def settleOpen (at_ : Place) (slot : Nat) (s : State) : State :=
  let ns := node s at_ slot
  let e := ns.epoch
  if ns.sent || ns.ackWait || (expected s at_ slot e).isEmpty || !setDone s at_ slot ns.cur e then s
  else
    let s1 := setNode at_ slot { ns with sent := true } s
    if decides s at_ slot then
      afterT (combineT s at_ slot + scaled s (roundStage (slotOp s slot)) + decideT s at_) (.rootDecision at_ slot) s1
    else forward at_ slot ns.cur e s1

/-- Looks at the next epoch: a partial that is not empty need not wait for the cue of the open one (R77, R81). -/
def settleNext (at_ : Place) (slot : Nat) (s : State) : State :=
  let ns := node s at_ slot
  let e := ns.epoch + 1
  if !ns.sent || ns.sentN || ns.ackWait || decides s at_ slot || ns.nxt.kids.isEmpty || !setDone s at_ slot ns.nxt e then s
  else
    match ns.nxt.acc with
    | some a => if a.count = 0 ∨ ns.nxt.poison then s else forward at_ slot ns.nxt e (setNode at_ slot { ns with sentN := true } s)
    | none => s

/-- After every change at a node: the return from idleness, the open epoch, the next one, then idleness. -/
def settle (at_ : Place) (slot : Nat) (s : State) : State :=
  if isCount s slot then s else settleIdle at_ slot (settleNext at_ slot (settleOpen at_ slot (settleActive at_ slot s)))

def touch (at_ : Place) (slot : Nat) (s : State) : State :=
  setNode at_ slot { node s at_ slot with lastEv := s.clk.tclk } s

/-! ## Arrivals at a node -/

/-- Places an arrival of child `c` in the epoch its GEN names; a GEN that matches neither epoch, or an epoch already
forwarded without that child, is discarded as stale (R81, R337). -/
def arriveGen (at_ : Place) (slot c : Nat) (p : Partial) (s : State) : State :=
  let ns := node s at_ slot
  let q := isQuiesce s slot
  let now := s.clk.tclk
  let own := (slotOwner s slot).getD 0
  if p.gen = ns.epoch.setWidth 6 then
    if ns.sent ∨ ns.cur.kids.contains c then staleAt own at_ 1 slot s
    else settle at_ slot (setNode at_ slot { ns with cur := ns.cur.add q now c p, lastEv := now } s)
  else if p.gen = (ns.epoch + 1).setWidth 6 then
    if ns.sentN ∨ ns.nxt.kids.contains c then staleAt own at_ 1 slot s
    else settle at_ slot (setNode at_ slot { ns with nxt := ns.nxt.add q now c p, lastEv := now } s)
  else staleAt own at_ 1 slot s

/-- The epoch to which a member's next CALL would belong at its stall (R81, R84, R86). -/
def nextEpoch (ns : NodeSlot) (m : Nat) : W32 :=
  if ns.nxt.kids.contains m then ns.epoch + 2
  else if ns.cur.kids.contains m || ns.again.contains m || ns.sent then
    (if ns.sentN && !ns.nxt.kids.contains m then ns.epoch + 2 else ns.epoch + 1)
  else ns.epoch

/-- Places a member's contribution in the epoch its stall assigns (R81); one beyond the next epoch waits. -/
def addCall (k slot st : Nat) (p : Partial) (s : State) : State :=
  let at_ := Place.stall k
  let ns := node s at_ slot
  let q := isQuiesce s slot
  let now := s.clk.tclk
  let e := nextEpoch ns st
  if e = ns.epoch then settle at_ slot (setNode at_ slot { ns with cur := ns.cur.add q now st p, lastEv := now } s)
  else if e = ns.epoch + 1 then
    settle at_ slot (setNode at_ slot { ns with nxt := ns.nxt.add q now st p, lastEv := now } s)
  else setNode at_ slot { ns with late := ns.late ++ [p] } s

/-- A CALL reaches its stall: it ends an abstention from its epoch (R86), and one from a later epoch stands, as for the next round of
a pending quiescence call (R84, R92); it is converted to the partial form (R116). -/
def arriveCall (k slot st : Nat) (p0 : Partial) (s : State) : State :=
  let at_ := Place.stall k
  let ns := node s at_ slot
  let ns0 := { ns with again := ns.again.filter fun m => m != st }
  let p := { p0 with data := widen p0.op p0.fmt (isQuiesce s slot) (p0.data.setWidth 128), child := st, lastVt := traceName s st }
  addCall k slot st p (setNode at_ slot { ns0 with abst := ns0.abst.filter fun a => a.member != st || !notBefore a.from_ (nextEpoch ns0 st) } s)

/-! ## Count slots (R89, R90) -/

/-- Adds a partial to the one the node forms in this TCLK, which waits for its link (R89); of the arrivals of one TCLK the TAG is that of
the lowest child, `low` where this is the one (R279). -/
def mergeForming (at_ : Place) (slot seq : Nat) (low : Bool) (p : Partial) (l : LinkItem) : LinkItem :=
  match l.ev with
  | .partialArrival par (.call a) =>
    if a.slot = slot ∧ a.seq = seq ∧ l.link = at_.linkUp then
      let b : Partial := { a with count := a.count + p.count, vote := voteMerge a.vote p.vote,
                                  firstAt := min a.firstAt p.firstAt, lastAt := max a.lastAt p.lastAt,
                                  tag := if low then p.tag else a.tag, lastVt := if low then p.lastVt else a.lastVt }
      { l with ev := .partialArrival par (.call b) }
    else l
  | _ => l

/-- A count arrival at a non-root node: numbered, recorded, and forwarded 2 TCLK later; arrivals of one TCLK merge (R89, R90).
After a slot error the partial leaves as an empty one with POISON, its record kept (R213; log 32). -/
def countForward (at_ : Place) (slot c : Nat) (p0 : Partial) (s : State) : State :=
  let ns := node s at_ slot
  let p := if ns.poisonNext then { emptyPartial s slot votePoison with seq := p0.seq } else p0
  let now := s.clk.tclk
  if ns.cutAt = some now then
    let seq := (ns.seqOut + 2047) % 2048
    let recs := ns.recs.map fun r => if r.seq = seq then { r with kids := r.kids ++ [(c, p.seq)] } else r
    let low := ns.recs.all fun r => r.seq != seq || r.kids.all fun k => decide (c < k.1)
    let s1 := setNode at_ slot { ns with recs := recs } s
    { s1 with tree := { s1.tree with links := s1.tree.links.map (mergeForming at_ slot seq low p) } }
  else
    match at_.parent with
    | some (par, n) =>
      let q := { p with seq := ns.seqOut, child := n, gen := ns.epoch.setWidth 6 }
      let s1 := setNode at_ slot { ns with cutAt := some now, poisonNext := false, seqOut := (ns.seqOut + 1) % 2048,
                                           recs := ns.recs ++ [CountRec.mk ns.seqOut [(c, p.seq)] none none] } s
      offerUp at_ (prioSlot slot 2) (now + combineT s at_ slot) 1 (.partialArrival par (.call q)) s1
    | none => s

/-- The note a count root keeps of what it has counted: the last number of each child (R90). -/
def noteKid (c seq : Nat) (l : List (Nat × Nat)) : List (Nat × Nat) := (l.filter fun k => k.1 != c) ++ [(c, seq)]

/-- A count arrival at the root: the cut falls when the running count reaches COUNT_N; what arrives later belongs to the next
epoch (R89). At a stall root every counted stirrup is noted. POISON closes the epoch at once, for the calls it stands for can
count no more (R213; log 32). -/
def countRoot (at_ : Place) (slot c : Nat) (p : Partial) (s : State) : State :=
  let ns0 := node s at_ slot
  let now := s.clk.tclk
  let ns := match ns0.cutAt with
    | some t => if t < now then
        ({ ns0 with cutAt := none, kidSeq := [], cur := Hold.none,
                    recs := ns0.recs ++ [CountRec.mk 0 ns0.kidSeq (ns0.cur.acc.map fun (a : Partial) => if ns0.cur.poison then { a with vote := votePoison } else a) none] } : NodeSlot)
      else ns0
    | none => ns0
  let cur := ns.cur.add false now c p
  let n := match cur.acc with | some a => a.count | none => 0
  let ns1 := { ns with cur := cur, kidSeq := noteKid c p.seq ns.kidSeq }
  if ns.cutAt = none ∧ (slotCountN s slot ≤ n ∨ p.vote = votePoison) then
    afterT (combineT s at_ slot + decideT s at_) (.rootDecision at_ slot) (setNode at_ slot { ns1 with cutAt := some now } s)
  else setNode at_ slot ns1 s

def countArrive (at_ : Place) (slot c : Nat) (p : Partial) (s : State) : State :=
  if decides s at_ slot then countRoot at_ slot c p s else countForward at_ slot c p s

/-! ## Checks at the stall (R63, R64) -/

/-- The partition of a stirrup in the stall's roster shadow. -/
def shadowPart (s : State) (st : Nat) : Nat := wPart (stir s st).role

/-- Causes that the stall checks for a slot packet; 0 for none. `isCall` adds SLOT_MISMATCH. -/
def stallCauseSlot (s : State) (st slot : Nat) (isCall : Bool) (op : BitVec 5) (fmt : BitVec 4) : Nat :=
  if slotOwner s slot ≠ some (shadowPart s st) then 6
  else if !isMember s slot st then 7
  else if isCall && (op != slotOp s slot || fmt != slotFmt s slot || !bitB (slotCfg s slot) 31) then 8
  else 0

/-- A freeze that the stall detects: the stirrup is marked, the record made, and a freeze order leaves in the next TCLK
naming the TCLK in which the offending packet left (R64, Table STR-15). -/
def stallFreeze (st cause leftT : Nat) (w : W32) (s : State) : State :=
  let s1 := report 0x03 1 st (some (shadowPart s st)) [w.toNat, cause] (markFrozen st s)
  across .tclk .eclk 2 3 (.waiterRemoval st true)
    (offerDown (.stirrup st) (prioFreeze st) (s.clk.tclk + 1) (.freezeOrder st cause leftT w) s1)

/-! ## Merge windows (R158, R159) -/

def mergeSem (r : HomeReq) (n : Nat) : HomeReq := { r with pay := (BitVec.ofNat 64 n).setWidth 128 }

/-- The count a SIGNAL carries: PAY0, or the UINT64 sum of a merged one (R145). -/
def signalCount (r : HomeReq) : Nat := if r.merged then bitsN r.pay 63 0 else bitsN r.pay 31 0

/-- Where a home request goes from a place: to the parent, or from the half root over the home port (Table ARC-8). -/
def homeUp (at_ : Place) (r : HomeReq) (ready : Nat) (s : State) : State :=
  match at_ with
  | .half h => offer (homePortLink h) (prioHome ready r.src) ready 1 4 (.partialArrival .die (.home r)) s
  | .die => s
  | _ => match at_.parent with
    | some (par, _) => offerUp at_ (prioHome ready r.src) ready 1 (homeArrival par r) s
    | none => s

def findWindow (s : State) (at_ : Place) (sem : Nat) : Option MergeRec :=
  s.tree.merges.find? fun m => m.node == at_.node && m.sem == sem && !m.sent

def freeRecord (s : State) (at_ : Place) : Option Nat :=
  (List.range 8).find? fun i => s.tree.merges.all fun m => !(m.node == at_.node && m.idx == i)

/-- Sends what a window took in (R158): merged, or unmerged where it holds one SIGNAL alone, whose record is then free. -/
def closeWindow (at_ : Place) (m : MergeRec) (s : State) : State :=
  let others := s.tree.merges.filter fun x => !(x.node == m.node && x.idx == m.idx)
  let s0 := unschedule (fun e => e == .mergeWindowClose at_ m.idx) s
  if m.kids.length ≤ 1 then
    homeUp at_ m.first s0.clk.tclk { s0 with tree := { s0.tree with merges := others } }
  else
    let src := m.kids.foldl (fun a k => min a k.1) m.first.src
    let r := { mergeSem m.first m.sum with
      merged := true, mlevel := at_.lvl == 1, mrec := m.idx, src := src, rid := 0, nohold := true }
    homeUp at_ r s0.clk.tclk { s0 with tree := { s0.tree with merges := others ++ [{ m with sent := true }] } }

/-- A home request of another kind at a node: an open window for its semaphore closes first, and it leaves in the next TCLK (R158). -/
def homeThrough (at_ : Place) (r : HomeReq) (s : State) : State :=
  match (if r.tok then none else findWindow s at_ r.obj) with
  | some m => homeUp at_ r (s.clk.tclk + 1) (closeWindow at_ m s)
  | none => homeUp at_ r s.clk.tclk s

/-- A SIGNAL at a stall or barn (R158). -/
def combineSignal (at_ : Place) (r : HomeReq) (s : State) : State :=
  match at_ with
  | .half _ => homeUp at_ r s.clk.tclk s
  | .die => s
  | .stirrup _ => s
  | _ =>
    let kid := (r.src, r.rid, r.merged, r.mrec)
    match findWindow s at_ r.obj with
    | some m =>
      let m1 := { m with sum := m.sum + signalCount r, kids := m.kids ++ [kid] }
      { s with tree := { s.tree with merges := s.tree.merges.map fun x => if x.node == m.node && x.idx == m.idx then m1 else x } }
    | none =>
      match freeRecord s at_ with
      | some i =>
        let m : MergeRec := { node := at_.node, idx := i, sem := r.obj, sum := signalCount r, kids := [kid], first := r, sent := false }
        afterT 4 (.mergeWindowClose at_ i) { s with tree := { s.tree with merges := s.tree.merges ++ [m] } }
      | none => homeUp at_ r s.clk.tclk s

/-- Whether a stall lets a home request of a tile pass (NOT_OWNER; both pools for ACQUIRE_PRI), R48, R63. -/
def ownsObj (s : State) (st : Nat) (r : HomeReq) : Bool :=
  let p := some (shadowPart s st)
  objOwner s r.tok r.obj == p && (!(r.tok && r.op == 0x13#5) || objOwner s true (r.obj + 1) == p)

/-- The PART the stall inserts (R145). -/
def withPart (s : State) (st : Nat) (r : HomeReq) : HomeReq := { r with part := shadowPart s st }

/-! ## Abstentions and voids (R84 to R88) -/

/-- ABSTAIN of member `m` for `k` epochs (0: until REJOIN) at a node that holds it (R84). -/
def setAbstain (at_ : Place) (slot m k : Nat) (asleep : Bool) (s : State) : State :=
  let ns := node s at_ slot
  let a : Abst := { member := m, from_ := nextEpoch ns m, k := k, asleep := asleep }
  settle at_ slot (setNode at_ slot { ns with abst := (ns.abst.filter fun x => x.member != m) ++ [a], lastEv := s.clk.tclk } s)

/-- REJOIN: the member is expected again from the earliest epoch not yet forwarded (R86). -/
def clearAbstain (at_ : Place) (slot m : Nat) (s : State) : State :=
  let ns := node s at_ slot
  settle at_ slot (setNode at_ slot { ns with abst := ns.abst.filter fun x => x.member != m } s)

/-- ABSTAIN and REJOIN on a count slot have no effect (R90). -/
def abstainAt (at_ : Place) (slot m k : Nat) (asleep : Bool) (s : State) : State :=
  if isCount s slot then s else setAbstain at_ slot m k asleep s

def rejoinAt (at_ : Place) (slot m : Nat) (s : State) : State := if isCount s slot then s else clearAbstain at_ slot m s

/-- A count slot's note of a caller whose call is void: the number stays, the caller does not. -/
def voidNote (st : Nat) (l : List (Nat × Nat)) : List (Nat × Nat) := l.map fun k => if k.1 = st then (nStirrup, k.2) else k

/-- A call voided by a thaw or a power-off (R67, R87): its contribution stays, and no cue of that epoch is delivered to it;
without one the member abstains from that epoch. -/
def voidCall (slot st : Nat) (s : State) : State :=
  let at_ := Place.stall (stallOf st)
  let ns := node s at_ slot
  let late := ns.late.filter fun p => p.child != st
  let again := ns.again.filter fun m => m != st
  if isCount s slot then
    setNode at_ slot { ns with kidSeq := voidNote st ns.kidSeq, recs := ns.recs.map fun r => { r with kids := voidNote st r.kids } }
      { s with tree := { s.tree with waves := s.tree.waves.map fun w => if w.cue.slot = slot then { w with cue := { w.cue with notes := voidNote st w.cue.notes } } else w } }
  else if ns.cur.kids.contains st then
    setNode at_ slot { ns with cur := { ns.cur with voided := ns.cur.voided ++ [st] }, late := late, again := again } s
  else if ns.nxt.kids.contains st then
    setNode at_ slot { ns with nxt := { ns.nxt with voided := ns.nxt.voided ++ [st] }, late := late } s
  else if isMember s slot st then
    setAbstain at_ slot st 1 false (setNode at_ slot { ns with late := late, again := again } s)
  else s

/-! ## The rows -/

/-- A boot call takes its place as a pending call on slot `p.slot` (R296). -/
def bootAtStall (k : Nat) (p : Partial) (c : PendCall) (s : State) : State :=
  let q := { p with op := slotOp s p.slot, fmt := slotFmt s p.slot }
  let s1 := updStir p.child (fun x => { x with call := some { c with slot := p.slot, boot := false } }) s
  if isCount s p.slot then countArrive (.stall k) p.slot p.child { q with data := 0, lastVt := traceName s p.child } s1
  else arriveCall k p.slot p.child q s1

/-- The boot call still pending at a stirrup. -/
def bootPending (s : State) (st : Nat) : Option PendCall :=
  match (stir s st).call with | some c => if c.boot then some c else none | none => none

/-- Whether the partition that owns a slot is being reset: its state is frozen against new changes (R214). -/
def inReset (s : State) (slot : Nat) : Bool := match slotOwner s slot with | some p => (part s p).state == .resetting | none => false

/-- A CALL at its stall, after the checks. -/
def callAtStall (k : Nat) (p : Partial) (s : State) : State :=
  if s.tree.frozen.contains p.child then s
  else if (bootPending s p.child).isSome then
    (match bootPending s p.child with | some c => bootAtStall k p c s | none => s)
  else
    let cause := stallCauseSlot s p.child p.slot true p.op p.fmt
    if cause ≠ 0 then stallFreeze p.child cause p.leftT p.word s
    else if inReset s p.slot then s
    else if isCount s p.slot then countArrive (.stall k) p.slot p.child { p with data := 0, lastVt := traceName s p.child } s
    else arriveCall k p.slot p.child p s

/-- Ends the in-flight period of a CTRL command, which runs until it reaches the stall (R52). -/
def ctrlLanded (c : CtrlPkt) (s : State) : State :=
  wake c.src (updStir c.src (fun x => { x with exactFly := x.exactFly.filter fun f => f.tally || f.leftT != c.leftT }) s)

/-- A posted refusal of a tile command (R54, R244, R246): POSTERR, the counter, and the detailed cause in the log. -/
def postedRefusal (st : Nat) (w : W32) (s : State) : State :=
  let p := shadowPart s st
  report 0x0F 1 st (some p) [0, w.toNat, 1] (count p 4 1 (updStir st postErr s))

/-- A CTRL packet at its stall: checked, then carried out (R64, R84, R86, R246, R279, R288). -/
def ctrlAtStall (k : Nat) (c : CtrlPkt) (s0 : State) : State :=
  if s0.tree.frozen.contains c.src then s0
  else
    let s := ctrlLanded c s0
    let slot := cId c.word
    let op := (cOp c.word).toNat
    if op ≤ 1 then
      let cause := stallCauseSlot s c.src slot false 0 0
      if cause ≠ 0 then stallFreeze c.src cause c.leftT c.word s
      else if inReset s slot then s
      else if op = 0 then abstainAt (.stall k) slot c.src (bitsN c.pay0 15 0) false s
      else rejoinAt (.stall k) slot c.src s
    else if op = 2 then
      if bitB (reg s (partKey (shadowPart s c.src) 0)) 23 then
        let p := shadowPart s c.src
        let was := (part s p).causes
        let s1 := setCause p .tile s
        schedule .tclk (max s.clk.tclk (c.leftT + 20)) (.curtainRaise p .tile true)
          (if was = 0 then sendCurtain p 0 (causeOf .tile + 1) s1 else s1)
      else postedRefusal c.src c.word s
    else traceMarkRec (shadowPart s c.src) (traceName s c.src) slot c.pay0 0 s

/-- A tally request on its way: checked at the stall, then up to the tally unit beside the die root (R178, R179). -/
def tallyThrough (at_ : Place) (r : TallyReq) (s : State) : State :=
  match at_ with
  | .die =>
    let s1 := { s with tly := { s.tly with due := s.tly.due ++ [{ due := s.clk.tclk + scaled s 2, act := .cmd r }] } }
    if s1.agenda.any (fun t => t.clk == .tclk && t.due == s.clk.tclk + scaled s 2 && t.ev == .tallyReqArrival) then s1
    else afterT (scaled s 2) .tallyReqArrival s1
  | _ => match at_.parent with
    | some (par, _) => offerUp at_ (prioTally r.tally r.src) s.clk.tclk 1 (.partialArrival par (.tally r)) s
    | none => s

/-- The home port of a request: 0 and 1 for the halves, 2 for the central region's own senders. -/
def homePort (src : Nat) : Nat := if src < nStirrup then src / 864 else 2

/-- Requests crossing into ECLK; those of one port keep their order (R140, Table ARC-4). -/
def homeCross (r : HomeReq) (s : State) : State :=
  let (d0, s1) := crossDue s .tclk .eclk 2 3
  let d := s1.home.crossing.foldl (fun a c => if homePort c.req.src = homePort r.src then max a c.due else a) d0
  schedule .eclk d .homeReqEntry { s1 with home := { s1.home with crossing := s1.home.crossing ++ [{ due := d, req := r, entry := none }] } }

/-! ## The host member at the die root (R94, R262) -/

/-- A HOST_CALL reaches the die root: as a CALL at its stall, it belongs to the member's next epoch and ends any abstention. -/
def hostArrive (p : Partial) (s : State) : State :=
  let ns0 := node s .die p.slot
  let s1 := setNode .die p.slot { ns0 with abst := ns0.abst.filter fun a => a.member != hostChild } s
  if isCount s p.slot then countArrive .die p.slot hostChild p s1
  else arriveGen .die p.slot hostChild { p with gen := (nextEpoch (node s1 .die p.slot) hostChild).setWidth 6 } s1

/-- HOST_CALL's ABSTAIN and REJOIN reach the die root: they act there, and their descriptor completes OK. -/
def hostCtrl (c : CtrlPkt) (s : State) : State :=
  let slot := cId c.word
  let act := (cOp c.word).toNat + 1
  let s1 := if act = 1 then abstainAt .die slot hostChild (bitsN c.pay0 15 0) false s else rejoinAt .die slot hostChild s
  match s1.hq.descs.find? fun d => d.started && d.refusal == 0 && descOp d.x == 1 && descBits d.x 1 11 10 == act && d.ids == [slot] with
  | some d => complete d.x (Done.plain stOk) false s1
  | none => s1

/-- An upward packet arrives at a node (R64, R77, R81, R145, R158, R178); a node out of service takes none (R229). -/
def upArrive (at_ : Place) (pkt : UpPkt) (s : State) : State :=
  if outOfService s at_ then s
  else match at_, pkt with
  | .stall k, .call p => callAtStall k p s
  | .stirrup _, _ => s
  | .die, .ctrl c => hostCtrl c s
  | at_, .call p =>
    if at_ == .die && p.child == hostChild then hostArrive p s else if isCount s p.slot then countArrive at_ p.slot p.child p s else arriveGen at_ p.slot p.child p s
  | .stall k, .home r =>
    if s.tree.frozen.contains r.src then s
    else if !ownsObj s r.src r then stallFreeze r.src 6 r.leftT r.word s
    else homeThrough (.stall k) (withPart s r.src r) s
  | .die, .home r => homeCross r s
  | at_, .home r => homeThrough at_ r s
  | .stall k, .tally r =>
    if s.tree.frozen.contains r.src then s
    else if tallyGrant s r.tally ≠ some (shadowPart s r.src) then stallFreeze r.src 6 r.leftT r.word s
    else tallyThrough (.stall k) { r with part := shadowPart s r.src } s
  | at_, .tally r => tallyThrough at_ r s
  | .stall k, .ctrl c => ctrlAtStall k c s
  | _, .ctrl _ => s

def upPktOk : UpPkt → Bool
  | .call p => p.slot < 512
  | .home r => r.obj < 8192 && r.part < 64
  | .tally r => r.tally < 1024 && r.part < 64
  | .ctrl c => c.src < nStirrup || c.src == 0x7FF

def execPartialArrival (at_ : Place) (pkt : UpPkt) (s : State) : Host.Outcome State Fault Refusal :=
  answer (at_.ok && upPktOk pkt) (upArrive at_ pkt s)

/-- A SIGNAL at a stall (checked there) or a barn (R158, R159). -/
def execSignalCombining (at_ : Place) (r : HomeReq) (s : State) : Host.Outcome State Fault Refusal :=
  answer (at_.ok && r.obj < 8192) <|
    if outOfService s at_ then s else
    match at_ with
    | .stall _ =>
      if s.tree.frozen.contains r.src then s
      else if !ownsObj s r.src r then stallFreeze r.src 6 r.leftT r.word s
      else combineSignal at_ (withPart s r.src r) s
    | _ => combineSignal at_ r s

def execMergeWindowClose (at_ : Place) (rec : Nat) (s : State) : Host.Outcome State Fault Refusal :=
  answer at_.ok <|
    match s.tree.merges.find? (fun m => m.node == at_.node && m.idx == rec && !m.sent) with
    | some m => closeWindow at_ m s
    | none => s

/-- A freeze order at the stirrup: FROZEN, its own queues discarded, and every home or tally request it sent from the named
TCLK on dropped from its counts (R64, R65). -/
def freezeArrive (st cause fromT : Nat) (s : State) : State :=
  updStir st (fun x => { frozenBy cause x with
    homeFly := x.homeFly.filter fun f => f.req.leftT < fromT,
    exactFly := x.exactFly.filter fun f => f.leftT < fromT }) s

def execFreezeOrder (st cause fromT : Nat) (_w : W32) (s : State) : Host.Outcome State Fault Refusal :=
  answer (decide (st < nStirrup)) (freezeArrive st cause fromT s)

/-- The epoch a GEN names at a node: the open one or the next (R81). -/
def genEpoch (ns : NodeSlot) (g : BitVec 6) : Option W32 :=
  if g = ns.epoch.setWidth 6 then some ns.epoch
  else if g = (ns.epoch + 1).setWidth 6 then some (ns.epoch + 1)
  else none

/-- Whether a node has forwarded an epoch without that child: a partial or an IDLE of it is discarded (R81, R337). -/
def leftOut (ns : NodeSlot) (c : Nat) (e : W32) : Bool :=
  if e = ns.epoch then ns.sent && !ns.cur.kids.contains c else ns.sentN && !ns.nxt.kids.contains c

/-- IDLE from a child (R79). -/
def idleArrive (at_ : Place) (slot c : Nat) (g : BitVec 6) (s : State) : State :=
  let ns := node s at_ slot
  if outOfService s at_ then s else
  match (genEpoch ns g).filter (fun e => !leftOut ns c e) with
  | some e => settle at_ slot (setNode at_ slot { ns with idle := (ns.idle.filter fun i => i.1 != c) ++ [(c, e)], lastEv := s.clk.tclk } s)
  | none => staleAt ((slotOwner s slot).getD 0) at_ 6 slot s

def execIdle (at_ : Place) (slot child : Nat) (gen : BitVec 6) (s : State) : Host.Outcome State Fault Refusal :=
  answer (at_.ok && slot < 512) (idleArrive at_ slot child gen s)

/-- The child of a node by its number. -/
def childPlace (at_ : Place) (c : Nat) : Option Place :=
  match at_ with
  | .stall _ => some (.stirrup c)
  | .barn _ => some (.stall c)
  | .half _ => some (.barn c)
  | .die => if c < 2 then some (.half c) else none
  | .stirrup _ => none

/-- Sends an ACTIVE acknowledgement down to a child (R337). -/
def sendAck (at_ : Place) (slot c : Nat) (e : W32) (s : State) : State :=
  match childPlace at_ c with
  | some to_ => offerDown to_ (prioSlot slot 0) s.clk.tclk (.activeAcknowledgement to_ slot e) s
  | none => s

/-- ACTIVE from a child: expected again from the earliest epoch not yet forwarded; answered at once, or after the parent's own
acknowledgement where the ACTIVE travels on (R79, R337). No acknowledgement crosses a tug or rein, whose packets Table FAB-6
lists (log 27): a die root's own ACTIVE over its span is not waited for. -/
def activeArrive (at_ : Place) (slot c : Nat) (s : State) : State :=
  let ns := node s at_ slot
  let ns1 := { ns with idle := ns.idle.filter fun i => i.1 != c }
  if ns.idleSent && at_.parent.isNone then
    sendAck at_ slot c (firstUnsent ns1) (sendActive at_ slot ns.epoch (setNode at_ slot { ns1 with idleSent := false } s))
  else if ns.idleSent || ns.ackWait then
    let s1 := setNode at_ slot { ns1 with ackKids := ns1.ackKids ++ [c], idleSent := false, ackWait := true } s
    if ns.idleSent then sendActive at_ slot ns.epoch s1 else s1
  else sendAck at_ slot c (firstUnsent ns1) (setNode at_ slot ns1 s)

def execActive (at_ : Place) (slot child : Nat) (gen : BitVec 6) (s : State) : Host.Outcome State Fault Refusal :=
  answer (at_.ok && slot < 512) <|
    if outOfService s at_ then s
    else if (genEpoch (node s at_ slot) gen).isSome then activeArrive at_ slot child s
    else staleAt ((slotOwner s slot).getD 0) at_ 6 slot s

/-- Moves what is held for earlier epochs to the acknowledged one (R337). -/
def joinHold (q : Bool) (now : Nat) (a b : Hold) : Hold :=
  { kids := a.kids ++ b.kids, voided := a.voided ++ b.voided, poison := a.poison || b.poison, votes := a.votes ++ b.votes,
    acc := match a.acc, b.acc with
      | some x, some y => some (joinPartial q now x y)
      | some x, none => some x
      | none, y => y }

/-- The acknowledgement arrives (R337): held calls take the named epoch, waiting children are acknowledged with the later of
the two epochs, and the held partial may leave. -/
def ackArrive (at_ : Place) (slot : Nat) (e : W32) (s : State) : State :=
  let ns := node s at_ slot
  let q := isQuiesce s slot
  let ns1 :=
    if notBefore e ns.epoch then { ns with ackWait := false, ackKids := [], lastEv := s.clk.tclk }
    else if e = ns.epoch + 1 then
      { ns with ackWait := false, ackKids := [], lastEv := s.clk.tclk, cur := .none, sent := true,
                nxt := joinHold q s.clk.tclk ns.cur ns.nxt }
    else
      { ns with ackWait := false, ackKids := [], lastEv := s.clk.tclk, epoch := e, sent := false, sentN := false,
                cur := joinHold q s.clk.tclk ns.cur ns.nxt, nxt := .none }
  let own := firstUnsent ns1
  let tell := if notBefore own e then e else own
  settle at_ slot (ns.ackKids.foldl (fun a c => sendAck at_ slot c tell a) (setNode at_ slot ns1 s))

def execActiveAcknowledgement (at_ : Place) (slot : Nat) (e : W32) (s : State) : Host.Outcome State Fault Refusal :=
  answer (at_.ok && slot < 512) (if outOfService s at_ then s else ackArrive at_ slot e s)

/-- The children of a node that lie on the way to the listed stalls. -/
def routeKids (at_ : Place) (stalls : List Nat) : List Place :=
  match at_ with
  | .die => ((List.range 2).filter fun h => stalls.any fun k => halfOf (barnOf k) == h).map .half
  | .half h => ((halfBarns h).filter fun b => stalls.any fun k => barnOf k == b).map .barn
  | .barn b => ((barnStalls b).filter fun k => stalls.contains k).map .stall
  | _ => []

/-- REARM at a node or a stirrup (R91, R92), with the epoch in GEN: a node opens a new round of that epoch and passes it on; a stirrup with the
pending call issues the round, with the payload most recently committed and the TAG as it stands (R45), and a member whose call is
void takes no further part in the epoch (R87). -/
def rearmArrive (at_ : Place) (slot : Nat) (gen : BitVec 6) (stalls : List Nat) (s : State) : State :=
  match at_ with
  | .stirrup st =>
    let x := stir s st
    match x.call with
    | some c =>
      if c.slot = slot ∧ !c.boot ∧ !x.frozen then
        offerUp at_ (prioSlot slot 2) s.clk.tclk 1
          (.partialArrival (.stall (stallOf st))
            (.call (callPacket st { c.cmd with tag := x.tag, at_ := s.clk.tclk } c.commit s.clk.tclk))) s
      else s
    | none => s
  | _ =>
    let ns := node s at_ slot
    if outOfService s at_ || gen != ns.epoch.setWidth 6 then s else
    let due := ns.cur.kids.filter fun c => !ns.cur.voided.contains c
    let again := match at_ with | .stall _ => due | _ => []
    let s1 := setNode at_ slot { ns with cur := .none, sent := false, passT := s.clk.tclk, lastEv := s.clk.tclk, again := again } s
    let s2 := match at_ with
      | .stall _ => due.foldl (fun a c => offerDown (.stirrup c) (prioSlot slot 1) a.clk.tclk (.rearm (.stirrup c) slot gen stalls) a)
          (ns.cur.voided.foldl (fun a c => setAbstain at_ slot c 1 false a) s1)
      | _ => (routeKids at_ stalls).foldl (fun a c => offerDown c (prioSlot slot 1) a.clk.tclk (.rearm c slot gen stalls) a) s1
    settle at_ slot s2

def execRearm (at_ : Place) (slot : Nat) (gen : BitVec 6) (stalls : List Nat) (s : State) : Host.Outcome State Fault Refusal :=
  answer (at_.ok && slot < 512) (rearmArrive at_ slot gen stalls s)

/-! ## ABSTAIN, REJOIN, CTRL CURTAIN and MARK: written by a tile, or carried out at the stall (log 7) -/

def execCtrl (op : Nat) (x : CtrlSite) (s : State) : Host.Outcome State Fault Refusal :=
  match x with
  | .tile st w => tileCmd 4 op st w s
  | .unit c =>
    if !wordIs 4 op c.word then .fault .notThisCommand
    else answer (decide (c.src < nStirrup)) (ctrlAtStall (stallOf c.src) c s)

def execAbstain (x : CtrlSite) (s : State) : Host.Outcome State Fault Refusal := execCtrl 0 x s
def execRejoin (x : CtrlSite) (s : State) : Host.Outcome State Fault Refusal := execCtrl 1 x s
def execCtrlCurtain (x : CtrlSite) (s : State) : Host.Outcome State Fault Refusal := execCtrl 2 x s
def execMark (x : CtrlSite) (s : State) : Host.Outcome State Fault Refusal := execCtrl 3 x s

end Sys2Proof.Machine
end

