-- ==== Sys2Proof/Machine/HomeBase.lean ====
section
/-! DEFINITION. The home's shared operations (06_home_objects.md): objects and their FIFOs, waiter entries, the step journal,
responses, host requests, the start of wake passes. -/

namespace Sys2Proof.Machine

/-! ## Codes of SRC (Table HOM-1, R140, R279) -/

def srcHost : Nat := 0x7FF
def srcSetup : Nat := 0x7FE
def srcWatch : Nat := 0x7FD

def pipeOf (i : Nat) : Nat := i % 4

/-! ## Journals (R160, R161) -/

def noJournal : Journal := { opened := false, closed := false, entries := [] }
def journal (s : State) (p : Nat) : Journal := Tbl.get noJournal s.journals p
def setJournal (p : Nat) (j : Journal) (s : State) : State := { s with journals := Tbl.set noJournal p j s.journals }

/-- Whether `p` owns a verdict slot (R160). -/
def ownsVerdict (s : State) (p : Nat) : Bool :=
  (List.range 512).any fun i => slotVerdict s i && slotOwner s i == some p

/-- Whether events of `p` are journalled now. -/
def journalOpen (s : State) (p : Nat) : Bool := (journal s p).opened && !(journal s p).closed && ownsVerdict s p

def jtVALUE : Nat := 1
def jtCOUNT : Nat := 2
def jtPUSH : Nat := 3
def jtPOP : Nat := 4
def jtENQUEUE : Nat := 5
def jtWAKE : Nat := 6
def jtEXPIRE : Nat := 7

def waiterNone : Waiter :=
  { req := { tok := false, obj := 0, op := 0, nohold := false, rid := 0, src := 0, merged := false, mlevel := false, mrec := 0,
             poll := false, part := 0, pay := 0, leftT := 0, ring := 0, didx := 0, sub := 0, word := 0 },
    count := 0, deadline := none, lag := 0, links := [], shadow := false, kept := false, since := 0 }

def waiter (s : State) (e : Nat) : Waiter := Tbl.get waiterNone s.waiters e
def setWaiter (e : Nat) (w : Waiter) (s : State) : State := { s with waiters := Tbl.insert e w s.waiters }
def freeWaiter (e : Nat) (s : State) : State := { s with waiters := Tbl.erase e s.waiters }

/-- Frees the entries that `p`'s journal keeps (R161). -/
def freeKept (p : Nat) (s : State) : State :=
  { s with waiters := s.waiters.filter fun w => !(w.2.kept && w.2.req.part == p && w.2.links.all fun l =>
      !(obj s l.1 l.2.1).fifo.any fun f => f.1 == w.1) }

/-- Frees the entries that `p`'s journal keeps and none of its entries can restore, as it is reversed (R161). -/
def freeUnnamed (p : Nat) (s : State) : State :=
  { s with waiters := s.waiters.filter fun w => !(w.2.kept && w.2.req.part == p &&
      (journal s p).entries.all fun j => decide (j.type < jtENQUEUE) || j.entry != w.1) }

def journalTotal (s : State) : Nat := s.journals.foldl (fun a j => a + j.2.entries.length) 0

/-- JOURNAL_QUOTA. -/
def journalQuota (s : State) (p : Nat) : Nat := fld s (partKey p 0x14) 12 0
def waiterQuota (s : State) (p : Nat) : Nat := fld s (partKey p 0x14) 30 16

/-- The journal closes for the step (R161). -/
def closeJournal (p : Nat) (s : State) : State :=
  let j := journal s p
  event p 0x08 0 0 (report 0x0E 15 p (some p) [j.entries.length, journalQuota s p]
    (count p 10 1 (freeKept p (setJournal p { j with closed := true, entries := [] } s))))

/-- Writes the entries of one home event, or overflows the journal (R160, R161). -/
def journalAdd (p : Nat) (l : List JEntry) (s : State) : State :=
  if !journalOpen s p || l.isEmpty then s
  else
    let j := journal s p
    if j.entries.length + l.length ≤ journalQuota s p ∧ journalTotal s + l.length ≤ 4096 then
      setJournal p { j with entries := j.entries ++ l } s
    else closeJournal p s

/-- Empties the journal and opens it for the next step (commit, abort or replay). -/
def journalReopen (p : Nat) (s : State) : State :=
  freeKept p (setJournal p { opened := true, closed := false, entries := [] } s)

/-- Discards the journal (R163, R214, R289). -/
def journalDrop (p : Nat) (s : State) : State := freeKept p (setJournal p noJournal s)

/-! ## Objects -/

def objCfg (s : State) (tok : Bool) (i : Nat) : W32 := reg s (objCfgKey tok i)
def noJournalBit (s : State) (tok : Bool) (i : Nat) : Bool := bitB (objCfg s tok i) 31
def tagged (s : State) (i : Nat) : Bool := bitB (objCfg s true i) 29
def tagCap (s : State) (i : Nat) : Nat := bitsN (objCfg s true i) 15 0

def journalObj (p : Nat) (tok : Bool) (i : Nat) (l : List JEntry) (s : State) : State :=
  if noJournalBit s tok i then s else journalAdd p l s

/-- A VALUE or COUNT entry with the value before. -/
def valueEntry (p : Nat) (tok : Bool) (i : Nat) (v : W32) : JEntry :=
  { type := if tok then jtCOUNT else jtVALUE, tok := tok, obj := i, part := p, who := 0, entry := 0, seq := 0, data := v }

def tagEntry (p type i : Nat) (tag : W32) : JEntry :=
  { type := type, tok := true, obj := i, part := p, who := 0, entry := 0, seq := 0, data := tag }

def waitEntry (p type : Nat) (tok : Bool) (i e : Nat) (sq : W32) (w : Waiter) : JEntry :=
  { type := type, tok := tok, obj := i, part := p, who := w.req.src, entry := e, seq := sq, data := w.count }

/-- Writes V or C, journalling the value before where it changes (Table HOM-8). Set-up accesses journal nothing. -/
def putVal (r : HomeReq) (v : W32) (s : State) : State :=
  let o := obj s r.tok r.obj
  if v = o.val then s
  else
    let s1 := if r.src = srcSetup then s else journalObj r.part r.tok r.obj [valueEntry r.part r.tok r.obj o.val] s
    setObj r.tok r.obj { o with val := v } s1

/-! ## Host requests in flight (R141, R261) -/

def flyOf (s : State) (p : Nat) : Nat := Tbl.get 0 s.hq.fly p

def setFly (p n : Nat) (s : State) : State := { s with hq := { s.hq with fly := Tbl.set 0 p n s.hq.fly } }

def findDesc (s : State) (p ring : Nat) (idx : W32) : Option DescState :=
  s.hq.descs.find? fun d => d.x.part == p && d.x.ring == ring && d.x.idx == idx

def updDesc (d : DescState) (s : State) : State :=
  { s with hq := { s.hq with descs := s.hq.descs.map fun e => if sameDesc e.x d.x then d else e } }

/-- COUNT of a SEM_OP or TOKEN_OP descriptor. -/
def opCount (x : Desc) : Nat := descBits x 1 29 24 + 1

/-- Marks the null operation as which a refused host request executes (R143, R244). -/
def nullWord : W32 := 0xFFFF_FFFF
def isNull (r : HomeReq) : Bool := r.src == srcHost && r.word == nullWord

/-- The request of the k-th id of a home descriptor; WAIT_TO's deadline stands in its payload since decode (R261). -/
def hostReq (s : State) (d : DescState) (k : Nat) : Option HomeReq :=
  let x := d.x
  d.ids[k]?.map fun i =>
    { tok := descOp x == 3, obj := i, 
      op := if d.refusal = 0 then BitVec.ofNat 5 (descBits x 1 20 16) else if descOp x = 3 then 0x16 else 0x04, nohold := false, rid := 0, src := srcHost,
      merged := false, mlevel := false, mrec := 0, poll := false, part := x.part, pay := (descWord x 3) ++ (descWord x 2),
      leftT := s.clk.tclk, ring := x.ring, didx := x.idx, sub := k, word := if d.refusal = 0 then 0 else nullWord }

/-- Puts a request of the central region into the home's entry (R139, R140). -/
def homeDirect (r : HomeReq) (entry : Option Nat) (delay : Nat) (s : State) : State :=
  let d := s.clk.eclk + delay
  schedule .eclk d .homeReqEntry { s with home := { s.home with crossing := s.home.crossing ++ [{ due := d, req := r, entry := entry }] } }

/-- Whether a descriptor runs by requests at the home: SEM_OP, TOKEN_OP, and a refused one that waits at a unit (R244). -/
def atHome (d : DescState) : Bool :=
  descOp d.x == 2 || descOp d.x == 3 || (d.refusal != 0 && (descOp d.x == 1 || (4 ≤ descOp d.x && descOp d.x < 8)))

/-- Whether an earlier descriptor of the ring still waits to hand over a request (R265). -/
def ringBlocked (s : State) (x : Desc) : Bool :=
  s.hq.descs.any fun d => d.x.part == x.part && d.x.ring == x.ring && d.started && !d.parked
    && decide ((d.x.idx - x.idx).toNat ≥ 2 ^ 31) && atHome d && decide (d.next < d.ids.length)

/-- Hands a descriptor's next requests to the home, as far as 16 in flight allow (R141, R261). -/
def hostPump (x : Desc) : Nat → State → State
  | 0, s => s
  | n + 1, s =>
    match findDesc s x.part x.ring x.idx with
    | some d =>
      if d.next < d.ids.length ∧ flyOf s x.part < 16 ∧ !ringBlocked s x then
        match hostReq s d d.next with
        | some r => hostPump x n (homeDirect r none 1 (setFly x.part (flyOf s x.part + 1) (updDesc { d with next := d.next + 1 } s)))
        | none => s
      else s
    | none => s

def hostPumpAll (p : Nat) (s : State) : State :=
  (s.hq.descs.filter fun d => d.x.part == p && d.started && !d.parked && atHome d).foldl (fun a d => hostPump d.x 16 a) s

/-- A host request has completed (R261): the last one completes the descriptor, with a zero result and the worst status where
COUNT is above 1. -/
def hostDone (r : HomeReq) (status : BitVec 5) (pay : W128) (s : State) : State :=
  let s1 := setFly r.part (flyOf s r.part - 1) s
  match findDesc s1 r.part r.ring r.didx with
  | none => hostPumpAll r.part s1
  | some d =>
    let worst := statusWorse d.worst status
    let s2 :=
      if d.left ≤ 1 then
        complete d.x { Done.plain worst with result := if d.refusal = 0 ∧ opCount d.x = 1 then pay else 0 } false s1
      else updDesc { d with left := d.left - 1, worst := worst } s1
    hostPumpAll r.part s2

/-! ## Responses (R145, R146) -/

/-- A response or completion leaves the home. -/
def respond (r : HomeReq) (status : BitVec 5) (pay : W128) (poll : Bool) (s : State) : State :=
  if r.src = srcSetup then
    let o := obj s r.tok r.obj
    across .eclk .mclk 1 3 (.objBusyClear o.val (objCfg s r.tok r.obj) o.fifo.length) s
  else if r.src = srcWatch then s
  else if r.src = srcHost then
    (if poll then afterE 64 (.pollResend { r with poll := true }) s else hostDone r status pay s)
  else
    across .eclk .tclk 1 3
      (.homeRsp .die { tok := r.tok, obj := r.obj, op := r.op, status := status, rid := r.rid, dest := r.src, merged := r.merged,
                       mlevel := r.mlevel, mrec := r.mrec, poll := poll, role := wStamp (stir s r.src).role, pay := pay }) s

/-- An executed operation is counted in HOME_OPS (R164); set-up accesses are not. -/
def countOp (r : HomeReq) (s : State) : State := if r.src = srcSetup then s else count r.part 5 1 s

/-- An operation done: counted, and answered. -/
def done (r : HomeReq) (status : BitVec 5) (pay : W128) (s : State) : State := respond r status pay false (countOp r s)

/-- A refusal of the home by `cause` (R143, R162; log 122). -/
def refuse (r : HomeReq) (cause : Nat) (s : State) : State :=
  respond r stRefused 0 false (report 0x0F 7 (pipeOf r.obj) (some r.part) [1, r.op.toNat, cause] (count r.part 4 1 s))

/-- Causes of the home's own refusals: a pool of the other kind, a full tag queue (R162). -/
def causeKind : Nat := 8
def causeFull : Nat := 10

/-- A host request refused at decode executes as a null operation: it completes REFUSED with the record of R244. -/
def refuseNull (r : HomeReq) (s : State) : State :=
  let (op, cause) := match findDesc s r.part r.ring r.didx with | some d => (descOp d.x, d.refusal) | none => (if r.tok then 3 else 2, 1)
  respond r stRefused 0 false (report 0x0F 17 r.ring (some r.part) [2, op, cause] (count r.part 4 1 s))

/-! ## House time in the ECLK domain (R151) -/

/-- How many TCLK edges before the latest one the edge may lie whose house time this ECLK edge carries: it lies no more than
2 TCLK + 3 ECLK before the ECLK edge, which itself comes up to a TCLK after the latest TCLK edge (R151). -/
def edgesBack (s : State) : Nat :=
  let age := s.clk.eclkAcc - period s .eclk
  (2 * period s .tclk + 3 * period s .eclk - age) / period s .tclk

/-- Which edge that is, counted back from the latest: free (log 22). -/
def eclkLag (s : State) : Nat × State := takeFree (edgesBack s + 1) s

/-- House time in whole ticks `j` TCLK edges before the latest one. -/
def houseBack (s : State) (j : Nat) : Nat := (houseFine s - j * 128 * 128 / nOf s) / 128

/-- Whether a deadline has passed for an ECLK edge that carries the house time of `lag` edges before, as far back as it may. -/
def passed (s : State) (deadline : W64) (lag : Nat) : Bool := decide (deadline.toNat ≤ houseBack s (min lag (edgesBack s)))

/-! ## FIFOs -/

def seqBefore (a b : W32) : Bool := (b - a).toNat < 2 ^ 31 && a != b

/-- Inserts at the position of its sequence number (R219). -/
def fifoInsert (e : Nat) (sq : W32) : List (Nat × W32) → List (Nat × W32)
  | [] => [(e, sq)]
  | (f, t) :: l => if seqBefore sq t then (e, sq) :: (f, t) :: l else (f, t) :: fifoInsert e sq l

def unlinkFrom (tok : Bool) (i e : Nat) (s : State) : State :=
  let o := obj s tok i
  if o.fifo.any (fun f => f.1 == e) then setObj tok i { o with fifo := o.fifo.filter fun f => f.1 != e } s else s

def unlinkAll (e : Nat) (s : State) : State := (waiter s e).links.foldl (fun a l => unlinkFrom l.1 l.2.1 e a) s

def isHead (s : State) (tok : Bool) (i e : Nat) : Bool := match (obj s tok i).fifo with | f :: _ => f.1 == e | [] => false

def freeEntry (s : State) : Option Nat := (List.range 16384).find? fun e => !Tbl.has s.waiters e

def waitersOf (s : State) (p : Nat) : Nat := (s.waiters.filter fun w => w.2.req.part == p).length

/-- Links entry `e` at the tail of an object's FIFO under the object's next sequence number (R155), journalled (Table HOM-8). -/
def linkTail (tok : Bool) (i e : Nat) (s : State) : State :=
  let o := obj s tok i
  let w := waiter s e
  let s1 := setObj tok i { o with fifo := o.fifo ++ [(e, o.seq)], seq := o.seq + 1 } (setWaiter e { w with links := w.links ++ [(tok, i, o.seq)] } s)
  journalObj w.req.part tok i [waitEntry w.req.part jtENQUEUE tok i e o.seq w] s1

/-- Queues a request as a waiter, or answers POLL where no entry is left (R155, R156). The result names the entry made. -/
def enqueue (r : HomeReq) (n : W32) (deadline : Option W64) (lag : Nat) (s : State) : State × Option Nat :=
  match (if waitersOf s r.part < waiterQuota s r.part then freeEntry s else none) with
  | none => (respond r stOk 0 true (count r.part 8 1 s), none)
  | some e =>
    let w : Waiter := { req := r, count := n, deadline := deadline, lag := lag, links := [], shadow := false, kept := false, since := s.clk.eclk }
    let s1 := linkTail r.tok r.obj e (setWaiter e w (count r.part 6 1 (countOp r s)))
    match deadline with
    | some d =>
      let (f, s2) := takeFree 256 s1
      (schedule .house (d.toNat + 4 * f) (.waiterExpiry e) s2, some e)
    | none => (s1, some e)

/-- Ends an entry's waiting: out of its FIFOs, its waiting time counted, and freed or kept for the journal (R161, R164). -/
def leaveFifos (e : Nat) (s : State) : State :=
  let w := waiter s e
  let p := w.req.part
  let s1 := count p 7 (s.clk.eclk - w.since) (unlinkAll e s)
  if journalOpen s p then setWaiter e { w with kept := true } s1 else freeWaiter e s1

/-! ## Wake passes (R149) -/

def hasPass (s : State) (tok : Bool) (i : Nat) : Bool := s.home.passes.any fun q => q.tok == tok && q.obj == i

/-- An object counts as having a pass running, from the pick on (`picked`) or from the pass's start. -/
def markPass (tok : Bool) (i src : Nat) (picked : Bool) (s : State) : State :=
  if hasPass s tok i then
    { s with home := { s.home with passes := s.home.passes.map fun q =>
        if q.tok == tok && q.obj == i then { q with picked := q.picked && picked } else q } }
  else { s with home := { s.home with passes := s.home.passes ++ [{ tok := tok, obj := i, src := src, picked := picked }] } }

def endPass (tok : Bool) (i : Nat) (s : State) : State :=
  { s with home := { s.home with passes := s.home.passes.filter fun q => !(q.tok == tok && q.obj == i) } }

/-- Asks for the pass's next ECLK. -/
def passNext (tok : Bool) (i : Nat) (s : State) : State :=
  if s.agenda.any (fun t => t.ev == .wakePass tok i) then s else afterE 1 (.wakePass tok i) s

def startPass (tok : Bool) (i src : Nat) (s : State) : State := passNext tok i (markPass tok i src false s)

/-- Whether an undo of `p` runs (R219). -/
def undoRuns (s : State) (p : Nat) : Bool := s.home.undoing.any fun u => u.1 == p

/-- Whether an undo of `p` runs in the pipeline of object `i`: it holds that pipeline's passes, expiries and set-up accesses (R219). -/
def undoHolds (s : State) (p i : Nat) : Bool := s.home.undoing.contains (p, pipeOf i)

/-- The owner of a pass's or waiter's object. -/
def passOwner (s : State) (tok : Bool) (i : Nat) : Nat := (objOwner s tok i).getD 0

/-- Resumes the passes and expiries that a curtain or an undo of `p` held back (R163, R219). -/
def homeResume (p : Nat) (s : State) : State :=
  let s1 := (s.home.passes.filter fun q => passOwner s q.tok q.obj == p).foldl (fun a q => passNext q.tok q.obj a) s
  (s1.waiters.filter fun w => w.2.req.part == p && !w.2.kept
      && (match w.2.deadline with | some d => passed s1 d w.2.lag | none => false)).foldl
    (fun a w => afterE 1 (.waiterExpiry w.1) a) s1

end Sys2Proof.Machine
end

