-- ==== Sys2Proof/Machine/Home.lean ====
section
/-! DEFINITION. The home pipelines (06_home_objects.md): semaphore and token operations, picking, wake passes, expiry, removal,
undo, and responses down the tree. -/

namespace Sys2Proof.Machine

/-! ## Semaphores (Table HOM-4); SET serves set-up writes of both spaces (R165) -/

/-- Adds a count, saturating (R148). -/
def addSat (r : HomeReq) (n : Nat) (s : State) : State :=
  let o := obj s r.tok r.obj
  let s1 := if 0xFFFF_FFFF < o.val.toNat + n then
      report 0x05 7 (pipeOf r.obj) (some r.part) [r.tok.toNat, r.obj, r.op.toNat] (count r.part 9 1 s)
    else s
  putVal r (BitVec.ofNat 32 (min (o.val.toNat + n) 0xFFFF_FFFF)) s1

def valAt (s : State) (r : HomeReq) : W32 := (obj s r.tok r.obj).val

def semSignal (r : HomeReq) (s : State) : State := done r stOk 0 (addSat r (signalCount r) s)

/-- Whether the count can be taken at once: no waiter queued and enough there. -/
def takes (r : HomeReq) (n : W32) (s : State) : Bool :=
  (obj s r.tok r.obj).fifo.isEmpty && decide (n.toNat ≤ (valAt s r).toNat)

def takeNow (r : HomeReq) (n : W32) (s : State) : State :=
  done r stOk (resWords (valAt s r - n) 0 0) (putVal r (valAt s r - n) s)

def semWait (r : HomeReq) (s : State) : State :=
  let n := pay0 r.pay
  if n = 0 then done r stOk (resWords (valAt s r) 0 0) s
  else if takes r n s then takeNow r n s
  else (enqueue r n none 0 s).1

def semTrywait (r : HomeReq) (s : State) : State :=
  let n := pay0 r.pay
  if n = 0 then done r stOk (resWords (valAt s r) 0 0) s
  else if takes r n s then takeNow r n s
  else done r stEmpty (resWords (valAt s r) 0 0) s

def semWaitTo (r : HomeReq) (s : State) : State :=
  let n := pay0 r.pay
  let d : W64 := (r.pay >>> 64).setWidth 64
  if n = 0 then done r stOk (resWords (valAt s r) 0 0) s
  else if takes r n s then takeNow r n s
  else
    let (lag, s1) := eclkLag s
    if passed s1 d lag then done r stTimeout (resWords (valAt s r) 0 0) s1
    else (enqueue r n (some d) lag s1).1

def semRead (r : HomeReq) (s : State) : State :=
  done r stOk (resWords (valAt s r) (BitVec.ofNat 32 (obj s r.tok r.obj).fifo.length) 0) s

/-- Writes a new value and answers the value before. -/
def rmw (r : HomeReq) (v : W32) (s : State) : State := done r stOk (resWords (valAt s r) 0 0) (putVal r v s)

def semSet (r : HomeReq) (s : State) : State := rmw r (pay0 r.pay) s
def semFetchAdd (r : HomeReq) (s : State) : State := rmw r (valAt s r + pay0 r.pay) s
def semCas (r : HomeReq) (s : State) : State := rmw r (if valAt s r = pay0 r.pay then pay1 r.pay else valAt s r) s
def semFetchMax (r : HomeReq) (s : State) : State :=
  rmw r (if (valAt s r).toNat < (pay0 r.pay).toNat then pay0 r.pay else valAt s r) s
def semFetchOr (r : HomeReq) (s : State) : State := rmw r (valAt s r ||| pay0 r.pay) s

/-! ## Token pools (Table HOM-5) -/

def tokPost (r : HomeReq) (s : State) : State :=
  if tagged s r.obj then refuse r causeKind s
  else
    let s1 := addSat r (pay0 r.pay).toNat s
    done r stOk (resWords (valAt s1 r) 0 0) s1

def tokAcquire (r : HomeReq) (s : State) : State := if tagged s r.obj then refuse r causeKind s else semWait r s
def tokTryacquire (r : HomeReq) (s : State) : State := if tagged s r.obj then refuse r causeKind s else semTrywait r s

/-- ACQUIRE_PRI's first step (R154). -/
def tokAcquirePri (r : HomeReq) (s : State) : State :=
  let n := pay0 r.pay
  if tagged s r.obj || tagged s (r.obj + 1) then refuse r causeKind s
  else if n = 0 then done r stOk (resWords (valAt s r) 0 0) s
  else if takes r n s then
    done r stOk (resWords (valAt s r - n) (BitVec.ofNat 32 (poolName s r r.obj)) 0) (putVal r (valAt s r - n) s)
  else
    match enqueue r n none 0 s with
    | (s1, some e) => homeDirect r (some e) 2 s1
    | (s1, none) => s1

/-- ACQUIRE_PRI's second step, at the home of TOKEN + 1 (R154). -/
def priSecond (r : HomeReq) (e : Nat) (s : State) : State :=
  let w := waiter s e
  let i := r.obj + 1
  if w.req ≠ r ∨ w.kept ∨ w.shadow then s
  else
    let o := obj s true i
    if o.fifo.isEmpty ∧ w.count.toNat ≤ o.val.toNat then
      let s1 := putVal { r with obj := i } (o.val - w.count) s
      respond r stOk (resWords (o.val - w.count) (BitVec.ofNat 32 (poolName s r i)) 0) false (leaveFifos e s1)
    else linkTail true i e s

def tokPostTag (r : HomeReq) (s : State) : State :=
  let o := obj s true r.obj
  if !tagged s r.obj then refuse r causeKind s
  else if tagCap s r.obj ≤ o.val.toNat then refuse r causeFull s
  else
    let tag := pay0 r.pay
    let s1 := setObj true r.obj { o with tags := o.tags ++ [tag], val := o.val + 1 }
      (journalObj r.part true r.obj [tagEntry r.part jtPUSH r.obj tag] s)
    done r stOk (resWords (o.val + 1) 0 0) s1

def tokAcquireTag (r : HomeReq) (s : State) : State :=
  let o := obj s true r.obj
  if !tagged s r.obj then refuse r causeKind s
  else match (if o.fifo.isEmpty then o.tags else []) with
    | tag :: t =>
      let s1 := setObj true r.obj { o with tags := t, val := o.val - 1 }
        (journalObj r.part true r.obj [tagEntry r.part jtPOP r.obj tag] s)
      done r stOk (resWords tag (o.val - 1) 0) s1
    | [] => if bitB (pay1 r.pay) 0 then done r stEmpty 0 s else (enqueue r 1 none 0 s).1

def tokLevel (r : HomeReq) (s : State) : State :=
  let o := obj s true r.obj
  done r stOk (resWords o.val (BitVec.ofNat 32 o.fifo.length) (if tagged s r.obj then o.tags.headD 0 else 0)) s

/-- The effect of a request at its home, by OP. -/
def homeEffect (r : HomeReq) (entry : Option Nat) (s : State) : State :=
  match entry with
  | some e => priSecond r e s
  | none => if isNull r then s else match r.op.toNat with
    | 0x00 => semSignal r s | 0x01 => semWait r s | 0x02 => semTrywait r s | 0x03 => semWaitTo r s
    | 0x04 => semRead r s | 0x05 => semSet r s | 0x06 => semFetchAdd r s | 0x07 => semCas r s
    | 0x08 => semFetchMax r s | 0x09 => semFetchOr r s
    | 0x10 => tokPost r s | 0x11 => tokAcquire r s | 0x12 => tokTryacquire r s | 0x13 => tokAcquirePri r s
    | 0x14 => tokPostTag r s | 0x15 => tokAcquireTag r s | 0x16 => tokLevel r s
    | _ => s

/-- The command by which a picked request takes effect. -/
def effectInstr (it : HomeItem) : Instr :=
  let r := it.req
  match it.entry with
  | some e => .acquirePriForward r e
  | none => match r.op.toNat with
    | 0x00 => .signal (.unit r) | 0x01 => .wait (.unit r) | 0x02 => .trywait (.unit r) | 0x03 => .waitTo (.unit r)
    | 0x04 => .semRead (.unit r) | 0x05 => .set (.unit r) | 0x06 => .fetchAdd (.unit r) | 0x07 => .cas (.unit r)
    | 0x08 => .fetchMax (.unit r) | 0x09 => .fetchOr (.unit r)
    | 0x10 => .post (.unit r) | 0x11 => .acquire (.unit r) | 0x12 => .tryacquire (.unit r) | 0x13 => .acquirePri (.unit r)
    | 0x14 => .postTag (.unit r) | 0x15 => .acquireTag (.unit r) | _ => .level (.unit r)

/-- The request a command under way at the home carries. -/
def itemOf : Instr → Option HomeItem
  | .signal (.unit r) => some ⟨r, none⟩ | .wait (.unit r) => some ⟨r, none⟩ | .trywait (.unit r) => some ⟨r, none⟩
  | .waitTo (.unit r) => some ⟨r, none⟩ | .semRead (.unit r) => some ⟨r, none⟩ | .set (.unit r) => some ⟨r, none⟩
  | .fetchAdd (.unit r) => some ⟨r, none⟩ | .cas (.unit r) => some ⟨r, none⟩ | .fetchMax (.unit r) => some ⟨r, none⟩
  | .fetchOr (.unit r) => some ⟨r, none⟩ | .post (.unit r) => some ⟨r, none⟩ | .acquire (.unit r) => some ⟨r, none⟩
  | .tryacquire (.unit r) => some ⟨r, none⟩ | .acquirePri (.unit r) => some ⟨r, none⟩ | .postTag (.unit r) => some ⟨r, none⟩
  | .acquireTag (.unit r) => some ⟨r, none⟩ | .level (.unit r) => some ⟨r, none⟩
  | .acquirePriForward r e => some ⟨r, some e⟩
  | _ => none

/-! ## Picking (R142) -/

/-- The object an item works on. -/
def itemObj (it : HomeItem) : Nat := if it.entry.isSome then it.req.obj + 1 else it.req.obj

def inputOf (s : State) (pipe : Nat) : List HomeItem := Tbl.get [] s.home.input pipe
def setInput (pipe : Nat) (l : List HomeItem) (s : State) : State :=
  { s with home := { s.home with input := Tbl.set [] pipe l s.home.input } }

def bucketOf (s : State) (p : Nat) : Nat := Tbl.get 0 s.home.bucket p
def setBucket (p n : Nat) (s : State) : State := { s with home := { s.home with bucket := Tbl.set 0 p n s.home.bucket } }

/-- Whether a partition's bucket lets a request through; it is not applied while the partition quiesces (R247). -/
def bucketOpen (s : State) (p : Nat) : Bool :=
  (part s p).rateEff == 0 || decide (1 ≤ bucketOf s p) || (part s p).state == .quiescing

def itemReady (s : State) (pipe : Nat) (it : HomeItem) : Bool :=
  let r := it.req
  !hasPass s r.tok (itemObj it) &&
    (if r.src = srcSetup then !undoHolds s (passOwner s r.tok r.obj) r.obj
     else !covered s r.part && !undoRuns s r.part && (it.entry.isSome || bucketOpen s r.part))

/-- Journal entries of `p` that pipeline `pipe` has still to undo. -/
def undoLeft (s : State) (p pipe : Nat) : Nat := ((journal s p).entries.filter fun j => pipeOf j.obj == pipe).length

/-- Whether an undo step of `p` wants a turn (R219). -/
def undoReady (s : State) (p pipe : Nat) : Bool :=
  s.home.undoing.contains (p, pipe) && decide ((s.agenda.filter fun t => t.ev == .undo p pipe).length < undoLeft s p pipe)

/-- The item of `p` to execute: set-up accesses ahead of partition 0's others, then the earliest ready. -/
def itemFor (s : State) (pipe p : Nat) : Option HomeItem :=
  let l := (inputOf s pipe).filter fun it => it.req.part == p && itemReady s pipe it
  match l.find? fun it => it.req.src == srcSetup with
  | some it => some it
  | none => l.head?

def partReady (s : State) (pipe p : Nat) : Bool := undoReady s p pipe || (itemFor s pipe p).isSome

/-- The partitions with work at a pipeline, ascending. -/
def readyParts (s : State) (pipe : Nat) : List Nat := (List.range 64).filter (partReady s pipe)

def deficitOf (s : State) (pipe p : Nat) : Nat := Tbl.get 0 s.home.deficit (pipe * 64 + p)
def setDeficit (pipe p n : Nat) (s : State) : State :=
  { s with home := { s.home with deficit := Tbl.set 0 (pipe * 64 + p) n s.home.deficit } }

/-- Drops the deficit of the partitions without a ready request. -/
def dropDeficits (pipe : Nat) (ready : List Nat) (s : State) : State :=
  { s with home := { s.home with deficit := s.home.deficit.filter fun d => d.1 / 64 != pipe || ready.contains (d.1 % 64) } }

/-- HOME_WEIGHT, in force at the visit. -/
def homeWeight (s : State) (p : Nat) : Nat := fld s (partKey p 0x0C) 31 24

/-- The next ready partition after `q`, wrapping, `q` itself last. -/
def nextReady (q : Nat) (ready : List Nat) : Option Nat :=
  match ready.find? fun p => q < p with
  | some p => some p
  | none => ready.head?

/-- The partition of step 2, the pointer and deficits moved. -/
def weighted (pipe : Nat) (ready : List Nat) (s : State) : Option Nat × State :=
  let q := Tbl.get 0 s.home.ptr pipe
  if ready.contains q ∧ 1 ≤ deficitOf s pipe q then (some q, setDeficit pipe q (deficitOf s pipe q - 1) s)
  else match nextReady q ready with
    | some p =>
      let s1 := { s with home := { s.home with ptr := Tbl.set 0 pipe p s.home.ptr } }
      (some p, setDeficit pipe p (deficitOf s pipe p + homeWeight s p - 1) s1)
    | none => (none, s)

/-- The requests of an object picked and not yet in effect, in order. -/
def underway (s : State) (tok : Bool) (i : Nat) : List HomeItem :=
  s.agenda.filterMap fun t => match t.clk, itemOf t.ev with
    | .eclk, some it => if it.req.tok = tok ∧ itemObj it = i then some it else none
    | _, _ => none

/-- A pass follows where an operation changed V or C of an object whose FIFO holds a waiter; a pass marked at the latest pick that
turns out to have nothing to do ends (R149). -/
def afterOp (r : HomeReq) (s0 s1 : State) : State :=
  let o0 := obj s0 r.tok r.obj
  let o1 := obj s1 r.tok r.obj
  if o1.val ≠ o0.val ∧ o1.fifo ≠ [] then startPass r.tok r.obj r.src s1
  else if s1.home.passes.any (fun q => q.tok == r.tok && q.obj == r.obj && q.picked) ∧ underway s1 r.tok r.obj = [] then
    endPass r.tok r.obj s1
  else s1

/-- Whether the picked item will start a wake pass, judged after what is under way on its object (R149). -/
def startsPass (s : State) (it : HomeItem) : Bool :=
  !isNull it.req &&
  let i := itemObj it
  let s1 := (underway s it.req.tok i).foldl (fun a q => homeEffect q.req q.entry a) s
  let o1 := obj s1 it.req.tok i
  let o2 := obj (homeEffect it.req it.entry s1) it.req.tok i
  o2.val != o1.val && !o2.fifo.isEmpty

/-- Executes the turn of partition `p`: an undo step first, else its item; the effect follows 3 ECLK later (R149). -/
def takeTurn (pipe p : Nat) (s : State) : State :=
  if undoReady s p pipe then afterE 3 (.undo p pipe) s
  else match itemFor s pipe p with
    | none => s
    | some it =>
      let s1 := setInput pipe ((inputOf s pipe).erase it) s
      let free := it.entry.isSome || it.req.src == srcSetup || (part s p).rateEff == 0 || (part s p).state == .quiescing
      let s2 := if free then s1 else setBucket p (bucketOf s1 p - 1) s1
      let s3 := if startsPass s it then markPass it.req.tok (itemObj it) it.req.src true s2 else s2
      afterE 3 (effectInstr it) s3

/-- One ECLK of a pipeline: the reserved slot, then the weighted share (R142). -/
def homePick (pipe : Nat) (s : State) : State :=
  if Tbl.get 0 s.home.lastPick pipe = s.clk.eclk + 1 ∨ isolated s 3 pipe then s
  else
    let ready := readyParts s pipe
    let s1 := dropDeficits pipe ready { s with home := { s.home with lastPick := Tbl.set 0 pipe (s.clk.eclk + 1) s.home.lastPick } }
    let p := s.clk.eclk % 64
    if ready.contains p then takeTurn pipe p s1
    else match weighted pipe ready s1 with
      | (some q, s2) => takeTurn pipe q s2
      | (none, s2) => s2

/-- Whether a pipeline has anything to pick or a deficit to drop. -/
def pipeBusy (s : State) (pipe : Nat) : Bool :=
  !(inputOf s pipe).isEmpty || s.home.undoing.any (fun u => u.2 == pipe) || s.home.deficit.any fun d => d.1 / 64 == pipe

def execHomePick (pipe : Nat) (s : State) : Host.Outcome State Fault Refusal := answer (decide (pipe < 4)) (homePick pipe s)

/-! ## Entry (R140) -/

/-- The order in which requests of one ECLK enter: tiles by SRC; then per partition its host requests by ring, then the
watchpoints' SIGNALs. -/
def entryRank (r : HomeReq) : Nat :=
  if r.src < nStirrup then r.src else 2048 + r.part * 8 + (if r.src = srcHost then r.ring else 5)

def insertBy (c : Crossing) : List Crossing → List Crossing
  | [] => [c]
  | d :: t => if c.due < d.due ∨ (c.due = d.due ∧ entryRank c.req < entryRank d.req) then c :: d :: t else d :: insertBy c t

/-- Whether a request belongs to a partition in reset: it completes with ABORTED and without effect (R163, R214; log 123). -/
def homeAborted (s : State) (r : HomeReq) : Bool := r.src != srcSetup && (part s r.part).state == .resetting

/-- Ends an item with ABORTED: the second step of ACQUIRE_PRI is part of a request whose waiter answers. -/
def abortItem (it : HomeItem) (s : State) : State := if it.entry.isSome then s else respond it.req stAborted 0 false s

def enterOne (s : State) (c : Crossing) : State :=
  let pipe := pipeOf (itemObj ⟨c.req, c.entry⟩)
  if homeAborted s c.req then abortItem ⟨c.req, c.entry⟩ s
  else setInput pipe (inputOf s pipe ++ [⟨c.req, c.entry⟩]) s

def homeEntry (s : State) : State :=
  let due := s.home.crossing.filter fun c => c.due ≤ s.clk.eclk
  let s1 := { s with home := { s.home with crossing := s.home.crossing.filter fun c => !(c.due ≤ s.clk.eclk) } }
  (due.foldl (fun a c => insertBy c a) []).foldl enterOne s1

def execHomeReqEntry (s : State) : Host.Outcome State Fault Refusal := .next (homeEntry s)

/-! ## The rows of the operations: written by a tile, or executed at the home (log 7) -/

def reqOk (r : HomeReq) : Bool :=
  decide (r.part < 64) && (if r.tok then decide (r.obj < 2048) else decide (r.obj < 8192))

/-- One row: OP `op` of space `tok`, effect `eff`. -/
def homeRow (op : Nat) (eff : HomeReq → State → State) (x : HomeSite) (s : State) : Host.Outcome State Fault Refusal :=
  match x with
  | .tile st w => tileCmd 1 op st w s
  | .unit r => if r.op.toNat ≠ op then .fault .notThisCommand else 
      answer (reqOk r) (if homeAborted s r then abortItem ⟨r, none⟩ s else afterOp r s (if isNull r then refuseNull r s else eff r s))

def execSignal (x : HomeSite) (s : State) : Host.Outcome State Fault Refusal := homeRow 0x00 semSignal x s
def execWait (x : HomeSite) (s : State) : Host.Outcome State Fault Refusal := homeRow 0x01 semWait x s
def execTrywait (x : HomeSite) (s : State) : Host.Outcome State Fault Refusal := homeRow 0x02 semTrywait x s
def execWaitTo (x : HomeSite) (s : State) : Host.Outcome State Fault Refusal := homeRow 0x03 semWaitTo x s
def execSemRead (x : HomeSite) (s : State) : Host.Outcome State Fault Refusal := homeRow 0x04 semRead x s
def execSet (x : HomeSite) (s : State) : Host.Outcome State Fault Refusal := homeRow 0x05 semSet x s
def execFetchAdd (x : HomeSite) (s : State) : Host.Outcome State Fault Refusal := homeRow 0x06 semFetchAdd x s
def execCas (x : HomeSite) (s : State) : Host.Outcome State Fault Refusal := homeRow 0x07 semCas x s
def execFetchMax (x : HomeSite) (s : State) : Host.Outcome State Fault Refusal := homeRow 0x08 semFetchMax x s
def execFetchOr (x : HomeSite) (s : State) : Host.Outcome State Fault Refusal := homeRow 0x09 semFetchOr x s
def execPost (x : HomeSite) (s : State) : Host.Outcome State Fault Refusal := homeRow 0x10 tokPost x s
def execAcquire (x : HomeSite) (s : State) : Host.Outcome State Fault Refusal := homeRow 0x11 tokAcquire x s
def execTryacquire (x : HomeSite) (s : State) : Host.Outcome State Fault Refusal := homeRow 0x12 tokTryacquire x s
def execAcquirePri (x : HomeSite) (s : State) : Host.Outcome State Fault Refusal := homeRow 0x13 tokAcquirePri x s
def execPostTag (x : HomeSite) (s : State) : Host.Outcome State Fault Refusal := homeRow 0x14 tokPostTag x s
def execAcquireTag (x : HomeSite) (s : State) : Host.Outcome State Fault Refusal := homeRow 0x15 tokAcquireTag x s
def execLevel (x : HomeSite) (s : State) : Host.Outcome State Fault Refusal := homeRow 0x16 tokLevel x s

def execAcquirePriForward (r : HomeReq) (e : Nat) (s : State) : Host.Outcome State Fault Refusal :=
  answer (reqOk r && r.tok && r.obj < 2047 && e < 16384)
    (if homeAborted s r then s else afterOp { r with obj := r.obj + 1 } s (priSecond r e s))

/-! ## Wake passes, expiry and removal -/

def canTake (s : State) (tok : Bool) (i : Nat) (w : Waiter) : Bool :=
  let o := obj s tok i
  if tok && tagged s i then !o.tags.isEmpty else decide (w.count.toNat ≤ o.val.toNat)

/-- The head waiter takes its count (R149, R220). -/
def wakeTake (tok : Bool) (i e : Nat) (sq : W32) (src : Nat) (s : State) : State :=
  let w := waiter s e
  let p := w.req.part
  let o := obj s tok i
  let tg := tok && tagged s i
  let tag := o.tags.headD 0
  let v := if tg then o.val - 1 else o.val - w.count
  let s1 := setObj tok i { o with val := v, tags := if tg then o.tags.tail else o.tags }
    (journalObj p tok i (waitEntry p jtWAKE tok i e sq w :: (if tg then [tagEntry p jtPOP i tag] else [])) s)
  let pay := if tg then resWords tag v 0 else if w.req.op = 0x13#5 ∧ tok then resWords v (BitVec.ofNat 32 (poolName s w.req i)) 0 else resWords v 0 0
  let s2 := traceWaitEdge p tok i (traceName s w.req.src) (traceName s src) (s.clk.eclk - w.since) w.count.toNat (leaveFifos e s1)
  if w.shadow then s2 else respond w.req stOk pay false s2

/-- Takes an entry out (expiry, R157): journalled as EXPIRE, answered unless its requester has had its response. -/
def removeWaiter (e : Nat) (status : BitVec 5) (tell : Bool) (s : State) : State :=
  let w := waiter s e
  match w.links with
  | [] => freeWaiter e s
  | (tok, i, sq) :: _ =>
    let v := (obj s tok i).val
    let s1 := leaveFifos e (journalObj w.req.part tok i [waitEntry w.req.part jtEXPIRE tok i e sq w] s)
    if tell && !w.shadow then respond w.req status (if status = stTimeout then resWords v 0 0 else 0) false s1 else s1

/-- Removal outside a pass: a new head waiter starts a pass, preceded by one VALUE or COUNT entry (R149, Table HOM-8). -/
def removeAndPass (e : Nat) (status : BitVec 5) (tell : Bool) (s : State) : State :=
  let w := waiter s e
  let heads := w.links.filter fun l => isHead s l.1 l.2.1 e
  let s1 := removeWaiter e status tell s
  heads.foldl (fun a l =>
    let o := obj a l.1 l.2.1
    if o.fifo.isEmpty || hasPass a l.1 l.2.1 then a
    else startPass l.1 l.2.1 w.req.src (journalObj w.req.part l.1 l.2.1 [valueEntry w.req.part l.1 l.2.1 o.val] a)) s1

def expired (s : State) (w : Waiter) : Bool := match w.deadline with | some d => passed s d w.lag | none => false

/-- One ECLK of a wake pass. -/
def wakePass (tok : Bool) (i : Nat) (s : State) : State :=
  let p := passOwner s tok i
  if covered s p ∨ undoHolds s p i then s
  else match (obj s tok i).fifo with
    | [] => endPass tok i s
    | (e, sq) :: _ =>
      let w := waiter s e
      let src := match s.home.passes.find? fun q => q.tok == tok && q.obj == i with | some q => q.src | none => w.req.src
      if expired s w then passNext tok i (removeWaiter e stTimeout true s)
      else if canTake s tok i w then passNext tok i (wakeTake tok i e sq src s)
      else endPass tok i s

def execWakePass (tok : Bool) (i : Nat) (s : State) : Host.Outcome State Fault Refusal :=
  answer (decide (i < if tok then 2048 else 8192)) (wakePass tok i s)

/-- Whether an undo holds a waiter in one of its FIFOs. -/
def waiterHeld (s : State) (w : Waiter) : Bool := covered s w.req.part || w.links.any fun l => undoHolds s w.req.part l.2.1

/-- Expiry of a waiter; under a curtain or an undo it waits (R151, R163), and where this ECLK's house time is not yet there (log 22). -/
def waiterExpiry (e : Nat) (s : State) : State :=
  let w := waiter s e
  if !Tbl.has s.waiters e || w.kept || w.deadline.isNone then s
  else if !expired s w then afterE 1 (.waiterExpiry e) s
  else if waiterHeld s w then s
  else removeAndPass e stTimeout true s

def execWaiterExpiry (e : Nat) (s : State) : Host.Outcome State Fault Refusal := answer (decide (e < 16384)) (waiterExpiry e s)

def waiterRemoval (st : Nat) (tell : Bool) (s : State) : State :=
  ((s.waiters.filter fun w => w.2.req.src == st && !w.2.kept).map (·.1)).foldl (fun a e => removeAndPass e stAborted tell a) s

def execWaiterRemoval (st : Nat) (tell : Bool) (s : State) : Host.Outcome State Fault Refusal :=
  answer (decide (st < nStirrup)) (waiterRemoval st tell s)

/-! ## Buckets (R142, Table PAR-6) -/

/-- HOME_RATE and HOME_BURST take effect: full at CREATE and on a first nonzero rate, cut to a smaller capacity. -/
def loadRate (p : Nat) (full : Bool) (s : State) : State :=
  let w := reg s (partKey p 0x10)
  let rate := bitsN w 24 16
  let cap := 16 * bitsN w 7 0
  let x := part s p
  let n := if full || (x.rateEff == 0 && rate != 0) then cap else min (bucketOf s p) cap
  setBucket p n (setPart p { x with rateEff := rate, burstEff := bitsN w 7 0 } s)

def refillPart (p : Nat) (s : State) : State :=
  let x := part s p
  if x.rateEff = 0 then s else setBucket p (min (bucketOf s p + x.rateEff) (16 * x.burstEff)) s

def livePartitions (s : State) : List Nat := (s.parts.filter fun q => q.2.state != .free).map (·.1)

def execBucketRefill (s : State) : Host.Outcome State Fault Refusal :=
  .next ((livePartitions s).foldl (fun a p => refillPart p a) s)

/-! ## Polling (R156, R261) -/

/-- The re-send of a polling request; while its partition is being quiesced, or is QUIESCED, it waits (R247; log 90). -/
def pollResend (r : HomeReq) (s : State) : State :=
  let still := fun (p : Nat) => (part s p).state == .quiescing || (part s p).state == .quiesced
  if r.src < nStirrup then
    let x := stir s r.src
    if x.frozen || x.homeFly.all (fun f => f.rid != r.rid) then s
    else if still (stirPart x) then afterT 1 (.pollResend r) s
    else
      let q := { r with poll := true, leftT := notLeft }
      offerUp (.stirrup r.src) (prioHome s.clk.tclk r.src) s.clk.tclk 1 (homeArrival (.stall (stallOf r.src)) q)
        (updStir r.src (fun x => { x with homeFly := x.homeFly.map fun f => if f.rid = r.rid then { f with req := q } else f }) s)
  else if still r.part then afterE 1 (.pollResend r) s
  else homeDirect { r with poll := true } none 0 s

def execPollResend (r : HomeReq) (s : State) : Host.Outcome State Fault Refusal := answer (reqOk r) (pollResend r s)

/-! ## Responses on their way down (R146, R54, R60, R65) -/

/-- A response at its stirrup. -/
def rspAtStirrup (st : Nat) (r : HomeRsp) (s : State) : State :=
  let x := stir s st
  match x.homeFly.find? fun f => f.rid == r.rid with
  | none => staleDrop (bitsN r.role 15 10) st 4 r.obj s
  | some f =>
    if !stampIs x r.role then staleDrop (bitsN r.role 15 10) st 4 r.obj s
    else if r.poll && !x.frozen then afterT 64 (.pollResend { f.req with poll := true }) s
    else
      let y := { x with homeFly := x.homeFly.filter fun g => g.rid != r.rid }
      let bad := r.status == stRefused || r.status == stAborted
      let z := if x.frozen then y
        else if f.held then { y with res := r.pay, status := r.status }
        else if bad then postErr y else y
      let s1 := setStir st z s
      let s2 := if !x.frozen && !f.held && r.status == stAborted then count (stirPart x) 3 1 s1 else s1
      tryRole st (wake st s2)

def mergeAt (s : State) (at_ : Place) (rec : Nat) : Option MergeRec :=
  s.tree.merges.find? fun m => m.node == at_.node && m.idx == rec && m.sent

def dropMerge (at_ : Place) (rec : Nat) (s : State) : State :=
  { s with tree := { s.tree with merges := s.tree.merges.filter fun m => !(m.node == at_.node && m.idx == rec && m.sent) } }

/-- The copies of a merged response for the children of its record (R146). -/
def copies (at_ : Place) (m : MergeRec) (r : HomeRsp) (s : State) : State :=
  m.kids.foldl (fun a k =>
    let c := { r with dest := k.1, rid := k.2.1, merged := k.2.2.1, mlevel := false, mrec := k.2.2.2 }
    match at_ with
    | .barn _ => offerDown (.stall (stallOf k.1)) (prioHome a.clk.tclk k.1) a.clk.tclk (.homeRsp (.stall (stallOf k.1)) c) a
    | _ => offerDown (.stirrup k.1) (prioHome a.clk.tclk k.1) a.clk.tclk (.homeRsp (.stirrup k.1) c) a) (dropMerge at_ m.idx s)

def rspDown (to_ : Place) (r : HomeRsp) (s : State) : State :=
  offerDown to_ (prioHome s.clk.tclk r.dest) s.clk.tclk (.homeRsp to_ r) s

def homeRsp (at_ : Place) (r : HomeRsp) (s : State) : State :=
  match at_ with
  | .die => offer (homePortDown (r.dest / 864)) (prioHome s.clk.tclk r.dest) s.clk.tclk 1 4 (.homeRsp (.half (r.dest / 864)) r) s
  | .half _ => rspDown (.barn (barnOfStirrup r.dest)) r s
  | .barn b =>
    (match (if r.merged && r.mlevel then mergeAt s (.barn b) r.mrec else none) with
     | some m => copies (.barn b) m r s
     | none => rspDown (.stall (stallOf r.dest)) r s)
  | .stall k =>
    (match (if r.merged && !r.mlevel then mergeAt s (.stall k) r.mrec else none) with
     | some m => copies (.stall k) m r s
     | none => rspDown (.stirrup r.dest) r s)
  | .stirrup st => rspAtStirrup st r s

def execHomeRsp (at_ : Place) (r : HomeRsp) (s : State) : Host.Outcome State Fault Refusal :=
  answer (at_.ok && r.dest < nStirrup) (if outOfService s at_ then s else homeRsp at_ r s)

/-! ## Undo (R219, R220, Table FLT-4) -/

def gone (s : State) (who : Nat) : Bool := who < nStirrup && ((stir s who).frozen || (stir s who).iso)

def relink (e : Nat) (s : State) : State :=
  let w := waiter s e
  let s1 := setWaiter e { w with kept := false, shadow := true, since := s.clk.eclk } s
  w.links.foldl (fun a l => let o := obj a l.1 l.2.1; setObj l.1 l.2.1 { o with fifo := fifoInsert e l.2.2 o.fifo } a) s1

def undoEntry (j : JEntry) (s : State) : State :=
  let o := obj s j.tok j.obj
  if j.type = jtVALUE ∨ j.type = jtCOUNT then setObj j.tok j.obj { o with val := j.data } s
  else if j.type = jtPUSH then setObj j.tok j.obj { o with tags := o.tags.dropLast, val := o.val - 1 } s
  else if j.type = jtPOP then setObj j.tok j.obj { o with tags := j.data :: o.tags, val := o.val + 1 } s
  else if !Tbl.has s.waiters j.entry || (waiter s j.entry).req.part != j.part then s
  else if j.type = jtENQUEUE then
    let w := waiter s j.entry
    let s1 := unlinkFrom j.tok j.obj j.entry s
    let w1 := { w with links := w.links.filter (fun l => !(l.1 == j.tok && l.2.1 == j.obj)), shadow := true }
    let s2 := if w.kept then s1 else count j.part 7 (if w1.links.isEmpty then s.clk.eclk - w.since else 0) s1
    let s3 := if w.shadow || w.kept then s2 else respond w.req stReplay 0 false s2
    if w.kept || w1.links.isEmpty then freeWaiter j.entry s3 else setWaiter j.entry w1 s3
  else if j.type = jtEXPIRE ∧ gone s j.who then freeWaiter j.entry s
  else relink j.entry s

def noteChanged (pipe : Nat) (j : JEntry) (s : State) : State :=
  if s.home.changed.contains (pipe, j.tok, j.obj) then s
  else { s with home := { s.home with changed := s.home.changed ++ [(pipe, j.tok, j.obj)] } }

/-- The last pipeline's undo ended: the journal is open for the replayed step, and the undo-complete signal crosses (R221, Table
ARC-4). -/
def undoEnd (p : Nat) (s : State) : State :=
  across .eclk .tclk 1 2 (.undoComplete p) (setJournal p { journal s p with opened := true } s)

/-- A pipeline's undo ended: wake passes run on what it changed, what it held goes on, and the last one ends the undo (R219). -/
def undoPipeEnd (p pipe : Nat) (s : State) : State :=
  let s1 := { s with home := { s.home with undoing := s.home.undoing.filter fun u => u != (p, pipe) } }
  let mine := s1.home.changed.filter fun c => c.1 == pipe && passOwner s1 c.2.1 c.2.2 == p
  let s2 := { s1 with home := { s1.home with changed := s1.home.changed.filter fun c => !mine.contains c } }
  let s3 := homeResume p (mine.foldl (fun a c => if (obj a c.2.1 c.2.2).fifo.isEmpty then a else startPass c.2.1 c.2.2 0 a) s2)
  if undoRuns s3 p then s3 else undoEnd p s3

/-- The last entry of a pipeline in journal order. -/
def lastOf (pipe : Nat) (l : List JEntry) : Option JEntry := (l.filter fun j => pipeOf j.obj == pipe).getLast?

/-- The journal without that entry. -/
def eraseLast (pipe : Nat) (l : List JEntry) : List JEntry :=
  match l with
  | [] => []
  | j :: t => if pipeOf j.obj = pipe ∧ (t.all fun k => pipeOf k.obj != pipe) then t else j :: eraseLast pipe t

/-- One undo step of a pipeline; the first begins the undo (R219). -/
def undoStep (p pipe : Nat) (s : State) : State :=
  if (part s p).state = .resetting then s
  else
  let s0 := if s.home.undoing.contains (p, pipe) then s
    else { s with home := { s.home with undoing := s.home.undoing ++ [(p, pipe)] } }
  let jr := journal s0 p
  match lastOf pipe jr.entries with
  | none => undoPipeEnd p pipe s0
  | some j =>
    let s1 := noteChanged pipe j (undoEntry j (setJournal p { jr with entries := eraseLast pipe jr.entries } s0))
    if undoLeft s1 p pipe = 0 then undoPipeEnd p pipe s1 else s1

def execUndo (p pipe : Nat) (s : State) : Host.Outcome State Fault Refusal :=
  answer (decide (p < 64 ∧ pipe < 4)) (undoStep p pipe s)

/-- A marker usable in ECLK (Table ARC-4): the journal commits, is discarded, or its undo begins in every pipeline; or the
home's counters are copied (R275). -/
def marker (m : Marker) (s : State) : State :=
  match m.kind with
  | .commit => journalReopen m.part s
  | .discard => journalReopen m.part s
  | .reverse =>
    let s0 := freeUnnamed m.part s
    let s1 := { s0 with home := { s0.home with undoing := s0.home.undoing ++ (List.range 4).map fun i => (m.part, i) } }
    (List.range 4).foldl (fun a i => if undoLeft a m.part i = 0 then afterE 0 (.undo m.part i) a else a) s1
  | .counters =>
    updPart m.part (fun x => { x with bank := (List.range 12).foldl (fun b i =>
      if 5 ≤ i then Tbl.set 0#64 i (Tbl.get 0#64 x.counters i) b else b) x.bank }) s

def mark (p : Nat) (k : MarkKind) (s : State) : State :=
  let (d, s1) := crossDue s .tclk .eclk 2 3
  { s1 with home := { s1.home with marks := s1.home.marks ++ [{ due := d, part := p, kind := k }] } }

/-- The markers usable now take effect. -/
def runMarks (s : State) : State :=
  let due := s.home.marks.filter fun m => m.due ≤ s.clk.eclk
  due.foldl (fun a m => marker m a) { s with home := { s.home with marks := s.home.marks.filter fun m => !(m.due ≤ s.clk.eclk) } }

/-! ## Abort and reset of a partition's home work (R163, R289, R241) -/

/-- Completes a waiter with ABORTED and frees it. -/
def abortWaiter (e : Nat) (s : State) : State :=
  let w := waiter s e
  let s1 := freeWaiter e (if w.kept then s else count w.req.part 7 (s.clk.eclk - w.since) (unlinkAll e s))
  if w.kept || w.shadow then s1 else respond w.req stAborted 0 false s1

def abortWaiters (q : Nat → Waiter → Bool) (s : State) : State :=
  ((s.waiters.filter fun w => q w.1 w.2).map (·.1)).foldl (fun a e => abortWaiter e a) s

/-- Every queued request of `p` completes with ABORTED (R163). -/
def abortInputs (p : Nat) (s : State) : State :=
  (List.range 4).foldl (fun a pipe =>
    let mine := (inputOf a pipe).filter fun it => it.req.part == p && it.req.src != srcSetup
    let a1 := setInput pipe ((inputOf a pipe).filter fun it => !(it.req.part == p && it.req.src != srcSetup)) a
    mine.foldl (fun b it => abortItem it b) a1) s

def abortHome (p : Nat) (s : State) : State := abortWaiters (fun _ w => w.req.part == p) (abortInputs p s)

/-- Objects of a group return to 0 with reset configuration (R147, R152). -/
def clearObj (tok : Bool) (i : Nat) (s : State) : State :=
  endPass tok i (unstage (objCfgKey tok i) (setReg (objCfgKey tok i) 0 (setObj tok i Obj.none s)))

/-- The listed objects that satisfy `q`. -/
def objsWhere (s : State) (q : Bool → Nat → Bool) : List (Bool × Nat) :=
  let fromKeys := s.objs.map fun o => (decide (0x2000 ≤ o.1), o.1 % 0x2000)
  let fromCfg := (s.force.filter fun f => 0x40000 ≤ f.1 ∧ f.1 < 0x44000).map fun f => (decide (0x42000 ≤ f.1), f.1 % 0x2000)
  ((fromKeys ++ fromCfg).eraseDups).filter fun o => q o.1 o.2

def clearObjs (q : Bool → Nat → Bool) (s : State) : State :=
  (objsWhere s q).foldl (fun a o => clearObj o.1 o.2 a) s

/-- The home's part of a partition reset (R163). -/
def resetHome (p : Nat) (s : State) : State :=
  let s1 := { s with home := { s.home with undoing := s.home.undoing.filter (fun u => u.1 != p), marks := s.home.marks.filter fun m => m.part != p || m.kind == .counters } }
  clearObjs (fun tok i => objOwner s tok i == some p) (journalDrop p (abortHome p s1))

end Sys2Proof.Machine
end

