-- ==== Sys2Proof/Machine/Tally.lean ====
section
/-! DEFINITION. Landing tallies (07_memory_model.md): reports, commands, strobes, step-start copies, resets. -/

namespace Sys2Proof.Machine

/-! ## Strobes (R176) -/

def strobe (t : Nat) (drop : Bool) (s : State) : State :=
  { s with tly := { s.tly with strobes := s.tly.strobes ++ [{ due := s.clk.tclk + 6, tally := t, drop := drop }] } }

def strobeBefore (a b : Strobe) : Bool := decide (a.due < b.due) || (a.due == b.due && decide (a.tally < b.tally))

def insertStrobe (a : Strobe) : List Strobe → List Strobe
  | [] => [a]
  | b :: t => if strobeBefore a b then a :: b :: t else b :: insertStrobe a t

/-- The four lanes of this TCLK: due strobes leave in order, the rest wait (R176). -/
def drainStrobes (s : State) : State :=
  let due := (s.tly.strobes.filter fun x => x.due ≤ s.clk.tclk).foldl (fun a x => insertStrobe x a) []
  let rest := s.tly.strobes.filter fun x => !(x.due ≤ s.clk.tclk)
  { s with tly := { s.tly with strobes := due.drop 4 ++ rest },
           out := { s.out with tallyDone := (due.take 4).map fun x => (x.tally, x.drop) } }

/-! ## One TCLK at a tally (R175) -/

/-- Adds units, saturating (R174). -/
def addUnits (t n : Nat) (op : Nat) (s : State) : State :=
  let x := tally s t
  let s1 := if 0xFFFF_FFFF < x.count.toNat + n then
      let p := (tallyOwner s t).getD 0
      report 0x05 10 t (some p) [2, t, op] (count p 9 1 s)
    else s
  setTally t { x with count := BitVec.ofNat 32 (min (x.count.toNat + n) 0xFFFF_FFFF) } s1

/-- ARM (step 2): an armed tally's EXPECT is replaced and the rearm logged. -/
def armTally (t : Nat) (v : W32) (s : State) : State :=
  let x := tally s t
  let s1 := if x.armed then report 0x0A 10 t (tallyOwner s t) [t, x.expect.toNat, v.toNat] s else s
  setTally t { x with expect := v, armed := true, done := false } s1

/-- Step 3: completion of an armed round. -/
def completeRound (t : Nat) (s : State) : State :=
  let x := tally s t
  if x.armed ∧ x.expect.toNat ≤ x.count.toNat then
    strobe t false (setTally t { x with count := x.count - x.expect, armed := false, done := true, compl := x.compl + 1 } s)
  else s

/-- Step 4: FLAGSEEN, and a strobe where the round is done. -/
def flagReport (t : Nat) (s : State) : State :=
  let x := tally s t
  let s1 := setTally t { x with flagseen := true } s
  if x.done then strobe t false s1 else s1

/-- STIR_RES0..2 of a tally command (Table MEM-2). -/
def tallyResult (x : Tally) : W128 :=
  resWords x.count x.expect (BitVec.ofNat 32 (x.compl.toNat * 2 ^ 16 + x.done.toNat * 2 + x.armed.toNat))

/-- A command answered (R178). -/
def tallyAnswer (r : TallyReq) (status : BitVec 5) (pay : W128) (s : State) : State :=
  if r.src = srcHost then
    match findDesc s r.part r.ring r.didx with
    | some d => complete d.x { Done.plain status with result := pay } false s
    | none => s
  else
    let h := Place.half (r.src / 864)
    offerDown h (prioTally r.tally r.src) s.clk.tclk
      (.tallyResponse h { tally := r.tally, op := r.op, nohold := r.nohold, dest := r.src, status := status,
                          role := wStamp (stir s r.src).role, pay := pay }) s

/-- The order of commands at one tally: stirrups ascending, then hosts by partition and ring. -/
def tallyRank (r : TallyReq) : Nat := if r.src < nStirrup then r.src else 2048 + r.part * 8 + r.ring

def insertReq (r : TallyReq) : List TallyReq → List TallyReq
  | [] => [r]
  | q :: t => if tallyRank r < tallyRank q then r :: q :: t else q :: insertReq r t

/-- A command of a partition in reset has no effect and completes with ABORTED (R182). -/
def tallyAborted (s : State) (r : TallyReq) : Bool := (part s r.part).state == .resetting

/-- One TCLK of one tally: units, ARMs, completion, flags and responses. -/
def tallyCycle (reps : List (Nat × Nat × BitVec 7)) (reqs : List TallyReq) (t : Nat) (s : State) : State :=
  let mine := reqs.filter fun r => r.tally == t
  let (ab, ok) := (mine.filter (tallyAborted s), mine.filter fun r => !tallyAborted s r)
  let units := reps.filterMap fun x => if x.1 = t ∧ x.2.2 ≠ 0 then some x.2.2.toNat else none
  let flags := reps.filter fun x => x.1 == t && x.2.2 == 0
  let s1 := units.foldl (fun a n => addUnits t n 0 a) s
  let s2 := (ok.filter fun r => r.op == 0x19#5).foldl (fun a r => addUnits t (pay0 r.pay).toNat 0x19 a) s1
  let s3 := (ok.filter fun r => r.op == 0x18#5).foldl (fun a r => armTally t (pay0 r.pay) a) s2
  let s4 := completeRound t s3
  let res := tallyResult (tally s4 t)
  let s5 := flags.foldl (fun a _ => flagReport t a) s4
  ab.foldl (fun a r => tallyAnswer r stAborted 0 a) (ok.foldl (fun a r => tallyAnswer r stOk res a) s5)

/-- The reports and commands that take effect now, tally by tally (R175). -/
def tallyUnit (s : State) : State :=
  let due := s.tly.due.filter fun d => d.due ≤ s.clk.tclk
  let s1 := { s with tly := { s.tly with due := s.tly.due.filter fun d => !(d.due ≤ s.clk.tclk) } }
  let reps := due.filterMap fun d => match d.act with | .report h l t u => some (t, h * 4 + l, u) | .cmd _ => none
  let bad := reps.filter fun x => (tallyOwner s x.1).isNone
  let good := reps.filter fun x => (tallyOwner s x.1).isSome
  let reqs := (due.filterMap fun d => match d.act with | .cmd r => some r | .report _ _ _ _ => none).foldl (fun a r => insertReq r a) []
  let nums := (good.map (·.1) ++ reqs.map (·.tally)).eraseDups
  let s2 := bad.foldl (fun a x => report 0x09 10 x.1 none [x.2.1 / 4, x.2.1 % 4, x.1 * 128 + x.2.2.toNat] a) s1
  (List.range 1024).foldl (fun a t => if nums.contains t then tallyCycle good reqs t a else a) s2

def execTallyReqArrival (s : State) : Host.Outcome State Fault Refusal := .next (tallyUnit s)

/-- Asks for the tally unit's attention in a coming TCLK. -/
def tallyAt (due : Nat) (act : TallyAct) (s : State) : State :=
  let s1 := { s with tly := { s.tly with due := s.tly.due ++ [{ due := due, act := act }] } }
  if s1.agenda.any (fun t => t.clk == .tclk && t.due == due && t.ev == .tallyReqArrival) then s1
  else schedule .tclk due .tallyReqArrival s1

/-- A report presented at a landing port (R173). -/
def landReport (half lane t : Nat) (u : BitVec 7) (s : State) : State :=
  if 65 ≤ u.toNat then report 0x09 10 t none [half, lane, t * 128 + u.toNat] s
  else tallyAt (s.clk.tclk + 6) (.report half lane t u) s

def execLandReport (half lane t : Nat) (u : BitVec 7) (s : State) : Host.Outcome State Fault Refusal :=
  answer (decide (half < 2 ∧ lane < 4 ∧ t < 1024)) (landReport half lane t u s)

/-! ## Responses -/

/-- A tally response at its stirrup (R178, R54, R60, R65). -/
def tallyRspAt (st : Nat) (r : TallyRsp) (s : State) : State :=
  let x := stir s st
  let isIt := fun (f : ExactFly) => f.tally && cId f.cmd.word == r.tally && cOp f.cmd.word == r.op
  match x.exactFly.find? isIt with
  | none => staleDrop (bitsN r.role 15 10) st 5 r.tally s
  | some f =>
    if !stampIs x r.role then staleDrop (bitsN r.role 15 10) st 5 r.tally s
    else
      let y := { x with exactFly := x.exactFly.erase f }
      let z := if x.frozen then y
        else if f.held then { y with res := r.pay, status := r.status }
        else if r.status == stAborted then postErr y else y
      let s1 := setStir st z s
      let s2 := if !x.frozen && !f.held && r.status == stAborted then count (stirPart x) 3 1 s1 else s1
      tryRole st (wake st s2)

def tallyResponse (at_ : Place) (r : TallyRsp) (s : State) : State :=
  let down := fun (c : Place) => offerDown c (prioTally r.tally r.dest) s.clk.tclk (.tallyResponse c r) s
  match at_ with
  | .die => down (.half (r.dest / 864))
  | .half _ => down (.barn (barnOfStirrup r.dest))
  | .barn _ => down (.stall (stallOf r.dest))
  | .stall _ => down (.stirrup r.dest)
  | .stirrup st => tallyRspAt st r s

def execTallyResponse (at_ : Place) (r : TallyRsp) (s : State) : Host.Outcome State Fault Refusal :=
  answer (at_.ok && r.dest < nStirrup) (if outOfService s at_ then s else tallyResponse at_ r s)

/-! ## Verdict cues, replays and resets (R180, R182) -/

def talliesOf (s : State) (p : Nat) : List Nat := (List.range 1024).filter fun t => tallyOwner s t == some p

/-- The tallies of `p` that are not in the state of an unlisted one: all that a copy or a restore can change. -/
def liveTallies (s : State) (p : Nat) : List Nat :=
  ((s.tly.tbl.map (·.1) ++ s.tly.start.map (·.1)).eraseDups).filter fun t => tallyOwner s t == some p

/-- The step-start copy, and FLAGSEEN cleared (R180). -/
def copyStart (p : Nat) (s : State) : State :=
  (liveTallies s p).foldl (fun a t =>
    let x := tally a t
    let y := { x with flagseen := false }
    setTally t y { a with tly := { a.tly with start := Tbl.set Tally.none t y a.tly.start } }) s

/-- The restore of a replay: step-start values, and DROP for every FLAGSEEN (R180). -/
def restoreTallies (p : Nat) (s : State) : State :=
  (liveTallies s p).foldl (fun a t =>
    let x := tally a t
    let b := if x.flagseen then strobe t true a else a
    setTally t { Tbl.get Tally.none a.tly.start t with flagseen := false } b) s

/-- DROP and the reset state (R182). -/
def resetTally (t : Nat) (s : State) : State :=
  strobe t true (setTally t Tally.none { s with tly := { s.tly with start := Tbl.erase t s.tly.start } })

/-- Commands of `p` that the tally unit executed in the reset's own TCLK complete with ABORTED and strobe nothing (R182). -/
def abortTallyNow (p : Nat) (s : State) : State :=
  let now := fun (i : LinkItem) => match i.ev with
    | .tallyResponse (.half _) r => if i.ready = s.clk.tclk ∧ tallyOwner s r.tally = some p then some r else none
    | _ => none
  let hit := s.tree.links.filterMap fun i => (now i).map (·.tally)
  { s with
    tree := { s.tree with links := s.tree.links.map fun i => match i.ev, now i with
      | .tallyResponse c _, some r => { i with ev := .tallyResponse c { r with status := stAborted, pay := 0 } }
      | _, _ => i }
    tly := { s.tly with strobes := s.tly.strobes.filter fun x => !(hit.contains x.tally && x.due == s.clk.tclk + 6) } }

def resetTallies (p : Nat) (s : State) : State := (talliesOf s p).foldl (fun a t => resetTally t a) (abortTallyNow p s)

end Sys2Proof.Machine
end

