-- ==== Sys2Proof/Machine/CueBase.lean ====
section
/-! DEFINITION. Cues on their way: how a cue passes a node, travels, waits in a stall and reaches a stirrup (R121 to R124, R54,
R74, R90, R223), and how a cue that leaves its root is sent (R134, R180, R262, R271, R274, R279). -/

namespace Sys2Proof.Machine

/-! ## Gait (R122, R125) -/

/-- GAP of profile `p` in TCLK. -/
def gapOf (s : State) (p : Nat) : Nat := if p = 0 then 1 else fld s (gaitKey p 0) 9 4 + 1
def wavesOf (s : State) (p : Nat) : Nat := if p = 0 then 0 else fld s (gaitKey p 0) 3 0

/-- The wave index profile `p` gives stall `k`. -/
def waveOf (s : State) (p k : Nat) : Nat :=
  if p = 0 then 0 else fld s (gaitKey p (4 + 4 * (k / 8))) (4 * (k % 8) + 3) (4 * (k % 8))

/-- The profile picked now (R129). -/
def pickProfile (s : State) (slot : Nat) : Nat :=
  let w := slotPlace s slot
  if s.pwr.budget = 0 then (if bitB w 13 then bitsN w 12 10 else 0) else bitsN w 9 7

/-! ## Passing a node (R77, R81, R84) -/

/-- Abstentions that outlast the cue of epoch `e`. -/
def abstAfter (e : W32) (l : List Abst) : List Abst :=
  l.filter fun a => a.k == 0 || !notBefore a.from_ e || decide ((e + 1 - a.from_).toNat < a.k)

/-- Abstentions counted from epoch `old` on, as counted from epoch `nx` on. -/
def moveAbst (old nx : W32) (l : List Abst) : List Abst :=
  l.map fun a => if notBefore old a.from_ then { a with from_ := a.from_ - old + nx }
    else { a with from_ := nx, k := a.k - (old - a.from_).toNat }

/-- Idle children, likewise. -/
def moveIdle (old nx : W32) (l : List (Nat × W32)) : List (Nat × W32) :=
  l.map fun i => (i.1, if notBefore old i.2 then i.2 - old + nx else nx)

/-- A node whose open epoch becomes `nx`, with nothing held: its members' abstentions go on (R188). -/
def restart (old nx : W32) (ns : NodeSlot) : NodeSlot :=
  { NodeSlot.none with epoch := nx, abst := moveAbst old nx ns.abst, idle := moveIdle old nx ns.idle, idleSent := ns.idleSent,
                       ackWait := ns.ackWait, ackKids := ns.ackKids, seqOut := ns.seqOut }

/-- What a node holds once the cue of epoch `e` has passed it; `nx` is the epoch then open, 0 where a span entry has set it so (R80,
R188). -/
def passed_ (now : Nat) (e nx : W32) (ns : NodeSlot) : NodeSlot :=
  if nx ≠ e + 1 then { restart (e + 1) nx { ns with abst := abstAfter e ns.abst } with passT := now }
  else if ns.epoch = e then
    { ns with epoch := nx, cur := ns.nxt, nxt := { Hold.none with poison := ns.poisonNext }, poisonNext := false, sent := ns.sentN, sentN := false, late := [], passT := now,
              abst := abstAfter e ns.abst, again := [] }
  else if ns.epoch + 1 = e then
    { ns with epoch := nx, cur := Hold.none, nxt := Hold.none, sent := false, sentN := false, late := [], passT := now,
              abst := abstAfter e ns.abst, again := [] }
  else ns

/-- What a node that waits for its acknowledgement holds is of no epoch yet: it outlives the cues of earlier epochs (R337). -/
def carried (q : Bool) (now : Nat) (e nx : W32) (ns : NodeSlot) : NodeSlot :=
  if ns.ackWait && nx == e + 1 && (ns.epoch == e || ns.epoch + 1 == e) then
    { ns with epoch := e, cur := Hold.none, nxt := joinHold q now ns.cur ns.nxt }
  else ns

/-- The cue of an epoch passes a node; calls that waited for room join now. -/
def passNode (at_ : Place) (slot : Nat) (e nx : W32) (s : State) : State :=
  let ns := node s at_ slot
  let s1 := setNode at_ slot (passed_ s.clk.tclk e nx (carried (isQuiesce s slot) s.clk.tclk e nx ns)) s
  let s2 := match at_ with
    | .stall k => if nx = e + 1 ∧ (ns.epoch = e ∨ ns.epoch + 1 = e) then ns.late.foldl (fun a p => addCall k slot p.child p a) s1 else s1
    | _ => s1
  settle at_ slot s2

/-! ## Count slots: records and cuts (R90) -/

/-- The CUT of a cue: payload bits [127:117]. -/
def cutOf (c : Cue) : Nat := bitsN c.data 127 117
def withCut (n : Nat) (c : Cue) : Cue :=
  { c with data := ((c.data <<< 11) >>> 11) ||| (BitVec.ofNat 128 n <<< 117) }

/-- The records up to and including number `cut`, and those after it. -/
def splitRecs (cut : Nat) : List CountRec → List CountRec × List CountRec
  | [] => ([], [])
  | r :: t => if r.seq = cut then ([r], t) else let (a, b) := splitRecs cut t; (r :: a, b)

/-- The records up to `cut` that the root has counted in epoch `e`, and the others (R90). -/
def takeCut (cut : Nat) (e : W32) (l : List CountRec) : List CountRec × List CountRec :=
  let x := splitRecs cut l
  (x.1.filter (·.epoch == some e), x.1.filter (·.epoch != some e) ++ x.2)

/-- The children of the counted records with the last number of each. -/
def lastNumbers (l : List CountRec) : List (Nat × Nat) :=
  (l.flatMap fun r => r.kids).foldl (fun a k => noteKid k.1 k.2 a) []

/-! ## Sending down -/

def sendCue (to_ : Place) (c : Cue) (s : State) : State :=
  offerDown to_ (prioSlot c.slot 3) s.clk.tclk (.cueArrival to_ c) s

def deliver (st : Nat) (c : Cue) (s : State) : State :=
  offerDown (.stirrup st) (prioSlot c.slot 3) s.clk.tclk (.cueDelivery st c) s

/-- The votes a stall reports for a decided epoch of a verdict slot: one mask per vote (R226; log 10). -/
def voteMask (k : Nat) (h : Hold) (v : BitVec 2) : Nat :=
  (stirrupsOf k).zipIdx.foldl (fun a x => if h.votes.contains (x.1, v) then a + 2 ^ x.2 else a) 0

/-- The report type of vote attributions, which are no fault records (log 10). -/
def votesType : Nat := 0x40

def reportVotes (k slot : Nat) (s : State) : State :=
  let h := (node s (.stall k) slot).cur
  let d := voteMask k h voteDetected
  let u := voteMask k h voteSuspect
  if d != 0 || u != 0 then report votesType 2 k (slotOwner s slot) [d, u] s else s

/-- Every stall's votes of the decided epoch of a verdict slot (R226). -/
def slotVotes (slot : Nat) (s : State) : State :=
  if slotVerdict s slot then (memberStalls s slot).foldl (fun a k => if (node a (.stall k) slot).epoch = epochOf s slot then reportVotes k slot a else a) s
  else s

/-- The host member's vote in a decided epoch, read at the die root before the epoch passes (R226; log 10). -/
def reportHost (slot : Nat) (s : State) : State :=
  let v := (node s .die slot).cur.votes
  let d := v.contains (hostChild, voteDetected)
  let u := v.contains (hostChild, voteSuspect)
  if slotVerdict s slot && (d || u) then report votesType 5 147 (slotOwner s slot) [d.toNat, u.toNat] s else s

/-- The stirrups of stall `k` that the cue is due to (R85, R87, R90, R74); not those whose calls wait for an acknowledgement (R337). -/
def dueAt (s : State) (k : Nat) (c : Cue) : List Nat :=
  let ns := node s (.stall k) c.slot
  if c.counted then ((c.notes.map (·.1)).filter fun st => decide (st < nStirrup) && stallOf st == k)
  else
    let own := if (ns.ackWait ∧ c.next = c.epoch + 1) ∨ ns.epoch ≠ c.epoch then [] else ns.cur.kids.filter fun m => !ns.cur.voided.contains m
    let all := if c.next ≠ c.epoch + 1 then ns.nxt.kids ++ ns.late.map (·.child) else []
    (own ++ all).eraseDups.filter (· < nStirrup)

/-- A stall forwards a cue to its stirrups: the cue passes the stall (R122; log 9). A count slot's passed it as it came (R90). -/
def stallForward (k : Nat) (c : Cue) (s : State) : State :=
  let due := dueAt s k c
  let s1 := if c.counted then s else passNode (.stall k) c.slot c.epoch c.next s
  let d := if c.counted then withCut 0 c else c
  due.foldl (fun a st => deliver st d a) s1

/-- A count slot's cue at a stall: CUT is mapped onto its records, which gives the stirrups it is due to (R90 items 3 and 4). -/
def mapCut (k : Nat) (c : Cue) (s : State) : Cue × State :=
  if c.counted && !c.abort && c.notes.isEmpty then
    let ns := node s (.stall k) c.slot
    let x := takeCut (cutOf c) c.epoch ns.recs
    ({ c with notes := lastNumbers x.1 }, setNode (.stall k) c.slot { ns with recs := x.2, epoch := c.next } s)
  else (c, s)

/-- A cue at a stall: forwarded at once, or held for its wave (R122, R123, R124). -/
def stallArrive (k : Nat) (c0 : Cue) (s0 : State) : State :=
  let (c, s) := mapCut k c0 s0
  let own := (slotOwner s c.slot).getD 0
  let delay := waveOf s c.profile k * gapOf s c.profile
  if (dueAt s k c).isEmpty || (delay = 0 && !covered s own) then stallForward k c s
  else { s with tree := { s.tree with waves := s.tree.waves ++ [{ stall := k, cue := c, left := delay }] } }

/-- A count slot's cue to a child, with the last number counted of it (R90). -/
def sendCut (at_ : Place) (c : Cue) (k : Nat × Nat) (s : State) : State :=
  match childPlace at_ k.1 with
  | some to_ => sendCue to_ (withCut k.2 c) s
  | none => s

/-- A cue at a node below its root (R121, R90). -/
def cueArrive (at_ : Place) (c : Cue) (s : State) : State :=
  if outOfService s at_ then s
  else match at_ with
  | .stall k => stallArrive k c s
  | .stirrup _ => s
  | _ =>
    if c.counted && !c.abort then
      let ns := node s at_ c.slot
      let (got, rest) := takeCut (cutOf c) c.epoch ns.recs
      let s1 := setNode at_ c.slot { ns with recs := rest, epoch := c.next } s
      (lastNumbers got).foldl (fun a k => sendCut at_ c k a) s1
    else (routeKids at_ c.stalls).foldl (fun a to_ => sendCue to_ c a) (if c.counted then s else passNode at_ c.slot c.epoch c.next s)

def execCueArrival (at_ : Place) (c : Cue) (s : State) : Host.Outcome State Fault Refusal :=
  answer (at_.ok && c.slot < 512 && c.profile < 8) (cueArrive at_ c s)

/-- A wave countdown has ended (R122); under a curtain the cue waits (R124). -/
def waveRelease (k : Nat) (c : Cue) (s : State) : State :=
  if s.tree.waves.any (fun w => w.stall == k && w.cue == c) && !covered s ((slotOwner s c.slot).getD 0) then
    stallForward k c { s with tree := { s.tree with waves := s.tree.waves.filter fun w => !(w.stall == k && w.cue == c) } }
  else s

def execWaveRelease (k : Nat) (c : Cue) (s : State) : Host.Outcome State Fault Refusal :=
  answer (decide (k < 108 ∧ c.slot < 512)) (waveRelease k c s)

/-! ## Delivery (R54, R59, R60, R65, R223) -/

/-- STIR_AUDIT at a verdict cue (R223). -/
def auditAfter (s : State) (x : Stirrup) (c : Cue) : W32 :=
  if c.status = stOk ∨ c.status = stWatch then
    let sfrac := fld s (verdKey (bitsN c.role 15 10)) 10 8
    let frac := bitsN x.pushed 31 29
    if c.verdict = voteSuspect ∧ frac < sfrac then putBits x.pushed 31 29 sfrac else x.pushed
  else x.audit

def cueAtStirrup (st : Nat) (c : Cue) (s : State) : State :=
  let x := stir s st
  match x.call with
  | none => staleDrop (bitsN c.role 15 10) st 2 c.slot s
  | some pc =>
    if pc.slot ≠ c.slot ∨ !stampIs x c.role then staleDrop (bitsN c.role 15 10) st 2 c.slot s
    else
      let y := { x with call := none }
      let z := if x.frozen then y else
        { y with res := c.data, status := c.status, verdict := c.verdict, inexact := c.inexact, overflow := c.overflow,
                 audit := if c.verdictSlot then auditAfter s x c else x.audit }
      let s1 := setStir st z s
      tryRole st (wake st (if pc.boot then { s1 with boot := { s1.boot with firstDone := true } } else s1))

def execCueDelivery (st : Nat) (c : Cue) (s : State) : Host.Outcome State Fault Refusal :=
  answer (decide (st < nStirrup)) (cueAtStirrup st c s)

/-! ## Leaving the root -/

/-- TCLK from a root to its stirrups' hold release, before gait (Table BAR-7). -/
def downT (at_ : Place) : Nat :=
  match at_ with | .stall _ => 4 | .barn _ => 9 | .half _ => 16 | _ => 25

/-- SYNC_EVENT of a cue that leaves now (R279). -/
def syncEvent (at_ : Place) (c : Cue) (s : State) : State :=
  if !traced s c.slot then s
  else
    let rel := s.clk.tclk + downT at_
    let t := (houseFine s + downT at_ * 128 * 128 / nOf s) / 128
    let p := (slotOwner s c.slot).getD 0
    traceOffer false p (traceWord 1 p (c.slot * 2 ^ 109 + c.epoch.toNat % 2 ^ 16 * 2 ^ 93 + c.lastVt % 2 ^ 11 * 2 ^ 82
      + c.tag.toNat * 2 ^ 62 + traceTime (BitVec.ofNat 64 t) + sat 11 ((rel - c.firstAt) / 32) * 2 ^ 11 + sat 11 (rel - c.lastAt))) s

/-- The host member's completion: its cue crosses into ECLK (R262). -/
def tellHost (c : Cue) (s : State) : State :=
  if c.host then across .tclk .eclk 2 7 (.hostCallCompletion c) s else s

/-- A slot freeze of R274. -/
def freezeBy (slot : Nat) (s : State) : State :=
  if fld s 0x5018 31 30 = 1 ∧ fld s 0x5018 8 0 = slot then afterT 0 (.freeze (some slot)) s else s

/-- The cue starts down from its root: by the CUT notes of a count slot, by the child masks else (R90, R121). -/
def startDown (at_ : Place) (c : Cue) (s : State) : State :=
  match at_ with
  | .stirrup _ => s
  | .stall k => stallArrive k c s
  | _ =>
    if c.counted && !c.abort then
      c.notes.foldl (fun a k => sendCut at_ { c with notes := [] } k a) s
    else (routeKids at_ c.stalls).foldl (fun a to_ => sendCue to_ c a) s

def wpOwner (s : State) (w : Nat) : Nat := fld s (wpKey w 0) 24 19

/-- The MARK record of a watchpoint (R286). -/
def wpMark (slot : Nat) (e : W32) (s : State) (w : Nat) : State := traceMarkRec (wpOwner s w) w slot e 2 s

/-- What happens in the TCLK in which a cue leaves its root on this die, apply points apart (R180, R262, R271, R274, R279, R286). -/
def cueOut (at_ : Place) (c : Cue) (s : State) : State :=
  let p := (slotOwner s c.slot).getD 0
  let s1 := count p 1 1 s
  let s2 := if c.status = stAborted then count p 3 1 s1 else s1
  let s3 := if c.verdictSlot ∧ !c.abort then copyStart p s2 else s2
  c.marks.foldl (fun a w => wpMark c.slot c.epoch a w) (tellHost c (syncEvent at_ c (freezeBy c.slot s3)))

/-! ## Aborts without a complete set (R74, R208, R214, R289) -/

/-- ROLE of a cue: the stamp that its members held, that of the lowest whose call is pending; with none the stamp in force (R59). -/
def cueStamp (s : State) (slot : Nat) : BitVec 16 :=
  match s.stirs.find? fun x => (match x.2.call with | some c => c.slot == slot && !c.boot | none => false) with
  | some x => wStamp x.2.role
  | none => stampOf s ((slotOwner s slot).getD 0)

def cueFor (s : State) (slot : Nat) (e : W32) (status : BitVec 5) (stalls : List Nat) : Cue :=
  { slot := slot, epoch := e, next := e + 1, status := status, fmt := slotFmt s slot, verdict := 0, inexact := false, overflow := false,
    role := cueStamp s slot, data := 0, profile := pickProfile s slot, stalls := stalls,
    verdictSlot := slotVerdict s slot, abort := false, host := false, tag := 0, lastVt := 0, firstAt := s.clk.tclk,
    lastAt := s.clk.tclk, notes := [], counted := isCount s slot, marks := [] }

/-- Whether the host member has a call in the epoch that ends at the die root. -/
def hostIn (s : State) (slot : Nat) : Bool :=
  s.hq.hostCall.any (fun h => h.1 == slot) &&
    (isCount s slot || (let h := (node s .die slot).cur; h.kids.contains hostChild && !h.voided.contains hostChild))

/-- The root's own state passes at its decision; a stall root's when the stall forwards. -/
def passRoot (at_ : Place) (slot : Nat) (e nx : W32) (s : State) : State :=
  match at_ with
  | .stall _ => s
  | _ => passNode at_ slot e nx s

/-- A CALL partial of a slot on its way up. -/
def callOf (slot : Nat) : Instr → Bool
  | .partialArrival _ (.call p) => p.slot == slot
  | _ => false

/-- Every partial of a count slot that the root has not counted is discarded, and the nodes take the new epoch (R74). -/
def purgeCount (slot : Nat) (nx : W32) (s : State) : State :=
  let clear := fun (ns : NodeSlot) =>
    { ns with recs := ns.recs.filter (·.epoch.isSome), cur := Hold.none, nxt := Hold.none, cutAt := none, kidSeq := [], epoch := nx }
  { s with agenda := s.agenda.filter (fun t => !callOf slot t.ev),
           tree := { s.tree with links := s.tree.links.filter (fun i => !callOf slot i.ev),
                                 nodes := s.tree.nodes.map fun n => if n.1 % 512 = slot then (n.1, clear n.2) else n } }

/-- The stirrups that a decided cue of a count slot is already due to (R90). -/
def promised (s : State) (slot : Nat) : List Nat :=
  let mine := fun (c : Cue) => if c.slot = slot then c.notes.map (·.1) else []
  let atStall := fun (e : Instr) => match e with | .cueDelivery st c => if c.slot = slot then [st] else [] | _ => []
  ((s.tree.nodes.filter fun n => n.1 % 512 == slot && decide (n.1 / 512 < 108)).flatMap fun n =>
      (n.2.recs.filter (·.epoch.isSome)).flatMap fun r => r.kids.map (·.1))
    ++ s.tree.waves.flatMap (fun w => mine w.cue)
    ++ s.tree.links.flatMap (fun i => atStall i.ev) ++ s.agenda.flatMap (fun t => atStall t.ev)
    ++ (match rootOf s slot with | .stall _ => s.tree.held.flatMap fun h => mine h.cue | _ => [])

/-- The members with a pending call on a count slot that no decided cue is due to (R74). -/
def pendingOn (s : State) (slot : Nat) : List (Nat × Nat) :=
  ((s.stirs.filter fun x => match x.2.call with | some c => c.slot == slot && !c.boot | none => false).filter
    fun x => !(promised s slot).contains x.1).map fun x => (x.1, 0)

/-- The first and last arrival of the open epoch on this die (R279). -/
def arrivalSpan (s : State) (slot : Nat) : Option (Nat × Nat) :=
  let l := if isCount s slot then s.stirs.filterMap fun x => (match x.2.call with | some c => if c.slot == slot && !c.boot then some (c.cmd.at_, c.cmd.at_) else none | none => none)
    else (memberStalls s slot).filterMap fun k =>
      let ns := node s (.stall k) slot
      if ns.epoch = epochOf s slot then ns.cur.acc.map fun a => (a.firstAt, a.lastAt) else none
  l.foldl (fun o x => match o with | none => some x | some y => some (min y.1 x.1, max y.2 x.2)) none

/-- A boundary slot's cue that leaves its root is an apply point of its partition, whatever its STATUS (R134); what an abort sends
makes it one later in the same TCLK. -/
def applyAfter (slot : Nat) (s : State) : State :=
  match slotOwner s slot with
  | some p =>
    if boundary s p = slot then afterT 0 (.emptyBoundaryApply p) { s with su := { s.su with abortWait := s.su.abortWait ||| (1#64 <<< p) } }
    else s
  | none => s

/-- Ends the open epoch of a slot at `root` without a complete set: ABORTED to the pending members, by the stalls given;
`nx` is the epoch then open. -/
def abortTo (nx : W32) (slot : Nat) (root : Place) (stalls : List Nat) (s : State) : State :=
  let e := epochOf s slot
  let w := (arrivalSpan s slot).getD (s.clk.tclk, s.clk.tclk)
  let c := { cueFor s slot e stAborted stalls with abort := true, host := hostIn s slot, next := nx, firstAt := w.1, lastAt := w.2,
                                                   notes := if isCount s slot then pendingOn s slot else [] }
  let s0 := unschedule (fun i => i == .rootDecision root slot) s
  let s1 := if isCount s slot then purgeCount slot nx s0 else passRoot root slot e nx s0
  applyAfter slot (startDown root c (cueOut root c (setEpoch slot nx s1)))

def abortSlot (slot : Nat) (root : Place) (stalls : List Nat) (s : State) : State :=
  abortTo (epochOf s slot + 1) slot root stalls s

/-- Whether some node holds an arrival of the slot's open epoch (R74). -/
def holdsArrival (s : State) (slot : Nat) : Bool :=
  let e := epochOf s slot
  s.tree.nodes.any fun x => x.1 % 512 == slot &&
    ((x.2.epoch == e && !x.2.cur.kids.isEmpty) || (x.2.epoch + 1 == e && !x.2.nxt.kids.isEmpty) || !x.2.late.isEmpty
      || (isCount s slot && (!x.2.cur.kids.isEmpty || x.2.recs.any (·.epoch.isNone))))

/-! ## Loss of a span (R208) -/

/-- Drops what waits to be sent for a span, but for a cue decided before the loss on its way to a port that is not lost (R208, R209). -/
def dropQueued (id : BitVec 20) (skip : Option Nat) (s : State) : State :=
  { s with fab := { s.fab with reinQ := s.fab.reinQ.filter fun o =>
      !(o.pkt.span == id && 1 ≤ o.pkt.fkind.toNat && o.pkt.fkind.toNat ≤ 4 && (o.pkt.fkind != 2 || skip == some o.port)) } }

/-- Whether a cue decided at this die, or received by it, has still to leave its die root (R209). -/
def cueWaits (s : State) (slot : Nat) : Bool :=
  s.fab.sched.any (fun x => x.slot == slot) || s.tree.held.any (fun h => h.cue.slot == slot) || s.tree.undos.any (fun u => u.cue.slot == slot || u.later.any fun x => x.slot == slot)

/-- The next epoch at the die root of a BROKEN span: a partial that had left counts no more, and the set is looked at again (R208). -/
def reopen (slot : Nat) (s : State) : State := setNode .die slot { node s .die slot with sent := false, sentN := false } s

/-- The open epoch ends in the TCLK of detection, or, where a cue decided before is still to leave this die root, after that cue
(R208, R209; log 112). -/
def endEpoch (slot e : Nat) (s : State) : State :=
  if cueWaits s slot then
    setSpan e { spanState s e with broken := true, abortNext := true } (setNode .die slot { node s .die slot with sent := true } s)
  else
    let s1 := abortSlot slot .die (memberStalls s slot) s
    reopen slot (setSpan e { spanState s1 e with broken := true } s1)

/-- The three actions of R208 on one entry; `skip` is the port that was lost or brought the SPAN_ABORT. -/
def loseSpan (skip : Option Nat) (e : Nat) (s : State) : State :=
  if !spanValid s e || (spanState s e).broken then s
  else
    let slot := spanSlot s e
    let pkt := spanPkt s slot 5 ((epochOf s slot).setWidth 6)
    let s1 := endEpoch slot e (dropQueued pkt.span skip s)
    let s2 := ((spanPorts s e).filter fun p => skip != some p).foldl (fun a p => sendSpan p slot a.clk.tclk pkt a) s1
    settle .die slot (match slotOwner s2 slot with | some p => event p 0x05 (BitVec.ofNat 32 (slotRel s2 p slot)) 0 s2 | none => s2)

/-- A cue of the slot has left the die root of a BROKEN span: the epoch that waited for it ends now (R208). -/
def abortWaiting (slot : Nat) (s : State) : State :=
  let e := spanOf s slot
  if spanRooted s slot && (spanState s e).abortNext && !cueWaits s slot then
    let s1 := abortSlot slot .die (memberStalls s slot) s
    settle .die slot (reopen slot (setSpan e { spanState s1 e with abortNext := false } s1))
  else s

/-- The valid entries, not BROKEN, whose tree uses a port. -/
def spansOn (s : State) (port : Nat) : List Nat :=
  (List.range 128).filter fun e => spanValid s e && !(spanState s e).broken && (spanPorts s e).contains port

/-- A link-loss record names the port and every span affected. -/
def lossReport (port : Nat) (es : List Nat) (s : State) : State :=
  report 0x0D (portUnit port) port none (port :: es.map fun e => fld s (spanKey e 0) 19 0) s

/-- The loss of a port for the spans given. -/
def linkLoss (port : Nat) (es : List Nat) (s : State) : State :=
  lossReport port es (es.foldl (fun a e => loseSpan (some port) e a) s)

/-- As if all ports of the spans given were lost (R206, R222): a record for each port that their trees use. -/
def allPortsLost (es : List Nat) (s : State) : State :=
  (es.flatMap (spanPorts s)).eraseDups.foldl (fun a p => lossReport p (es.filter fun e => (spanPorts s e).contains p) a)
    (es.foldl (fun a e => loseSpan none e a) s)

/-! ## Ports -/

def fabPort (s : State) (p : Nat) : FabPort := Tbl.get FabPort.none s.fab.ports p
def setFabPort (p : Nat) (x : FabPort) (s : State) : State := { s with fab := { s.fab with ports := Tbl.set FabPort.none p x s.fab.ports } }

/-- Ports in use: a trained tug; a valid, reachable rein peer while the optical link is up (R192, R207, Table PAR-7). -/
def portUp (s : State) (p : Nat) : Bool :=
  if p < 4 then (fabPort s p).up && !isolated s 4 p
  else s.fab.reinUp && bitB (reg s (0x6040 + 4 * (p - 8))) 31 && !(fabPort s p).cut

def ports : List Nat := List.range 4 ++ (List.range 16).map (8 + ·)

/-- The loss of a port (R207, R208). -/
def portLost (port : Nat) (s : State) : State :=
  linkLoss port (spansOn s port) (setFabPort port { fabPort s port with lost := true } s)

/-- Whether the house clock carries fabric spans (R206). -/
def clockHolds (s : State) : Bool :=
  s.house.state == .locked || s.house.state == .holdover
    || (s.house.state == .free && fld s 0x0100 31 30 == 0 && bitB (reg s 0x0100) 23)

/-- Every fabric-level entry is handled as lost (R206). -/
def clockLost (s : State) : State :=
  let es := (List.range 128).filter fun e => spanValid s e && spanLevel s e && !(spanState s e).broken
  if es.isEmpty then s else allPortsLost es s

/-- An entry that applies over a port not in use, or on a fabric level without the clock (R312). -/
def checkSpan (e : Nat) (s : State) : State :=
  if !spanValid s e then s
  else match (spanPorts s e).find? fun p => !portUp s p with
    | some p => linkLoss p [e] s
    | none => if spanLevel s e && !clockHolds s then allPortsLost [e] s else s

end Sys2Proof.Machine
end

