-- ==== Sys2Proof/Machine/Apply.lean ====
section
/-! DEFINITION. Apply points (R18, R73, R74, R95, R134 to R136, R187, R236, R284, R332, R333, R338): staged values are checked and
put in force. -/

namespace Sys2Proof.Machine

/-! ## Staged words -/

def stagedKeys (s : State) : List Nat := s.staged.map (·.1)
def ackedKeys (s : State) : List Nat := (s.staged.filter fun x => x.2.mask != 0).map (·.1)

def isRosterKey (k : Nat) : Bool := 0x20000 ≤ k && k < 0x20000 + nStirrup
def isGaitKey (k : Nat) : Bool := 0x4040 ≤ k && k < 0x4200
def isTraceKey (k : Nat) : Bool := k == 0x5000 || (0x5040 ≤ k && k < 0x5080)
def isUsKey (k : Nat) : Bool := 0x8000 ≤ k && k < 0x8048
def isSlotKey (k : Nat) : Bool := 0x2000 ≤ k && k < 0x4000
def isMemberKey (k : Nat) : Bool := 0x30000 ≤ k && k < 0x30000 + 54 * 512
def isObjKey (k : Nat) : Bool := 0x40000 ≤ k && k < 0x44000
def isSpanKey (k : Nat) : Bool := 0x6100 ≤ k && k < 0x6900
def isWpKey (k : Nat) : Bool := 0x4400 ≤ k && k < 0x4600
def isVerdKey (k : Nat) : Bool := 0x4900 ≤ k && k < 0x4A00
def isPartKey (k : Nat) : Bool := 0x1000 ≤ k && k < 0x2000

/-- A die-wide word other than the roster (R135). -/
def isDieWide (k : Nat) : Bool := isGaitKey k || isTraceKey k || isUsKey k

/-- The slot a slot or member word belongs to. -/
def keySlot (k : Nat) : Nat := if isMemberKey k then (k - 0x30000) / 54 else (k - 0x2000) / 16

/-- The partition that owns a WB word (R71, R186, R235, R284). -/
def keyOwner (s : State) (k : Nat) : Option Nat :=
  if isPartKey k then some ((k - 0x1000) / 64)
  else if isSlotKey k || isMemberKey k then slotOwner s (keySlot k)
  else if isSpanKey k then slotOwner s (bitsN (stagedWord s (spanKey ((k - 0x6100) / 16) 0)) 28 20)
  else if isObjKey k then objOwner s (decide (0x42000 ≤ k)) (k % 0x2000)
  else if isVerdKey k then some ((k - 0x4900) / 4)
  else if isWpKey k then some (fld s (k - k % 32) 24 19)
  else none

/-- Takes a set of staged words into force. -/
def applyWords (keys : List Nat) (s : State) : State := keys.foldl (fun a k => applyWord k a) s

/-- Discards a set of staged words that a check rejects (R338). -/
def dropWords (keys : List Nat) (s : State) : State := keys.foldl (fun a k => settleStage k a) s

/-! ## Reshaping slots (R74, R95) -/

/-- Whether a node belongs to the masks of a root and its stalls. -/
def inMask (root : Place) (stalls : List Nat) (at_ : Place) : Bool :=
  decide (at_.lvl ≤ root.lvl) && (match at_ with
    | .stall k => stalls.contains k
    | .barn b => stalls.any fun k => barnOf k == b
    | .half h => stalls.any fun k => halfOf (barnOf k) == h
    | .die => root == .die
    | .stirrup _ => false)

/-- The nodes from a stall upwards. -/
def above (k : Nat) : List Place := [.stall k, .barn (barnOf k), .half (halfOf (barnOf k)), .die]

/-- A member as its region and its rail have it: asleep in a SLEEP_ABSTAIN slot it abstains until the region wakes (R88 items 1 and 4);
isolated it abstains until it rejoins (item 3). One that already abstains until REJOIN keeps its own abstention (log 118). -/
def memberSync (slot st : Nat) (s : State) : State :=
  let at_ := Place.stall (stallOf st)
  let ab := (node s at_ slot).abst
  let own := ab.any fun x => x.member == st && x.k == 0
  if (stir s st).iso then (if own then s else abstainAt at_ slot st 0 false s)
  else if bitB (slotCfg s slot) 27 && s.pwr.sleep.getLsbD (barnOfStirrup st) then (if own then s else abstainAt at_ slot st 0 true s)
  else if ab.any (fun x => x.member == st && x.asleep) then rejoinAt at_ slot st s else s

/-- Every member of a slot, likewise. -/
def slotSync (slot : Nat) (s : State) : State := (members s slot).foldl (fun a st => memberSync slot st a) s

/-- Nodes new to a slot's masks start at its open epoch; then every node that holds state of the slot settles. -/
def reinit (slot : Nat) (root : Place) (stalls : List Nat) (s : State) : State :=
  let e := epochOf s slot
  let now := rootOf s slot
  let mine := memberStalls s slot
  let fresh := (((mine.flatMap above) ++ [now]).eraseDups).filter fun n => inMask now mine n && !inMask root stalls n
  let s1 := fresh.foldl (fun a n => setNode n slot { NodeSlot.none with epoch := e } a) s
  let nodes := ((mine.flatMap above) ++ [now]).eraseDups.filter fun n => inMask now mine n && Tbl.has s1.tree.nodes (nodeKey n slot)
  nodes.foldl (fun a n => settle n slot a) s1

/-- What was a count slot takes the root's epoch in every node: a node that its cues did not reach lags behind (R81, R90). -/
def recount (slot : Nat) (s : State) : State :=
  let e := epochOf s slot
  let nodes := (((memberStalls s slot).flatMap above) ++ [rootOf s slot]).eraseDups.filter fun n => inMask (rootOf s slot) (memberStalls s slot) n
  nodes.foldl (fun a n => setNode n slot { node a n slot with epoch := e } a) s

/-- Changes slots: epochs that hold arrivals abort first, by the masks in force before (R74). -/
def reshape (slots : List Nat) (f : State → State) (s : State) : State :=
  let old := slots.map fun i => (i, rootOf s i, memberStalls s i, isCount s i)
  let s1 := old.foldl (fun a o => if holdsArrival a o.1 then abortSlot o.1 o.2.1 o.2.2.1 a else a) s
  old.foldl (fun a o => slotSync o.1 (reinit o.1 o.2.1 o.2.2.1 (if o.2.2.2 then recount o.1 a else a))) (f s1)

/-- The enabled slots of `p` whose members are its assigned tiles. -/
def basicSlots (s : State) (p : Nat) : List Nat :=
  (List.range 512).filter fun i => bitB (slotCfg s i) 31 && !bitB (slotCfg s i) 25 && slotOwner s i == some p

/-! ## Roster changes (R332, R333) -/

/-- Staged entries that change something. -/
def rosterKeys (s : State) : List Nat := (stagedKeys s).filter fun k => isRosterKey k && stagedWord s k != reg s k

def touches (s : State) (k : Nat) : List Nat := [wPart (reg s k), wPart (stagedWord s k)].eraseDups

/-- The partitions linked with those of `set`. -/
def linked (pairs : List (List Nat)) : Nat → List Nat → List Nat
  | 0, set => set
  | n + 1, set => linked pairs n ((pairs.filter fun q => q.any set.contains).foldl (fun a q => (a ++ q).eraseDups) set)

def component (s : State) (p : Nat) : List Nat :=
  let pairs := (rosterKeys s).map (touches s)
  linked pairs (min 64 pairs.length) [p]

/-- The staged entries of a change. -/
def changeOf (s : State) (parts : List Nat) : List Nat := (rosterKeys s).filter fun k => (touches s k).any parts.contains

/-- The entry of stirrup `st` were the change in force. -/
def rosterThen (s : State) (keys : List Nat) (st : Nat) : W32 :=
  if keys.contains (rosterKey st) then nextWord s (rosterKey st) else rosterWord s st

def wEpoch (w : W32) : Nat := bitsN w 9 0

/-- The assigned stirrups of `p` with VTILE, by the given roster. -/
def tilesBy (r : Nat → W32) (p : Nat) : List (Nat × Nat) :=
  ((List.range nStirrup).filter fun st => wAssigned (r st) && wPart (r st) == p).map fun st => (st, wVtile (r st))

/-- The first row of Table INT-10 that fails; 0 for none. -/
def rosterRow (s : State) (keys : List Nat) : Nat :=
  let r := rosterThen s keys
  let all := List.range nStirrup
  let chg := (keys.map fun k => k - 0x20000).filter fun st => wAssigned (r st)
  let parts := (keys.flatMap (touches s)).eraseDups
  if chg.any fun a => all.any fun b => a != b && wAssigned (r b) && wVtile (r a) == wVtile (r b) then 1
  else if chg.any fun a => s.boot.logical ≤ wVtile (r a) then 2
  else if chg.any fun a => !s.boot.good.getLsbD a then 3
  else if parts.any fun p => (match tilesBy r p with
      | [] => false
      | (a, _) :: t => t.any fun b => wEpoch (r b.1) != wEpoch (r a)) then 4
  else if chg.any fun a => (part s (wPart (r a))).state == .free then 5
  else if parts.any fun p =>
      (let was := tilesBy (rosterWord s) p
       let now := tilesBy r p
       match was, now with
       | (a, _) :: _, (b, _) :: _ => was != now && wEpoch (rosterWord s a) == wEpoch (r b)
       | _, _ => false) then 6
  else 0

/-- Puts a change in force: new stamps follow R61. -/
def putRoster (keys : List Nat) (s : State) : State :=
  keys.foldl (fun a k =>
    let st := k - 0x20000
    let a1 := applyWord k a
    tryRole st (updStir st (fun x => { x with newRole := some (reg a1 k) }) a1)) s

/-- A roster change at its apply point (R96, R333). -/
def applyChange (keys : List Nat) (s : State) : State :=
  let now := keys.filter fun k => (stagedAt s k).mask != 0
  if now.isEmpty then s
  else
    let row := rosterRow s now
    if row ≠ 0 then
      entryReject 0x0804 0 row 0 (match (now.flatMap (touches s)).eraseDups with | [p] => some p | _ => none) { dropWords now s with tree := { s.tree with stageErr := Tbl.set 0 0x080C row s.tree.stageErr } }
    else
      let slots := ((now.flatMap (touches s)).eraseDups).flatMap (basicSlots s)
      reshape slots (putRoster now) { s with tree := { s.tree with stageErr := Tbl.erase 0x080C s.tree.stageErr } }

def applyRosterOf (p : Nat) (s : State) : State :=
  if component s p = [p] then applyChange (changeOf s [p]) s else s

/-! ## Partition entries (R236, R241) -/

def slotWords : List Nat := [0x18, 0x1C]
def semWords : List Nat := [0x20, 0x24, 0x28, 0x2C]
def tokWords : List Nat := [0x30, 0x34]
def tallyWords : List Nat := [0x38, 0x3C]
def mapWords : List Nat := slotWords ++ semWords ++ tokWords ++ tallyWords

/-- The bits of a map in words `base`, as `f` reads them. -/
def groupsOf (words : List Nat) (f : Nat → W32) : List Nat :=
  words.zipIdx.flatMap fun w => ((List.range 32).filter fun i => bitB (f w.1) i).map (32 * w.2 + ·)

/-- Groups by kind: 0 slots, 1 semaphores, 2 token pools, 3 tallies. -/
def allGroups (f : Nat → W32) : List (Nat × Nat) :=
  (groupsOf slotWords f).map (fun g => (0, g)) ++ (groupsOf semWords f).map (fun g => (1, g))
    ++ (groupsOf tokWords f).map (fun g => (2, g)) ++ (groupsOf tallyWords f).map (fun g => (3, g))

/-- The group an exact or home command of a stirrup names. -/
def cmdGroup (w : W32) : Option (Nat × Nat) :=
  match cClass w with
  | 0 => some (0, cId w / 8)
  | 1 => some (if 0x10 ≤ (cOp w).toNat then (2, cId w / 32) else (1, cId w / 64))
  | 2 => some (3, cId w / 16)
  | 4 => if (cOp w).toNat ≤ 1 then some (0, cId w / 8) else none
  | _ => none

/-- The group of an object. -/
def objGroup (tok : Bool) (i : Nat) : Nat × Nat := if tok then (2, i / 32) else (1, i / 64)

/-- The groups that a descriptor names by the ids of its check (R241). -/
def descGroups (d : DescState) : List (Nat × Nat) :=
  match descOp d.x with
  | 1 => d.ids.map fun i => (0, i / 8)
  | 2 => d.ids.map fun i => objGroup false i
  | 3 => d.ids.flatMap fun i => if descBits d.x 1 20 16 = 0x13 then [objGroup true i, objGroup true (i + 1)] else [objGroup true i]
  | 4 => d.ids.map fun i => (3, i / 16)
  | 5 => d.ids.map fun i => match descBits d.x 1 1 0 with | 0 => (0, i / 8) | 1 => objGroup false i | _ => objGroup true i
  | 6 => ((d.ids.drop 1).take 1).map (fun i => (0, i / 8))
      ++ (if descBits d.x 1 11 11 = 1 then (d.ids.drop 2).map (objGroup false) else [])
  | _ => []

/-- The checked home request a packet on its way carries. -/
def homeOnLink : Instr → Option HomeReq
  | .partialArrival (.stall _) _ => none
  | .partialArrival _ (.home r) => some r
  | .signalCombining (.barn _) r => some r
  | _ => none

/-- Whether a home request or response of an owner that `q` names is on its way or at the home, on an object of the group. -/
def homeOutstanding (s : State) (q : Nat → Bool) (g : Nat × Nat) : Bool :=
  let req := fun (r : HomeReq) (entry : Option Nat) => q r.part && g == objGroup r.tok (if entry.isSome then r.obj + 1 else r.obj)
  let ev := fun (e : Instr) => match homeOnLink e, itemOf e with
    | some r, _ => req r none
    | none, some it => req it.req it.entry
    | none, none => match e with
      | .homeRsp _ r => q (bitsN r.role 15 10) && g == objGroup r.tok r.obj
      | _ => false
  s.agenda.any (fun t => ev t.ev) || s.tree.links.any (fun i => ev i.ev) || s.home.crossing.any (fun c => req c.req c.entry)
    || s.home.input.any (fun i => i.2.any fun it => req it.req it.entry) || s.tree.merges.any fun m => !m.sent && req m.first none

/-- Whether an operation checked on a group under an owner that `q` names is outstanding (R241). -/
def outstandingOf (s : State) (q : Nat → Bool) (g : Nat × Nat) : Bool :=
  s.stirs.any (fun x => q (stirPart x.2) && (
      x.2.homeQ.any (fun c => cmdGroup c.word == some g) || x.2.homeFly.any (fun f => cmdGroup f.req.word == some g)
      || x.2.exactFly.any (fun f => cmdGroup f.cmd.word == some g)
      || (match x.2.call with | some c => !c.boot && g == (0, c.slot / 8) | none => false)))
    || homeOutstanding s q g
    || (g.1 == 0 && (s.tree.held.any (fun h => h.cue.slot / 8 == g.2 && q (bitsN h.cue.role 15 10))
        || s.tree.waves.any (fun h => h.cue.slot / 8 == g.2 && q (bitsN h.cue.role 15 10))))
    || (g.1 == 3 && s.tly.due.any fun d => match d.act with | .cmd r => q r.part && g == (3, r.tally / 16) | .report _ _ _ _ => false)
    || s.hq.descs.any (fun d => q d.x.part && d.decoded && d.refusal == 0 && (descGroups d).contains g)
    || s.hq.hostCall.any (fun h => q h.2.part && g == (0, h.1 / 8))

def outstandingOther (s : State) (p : Nat) (g : Nat × Nat) : Bool := outstandingOf s (· != p) g

/-- The first row of Table PAR-2 that fails; 0 for none. -/
def partRow (s : State) (p : Nat) : Nat :=
  let nx := fun o => nextWord s (partKey p o)
  let added := (allGroups nx).filter fun g => !(allGroups fun o => reg s (partKey p o)).contains g
  let others := (List.range 64).filter fun q => q != p
  let b := if p = 0 then 0 else bitsN (nx 0) 20 12
  let pas := nx 4
  let was := reg s (partKey p 4)
  if others.any fun q => mapWords.any fun o =>
      (nx o &&& ((if (part s q).state = .free then 0 else reg s (partKey q o)) ||| stagedWord s (partKey q o))) != 0 then 1
  else if added.any (outstandingOther s p) then 2
  else if !bitB (nx (0x18 + 4 * (b / 8 / 32))) (b / 8 % 32) || !bitB (nextWord s (slotKey b 0)) 31 then 3
  else if bitB was 31 && (bitB pas 31 != bitB was 31 || bitsN pas 19 0 != bitsN was 19 0) then 4
  else if bitB pas 31 && others.any fun q => bitB (reg s (partKey q 4)) 31 && bitsN (reg s (partKey q 4)) 19 0 == bitsN pas 19 0 then 5
  else if p == 0 && [0x18, 0x20, 0x30, 0x38].any fun o => !bitB (nx o) 0 then 6
  else 0

/-- The slots, objects and tallies of a group. -/
def groupSlots (g : Nat × Nat) : List Nat := if g.1 = 0 then (List.range 8).map (8 * g.2 + ·) else []

def inGroup (g : Nat × Nat) (tok : Bool) (i : Nat) : Bool := if tok then g == (2, i / 32) else g == (1, i / 64)

/-- The tallies of the groups. -/
def groupTallies (gs : List (Nat × Nat)) : List Nat :=
  (gs.filter fun g => g.1 == 3).flatMap fun g => (List.range 16).map (16 * g.2 + ·)

/-- Groups leave an allocation: their waiters abort, their tallies are reset as by R182, their objects read 0 (R241). -/
def clearGroups (gs : List (Nat × Nat)) (s : State) : State :=
  let s1 := abortWaiters (fun _ w => w.links.any fun l => gs.any fun g => inGroup g l.1 l.2.1) s
  let s2 := clearObjs (fun tok i => gs.any fun g => inGroup g tok i) s1
  (groupTallies gs).foldl (fun a t => resetTally t a) s2

/-- Groups enter an allocation: their objects read 0 with reset configuration (R241, Table PAR-4). -/
def freshGroups (gs : List (Nat × Nat)) (s : State) : State :=
  let s1 := clearObjs (fun tok i => gs.any fun g => inGroup g tok i) s
  (groupTallies gs).foldl (fun a t => setTally t Tally.none { a with tly := { a.tly with start := Tbl.erase t a.tly.start } }) s1

/-- Aborts the epochs of a group's slots that hold arrivals. -/
def abortGroups (gs : List (Nat × Nat)) (s : State) : State :=
  (gs.flatMap groupSlots).foldl (fun a i => if holdsArrival a i then abortSlot i (rootOf a i) (memberStalls a i) a else a) s

def groupsIn (s : State) (p : Nat) : List (Nat × Nat) := allGroups fun o => reg s (partKey p o)

/-- Changes `p`'s entry by `f`, with the effects of R241 on the groups removed and added. -/
def changeMap (p : Nat) (f : State → State) (s : State) : State :=
  let was := groupsIn s p
  let now := groupsIn (f s) p
  let gone := was.filter fun g => !now.contains g
  freshGroups (now.filter fun g => !was.contains g) (f (clearGroups gone (abortGroups gone s)))

/-- Puts the given words of `p`'s entry in force. -/
def putPart (p : Nat) (keys : List Nat) (s : State) : State := changeMap p (applyWords keys) s

def partKeysOf (s : State) (p : Nat) : List Nat := (ackedKeys s).filter fun k => isPartKey k && (k - 0x1000) / 64 == p

/-- A partition's staged entry at its apply point; `true` where a row failed. -/
def applyPart (p : Nat) (s : State) : State × Bool :=
  let keys := partKeysOf s p
  if keys.isEmpty then (s, false)
  else
    let row := partRow s p
    if row ≠ 0 then (entryReject (partKey p 0) p row p (some p) (dropWords keys s), true) else (putPart p keys s, false)

/-! ## Span entries (R187, R188) -/

/-- The root level a LEVEL names. -/
def levelRoot (fabric : Bool) : Nat := if fabric then 5 else 4

def peerValid (s : State) (i : Nat) : Bool := bitB (reg s (0x6040 + 4 * i)) 31

/-- The first of rows 1 to 5 of Table FAB-5 that an entry fails; 0 for none. -/
def spanRow (s : State) (e : Nat) : Nat :=
  let id := nextWord s (spanKey e 0)
  let tr := nextWord s (spanKey e 4)
  let bd := nextWord s (spanKey e 8)
  let slot := bitsN id 28 20
  let cfg := nextWord s (slotKey slot 0)
  let up := bitsN tr 31 29
  let fabric := bitB id 30
  if bitB id 31 && (bitsN cfg 24 22 != levelRoot fabric || bitsN (nextWord s (slotKey slot 8)) 20 14 != e) then 1
  else if bitB id 29 != (up == 0) then 2
  else if !fabric && (up == 5 || bitsN tr 20 5 != 0) then 3
  else if (up == 5 && !peerValid s (bitsN tr 24 21)) || (List.range 16).any (fun i => bitB tr (5 + i) && !peerValid s i) then 4
  else if bitB id 29 && ((!fabric && bitsN bd 23 20 == 0) || (fabric && bitsN bd 19 0 == 0)) then 5
  else 0

/-- UHK_SPAN_ID of entry `f` once the entries `es` have applied. -/
def spanThen (s : State) (es : List Nat) (f : Nat) : W32 :=
  if es.contains f then nextWord s (spanKey f 0) else reg s (spanKey f 0)

/-- Whether entry `e` shares its SPANID or SLOT with another valid entry once `es` have applied (row 6 of Table FAB-5). -/
def spanClash (s : State) (es : List Nat) (e : Nat) : Bool :=
  let w := spanThen s es e
  bitB w 31 && (List.range 128).any fun f =>
    let v := spanThen s es f
    f != e && bitB v 31 && (bitsN v 19 0 == bitsN w 19 0 || bitsN v 28 20 == bitsN w 28 20)

/-- The entries of `es` that row 6 leaves: one that clashes keeps its previous contents, and the others are looked at again. -/
def spanKept (s : State) : Nat → List Nat → List Nat
  | 0, es => es
  | n + 1, es => let l := es.filter fun e => !spanClash s es e
                 if l.length = es.length then es else spanKept s n l

/-- A cue of a slot under way, whose passing now leaves epoch 0 open (R188). -/
def cueTo0 (slot : Nat) (e : W32) (c : Cue) : Cue := if c.slot = slot ∧ c.next = e then { c with next := 0 } else c

def evTo0 (slot : Nat) (e : W32) : Instr → Instr
  | .cueArrival n c => .cueArrival n (cueTo0 slot e c)
  | .waveRelease k c => .waveRelease k (cueTo0 slot e c)
  | i => i

/-- The slot's epoch on this die becomes 0: in the nodes the latest cue has passed at once, in the others with that cue (R188). -/
def epochTo0 (slot : Nat) (s : State) : State :=
  let e := epochOf s slot
  if e = 0 then s
  else
    let t := s.tree
    setEpoch slot 0 { s with
      agenda := s.agenda.map (fun x => { x with ev := evTo0 slot e x.ev }),
      fab := { s.fab with sched := s.fab.sched.map fun x => { x with cue := cueTo0 slot e x.cue } },
      tree := { t with
        links := t.links.map (fun i => { i with ev := evTo0 slot e i.ev }),
        held := t.held.map (fun h => { h with cue := cueTo0 slot e h.cue }),
        waves := t.waves.map (fun w => { w with cue := cueTo0 slot e w.cue }),
        undos := t.undos.map (fun u => { u with cue := cueTo0 slot e u.cue }),
        nodes := t.nodes.map fun n => if n.1 % 512 = slot && n.2.epoch == e then (n.1, restart e 0 n.2) else n } }

/-- An accepted entry: its slot's epoch returns to 0 on this die and BROKEN clears (R188, R208); then R312. -/
def putSpan (e : Nat) (keys : List Nat) (s : State) : State :=
  let slot := bitsN (nextWord s (spanKey e 0)) 28 20
  let s1 := if holdsArrival s slot then abortTo 0 slot (rootOf s slot) (memberStalls s slot) s else epochTo0 slot s
  checkSpan e (setSpan e SpanState.none (applyWords keys s1))

def spanKeysOf (s : State) (e : Nat) : List Nat := (ackedKeys s).filter fun k => isSpanKey k && (k - 0x6100) / 16 == e

/-- A staged entry, rejected by the row given or put in force. -/
def applySpan (row e : Nat) (s : State) : State :=
  let keys := spanKeysOf s e
  if row ≠ 0 then entryReject (spanKey e 0) e row e none (dropWords keys s) else putSpan e keys s

/-- The staged entries of an apply point (R187). -/
def applySpans (p : Nat) (s : State) : State :=
  let es := (((ackedKeys s).filter fun k => isSpanKey k && keyOwner s k == some p).map fun k => (k - 0x6100) / 16).eraseDups
  let good := es.filter fun e => spanRow s e = 0
  let kept := spanKept s good.length good
  (es.map fun e => (if kept.contains e then 0 else if spanRow s e = 0 then 6 else spanRow s e, e)).foldl (fun a x => applySpan x.1 x.2 a) s

/-! ## Slot entries (R73, Table BAR-5) -/

/-- The member bit of a stirrup were the staged set in force. -/
def memberBitThen (s : State) (slot st : Nat) : Bool := bitB (nextWord s (memberKey slot (st / 32))) (st % 32)

def slotRow (s : State) (slot : Nat) : Nat :=
  let cfg := nextWord s (slotKey slot 0)
  let n := bitsN (nextWord s (slotKey slot 4)) 10 0
  let pl := nextWord s (slotKey slot 8)
  let own := slotOwner s slot
  let mem := match own with
    | some p => (List.range nStirrup).filter fun st => if bitB cfg 25 then memberBitThen s slot st else assignedTo s p st
    | none => []
  let op : BitVec 5 := BitVec.ofNat 5 (bitsN cfg 14 10)
  let fmt : BitVec 4 := BitVec.ofNat 4 (bitsN cfg 9 6)
  let mode := bitsN cfg 30 29
  let root := bitsN cfg 24 22
  let rn := bitsN cfg 21 15
  let host := bitB cfg 26
  let total := mem.length + host.toNat
  let sp := bitsN pl 20 14
  if !permitted op fmt then 1
  else if isX op && slot < 448 then 2
  else if mode == 1 && (op != opNONE || fmt != fmtNONE || n == 0 || total < n || root == 4 || root == 5) then 3
  else if mode == 2 && (op != opSUMWRAP || fmt != fmtINT64) then 4
  else if bitB cfg 28 && mode != 0 then 5
  else if bitB cfg 25 && mem.any (fun st => match own with | some p => !assignedTo s p st | none => true) then 6
  else if (root == 0 && (108 ≤ rn || mem.any fun st => stallOf st != rn)) || (root == 1 && (18 ≤ rn || mem.any fun st => barnOfStirrup st != rn))
      || (root == 2 && (2 ≤ rn || mem.any fun st => st / 864 != rn)) then 7
  else if host && root ≤ 2 then 8
  else if (root == 4 || root == 5) && !(spanValid s sp && bitsN (reg s (spanKey sp 0)) 28 20 == slot) then 9
  else if bitB cfg 31 && mem.isEmpty && !host && !(match own with | some p => boundary s p == slot | none => false) then 10
  else 0

def rejectEvent (s : State) (p kind rel : Nat) : State := event p 0x06 (BitVec.ofNat 32 (kind + rel * 2 ^ 16)) 0 s

def applySlot (p slot : Nat) (s : State) : State :=
  let keys := (ackedKeys s).filter fun k => (isSlotKey k || isMemberKey k) && keySlot k == slot
  if keys.isEmpty then s
  else
    let row := slotRow s slot
    if row ≠ 0 then
      rejectEvent (entryReject (slotKey slot 0) slot row slot (some p) (setStageErr (slotKey slot 8) true (dropWords keys s))) p 0 (slotRel s p slot)
    else setStageErr (slotKey slot 8) false (reshape [slot] (applyWords keys) s)

def applySlots (p : Nat) (s : State) : State :=
  let l := (((ackedKeys s).filter fun k => (isSlotKey k || isMemberKey k) && keyOwner s k == some p).map keySlot).eraseDups
  l.foldl (fun a i => applySlot p i a) s

/-! ## Object words, verdict words, watchpoints (R153, R284) -/

/-- TAGCAP of the tagged pools in force, pool `i` left out. -/
def tagReserved (s : State) (i : Nat) : Nat :=
  (s.force.filter fun f => 0x42000 ≤ f.1 ∧ f.1 < 0x44000 ∧ f.1 ≠ objCfgKey true i ∧ bitB f.2 29).foldl (fun a f => a + bitsN f.2 15 0) 0

def applyObj (p k : Nat) (s : State) : State :=
  let tok := decide (0x42000 ≤ k)
  let i := k % 0x2000
  let w := nextWord s k
  let o := obj s tok i
  let bad := tok && ((bitB w 29 && 32768 < tagReserved s i + bitsN w 15 0)
    || (bitB w 29 != bitB (reg s k) 29 && (o.val != 0 || !o.fifo.isEmpty)))
  if bad then
    rejectEvent (entryReject 0x08C8 w.toNat i i (some p) (settleStage k s)) p (if tok then 2 else 1)
      ((if tok then owned s p 0x30 32 2048 else owned s p 0x20 64 8192).filter (· < i)).length
  else applyWord k s

def applyObjects (p : Nat) (s : State) : State :=
  let l := (ackedKeys s).filter fun k => isObjKey k && keyOwner s k == some p
  let s1 := l.foldl (fun a k => applyObj p k a) s
  applyWords ((ackedKeys s1).filter fun k => isVerdKey k && keyOwner s1 k == some p) s1

def wpGrant (s : State) (w : Nat) : Bool := bitB (reg s (wpKey w 0)) 25

/-- The relative watchpoints of `p` (R284). -/
def granted (s : State) (p : Nat) : List Nat := (List.range 16).filter fun w => wpOwner s w == p && wpGrant s w

def applyWp (p w : Nat) (s : State) : State :=
  let keys := (ackedKeys s).filter fun k => isWpKey k && (k - 0x4400) / 32 == w
  if keys.isEmpty then s
  else
    let ctl := nextWord s (wpKey w 0)
    let bad := slotOwner s (bitsN ctl 8 0) != some p || (bitB ctl 28 && objOwner s false (bitsN (nextWord s (wpKey w 0x10)) 12 0) != some p)
    if bad then
      rejectEvent (entryReject (wpKey w 0) w 1 w (some p) (setStageErr (wpKey w 0) true (dropWords keys s))) p 3 ((granted s p).filter (· < w)).length
    else setStageErr (wpKey w 0) false (applyWords keys s)

def applyWatch (p : Nat) (s : State) : State :=
  let l := (((ackedKeys s).filter fun k => isWpKey k && keyOwner s k == some p).map fun k => (k - 0x4400) / 32).eraseDups
  l.foldl (fun a w => applyWp p w a) s

/-! ## A partition's apply point (R134, R338); before the stage-2 switch it applies nothing (Table BOO-3) -/

def clearBit64 (w : W64) (i : Nat) : W64 := w &&& ~~~ (1#64 <<< i)
def setBit64 (w : W64) (i : Nat) : W64 := w ||| (1#64 <<< i)

def applyPoint (p : Nat) (s0 : State) : State :=
  if s0.boot.reduced then { s0 with su := { s0.su with dwWait := clearBit64 s0.su.dwWait p } } else
  let s := s0
  let s1 := applyRosterOf p s
  let s2 := (applyPart p s1).1
  let s3 := applyWatch p (applyObjects p (applySlots p (applySpans p s2)))
  { s3 with su := { s3.su with dwWait := clearBit64 s3.su.dwWait p } }

/-- Whether a partition's boundary slot has no member in force, so that it never cues (R134). -/
def memberless (s : State) (p : Nat) : Bool :=
  let b := boundary s p
  if slotHost s b then false else (List.range nStirrup).all fun st => !isMember s b st

/-- The apply point of a partition whose boundary slot never cues, or has just sent the cue of an aborted epoch (R134); none during a
reset, which keeps what is staged (R214). -/
def emptyBoundaryApply (p : Nat) (s : State) : State :=
  let x := (part s p).state
  let s1 := { s with su := { s.su with abortWait := clearBit64 s.su.abortWait p } }
  if (x != .free && memberless s p) || (x != .free && x != .resetting && s.su.abortWait.getLsbD p) then applyPoint p s1 else s1

def execEmptyBoundaryApply (p : Nat) (s : State) : Host.Outcome State Fault Refusal :=
  answer (decide (p < 64)) (emptyBoundaryApply p s)

/-! ## The die-wide request (R135, R136) -/

/-- Whether the request holds anything. -/
def dwKeys (s : State) : List Nat :=
  (stagedKeys s).filter fun k => isDieWide k || (isRosterKey k && stagedWord s k != reg s k && (component s (wPart (reg s k))).length > 1)

/-- The child mask of a node for a slot: none outside the root's subtree (R76). -/
def maskAt (s : State) (slot : Nat) (n : Place) : List Nat :=
  if inMask (rootOf s slot) (memberStalls s slot) n then kidsOf s n slot else []

/-- The barns, half roots and die root whose child masks a roster change changes (R135). -/
def dwMasks (s : State) (ks : List Nat) : List Place :=
  let t := ks.foldl (fun a k => setReg k (stagedWord s k) a) s
  let slots := ((ks.flatMap (touches s)).eraseDups).flatMap (basicSlots s)
  let nodes := ((ks.map fun k => stallOf (k - 0x20000)).eraseDups.flatMap fun k => (above k).drop 1).eraseDups
  nodes.filter fun n => slots.any fun i => maskAt s i n != maskAt t i n

/-- The stalls whose active parent a staged understudy map changes: the one that leaves the understudy and the one that takes it (R135,
R228). -/
def usSwitched (s : State) (b : Nat) : List Nat :=
  let by_ := fun (w : W32) (k : Nat) => bitB w 3 && bitsN w 2 0 == usIndex k
  (barnStalls b).filter fun k => by_ (reg s (usKey b)) k != by_ (stagedWord s (usKey b)) k

/-- The nodes whose shadow state the staged values change (R135). -/
def dwNodes (s : State) : List Place :=
  let ks := dwKeys s
  let stalls := ((ks.filter isRosterKey).map (fun k => stallOf (k - 0x20000))).eraseDups
  let us := (ks.filter isUsKey).map fun k => (k - 0x8000) / 4
  let every := ks.any (fun k => isGaitKey k || isTraceKey k) || s.flt.rcpStaged.isSome
  (if every then (List.range 108).map .stall else []) ++ stalls.map .stall ++ dwMasks s (ks.filter isRosterKey)
    ++ us.flatMap fun b => .barn b :: (usSwitched s b).map .stall

/-- Whether a partition owns an enabled slot with state in a node: one whose masks hold the node, from its members up to its root. -/
def slotStateIn (s : State) (at_ : Place) (p : Nat) : Bool :=
  (List.range 512).any fun i => bitB (slotCfg s i) 31 && slotOwner s i == some p &&
    (let l := memberStalls s i
     (!l.isEmpty && inMask (rootOf s i) l at_) || (slotHost s i && at_ == .die))

/-- The partitions a set of nodes affects (R135). -/
def affectedParts (s : State) (nodes : List Place) : List Nat :=
  (livePartitions s).filter fun p => ((assignedOf s p).any fun st => nodes.any fun n => beneath n st) || nodes.any fun n => slotStateIn s n p

/-- The request's boundary requirement begins again for the partitions it affects (R135, R136). -/
def dwRestart (s : State) : State :=
  let ps := affectedParts s (dwNodes s)
  { s with su := { s.su with dwPending := true, dwWait := ps.foldl (fun a p => setBit64 a p) s.su.dwWait } }

/-- A partial on a link into an affected node, or held there: not yet complete, in its combine stage, or at a root that decides
on it (R136). -/
def dwPartial (s : State) (nodes : List Place) : Bool :=
  let up : Instr → Bool := fun e => match e with | .partialArrival n (.call _) => nodes.contains n | _ => false
  let out : LinkItem → Bool := fun i => match i.ev with | .partialArrival _ (.call _) => nodes.any fun n => n.linkUp == i.link | _ => false
  let root : Instr → Bool := fun e => match e with | .rootDecision n _ => nodes.contains n | _ => false
  onLinks up s || s.tree.links.any out || s.agenda.any (fun t => root t.ev) || s.tree.nodes.any fun x => (nodes.any fun n => n.node == x.1 / 512) &&
    ((!x.2.sent && !x.2.cur.kids.isEmpty) || (!x.2.sentN && !x.2.nxt.kids.isEmpty) || !x.2.late.isEmpty || x.2.recs.any (·.acc.isSome))

/-- A cue that picked a profile whose contents the request changes is still under way (R136); a span's picks one as it leaves (R129). -/
def dwCue (s : State) : Bool :=
  let ps := (((dwKeys s).filter isGaitKey).map fun k => (k - 0x4000) / 64).eraseDups
  let hit : Cue → Bool := fun c => ps.contains c.profile
  s.tree.held.any (fun h => hit h.cue && !spanRooted s h.cue.slot) || s.tree.waves.any (fun w => hit w.cue)
    || onLinks (fun e => match e with | .cueArrival _ c => hit c | .cueDelivery _ c => hit c | _ => false) s

/-- The further condition of an understudy switch (R228). -/
def usBusy (s : State) : Bool :=
  ((dwKeys s).filter isUsKey).any fun k => (usSwitched s ((k - 0x8000) / 4)).any fun st =>
    s.tree.merges.any (fun m => m.node == st && !m.sent) || s.tree.waves.any (fun w => w.stall == st)

/-- The partitions that have not yet passed the apply point the request needs; one that is quiesced, or whose boundary slot has no
member, counts as having passed it (R134, R136). -/
def dwMissing (s : State) : List Nat :=
  (List.range 64).filter fun p => s.su.dwWait.getLsbD p &&
    !((part s p).state == .quiesced || (part s p).state == .free || memberless s p)

/-- Whether this TCLK is the die-wide apply point (R136). -/
def dwReady (s : State) : Bool :=
  s.su.dwPending && !s.boot.reduced && (dwKeys s).all (fun k => (stagedAt s k).pend.isEmpty)
    && (dwMissing s).isEmpty
    && !dwPartial s (dwNodes s) && !dwCue s && !usBusy s

def applyGait (p : Nat) (s : State) : State :=
  let keys := (ackedKeys s).filter fun k => isGaitKey k && (k - 0x4000) / 64 == p
  if keys.isEmpty then s
  else
    let waves := bitsN (nextWord s (gaitKey p 0)) 3 0
    let bad := (List.range 108).any fun k => waves < bitsN (nextWord s (gaitKey p (4 + 4 * (k / 8)))) (4 * (k % 8) + 3) (4 * (k % 8))
    if bad then entryReject (gaitKey p 0) p 0 p none (setStageErr (gaitKey p 0) true (dropWords keys s))
    else setStageErr (gaitKey p 0) false (applyWords keys s)

def applyTrace (s : State) : State :=
  let keys := (ackedKeys s).filter isTraceKey
  if keys.isEmpty then s
  else
    let w := nextWord s 0x5000
    if bitsN w 31 30 = 2 ∧ bitsN w 29 27 = 0 then
      let s1 := entryReject 0x5000 w.toNat 0 0 none (setStageErr 0x5000 true s)
      let g := stagedAt s1 0x5000
      applyWords keys (setStage 0x5000 { g with mask := g.mask &&& 0x3FFF_FFFF#32 } s1)
    else setStageErr 0x5000 false (applyWords keys s)

/-- Whether a part has failed its test and stays out of service (R229): kind and index of Table FLT-8. -/
def testFailed (s : State) (kind i : Nat) : Bool := s.bist.failed.contains (kind, i)

def applyUs (b : Nat) (s : State) : State :=
  let k := usKey b
  let w := nextWord s k
  if bitB w 3 && testFailed s 1 b then setStageErr k true (settleStage k s) else setStageErr k false (applyWord k s)

/-- SEEDPOL, FLOOR, TFRAC and the target mask of an accepted recipe (R234). -/
def applyRecipe (s : State) : State :=
  match s.flt.rcpStaged with
  | none => s
  | some r =>
    { s with flt := { s.flt with seedpol := r.seedpol.getD s.flt.seedpol, floor := r.floor.getD s.flt.floor,
                                 target := r.target.getD s.flt.target, tfrac := r.tfrac.getD s.flt.tfrac, rcpStaged := none } }

/-- The roster changes of the request, each with its own entries (R332). -/
def dwChanges (s : State) : List (List Nat) :=
  let ros := (dwKeys s).filter isRosterKey
  let of_ := fun (k : Nat) => (List.range 64).filter (component s (wPart (reg s k))).contains
  ((ros.map of_).eraseDups).map fun ps => ros.filter fun k => of_ k == ps

/-- The die-wide apply point (R136, R338). -/
def dieWideApply (s : State) : State :=
  let s1 := (dwChanges s).foldl (fun a l => applyChange l a) s
  let s2 := ((List.range 8).drop 1).foldl (fun a p => applyGait p a) s1
  let s3 := ((ackedKeys s2).filter isUsKey).foldl (fun a k => applyUs ((k - 0x8000) / 4) a) (applyTrace s2)
  let s4 := applyRecipe s3
  { s4 with su := { s4.su with dwPending := false, dwWait := 0 } }

def execDieWideApply (s : State) : Host.Outcome State Fault Refusal := .next (if dwReady s then dieWideApply s else s)

/-- CANCEL discards every staged die-wide value that has not yet applied (R136). -/
def cancelDw (s : State) : State :=
  let s1 := (dwKeys s).foldl (fun a k => unstage k a) s
  { s1 with su := { s1.su with dwPending := false, dwWait := 0 }, flt := { s1.flt with rcpStaged := none } }

def execCancel (s : State) : Host.Outcome State Fault Refusal := .next (regWrite cancelDw s)

/-! ## Acknowledgements (R35, R134, R261) -/

/-- The words a STAGE_CONFIG or WATCH_SET descriptor stages. -/
def descKeys (d : DescState) : List Nat :=
  let i := d.ids.headD 0
  if descOp d.x = 5 then
    (match descBits d.x 1 1 0 with
     | 0 => ((List.range 3).filter fun w => descBits d.x 1 6 4 / 2 ^ w % 2 == 1).map fun w => slotKey i (4 * w)
     | 1 => [objCfgKey false i]
     | _ => [objCfgKey true i])
  else [0, 4, 8, 0xC, 0x10].map (wpKey i)

/-- The started descriptors whose words are all acknowledged complete (R261). -/
def stageDone (s : State) : State :=
  let l := s.hq.descs.filter fun d => d.started && !d.parked && d.refusal == 0 && (descOp d.x == 5 || descOp d.x == 6) && (descKeys d).all fun k => (stagedAt s k).pend.isEmpty
  l.foldl (fun a d => complete d.x (Done.plain stOk) false a) s

/-- A staged word is held on the TCLK side (R35). -/
def wbAck (k : Nat) (s : State) : State :=
  if !Tbl.has s.staged k then s
  else
    let s1 := stageDone (ackStage k s)
    let s2 := if (dwKeys s1).contains k then dwRestart s1 else s1
    let own := if isRosterKey k then (if (component s2 (wPart (reg s2 k))).length = 1 then some (wPart (reg s2 k)) else none) else keyOwner s2 k
    match own with
    | some p => if (part s2 p).state ≠ .free ∧ memberless s2 p then afterT 1 (.emptyBoundaryApply p) s2 else s2
    | none => s2

def execWbAcknowledge (k : Nat) (s : State) : Host.Outcome State Fault Refusal := .next (wbAck k s)

end Sys2Proof.Machine
end

