-- ==== Sys2Proof/Machine/Cues.lean ====
section
/-! DEFINITION. Root decisions (R78, R89, R91), verdicts (R216 to R221), watchpoints (R285, R286), holds under RED (R131 to
R133), scheduled release (R137, R194, R198, R200), the first cue, and what follows a cue's leaving. -/

namespace Sys2Proof.Machine

/-! ## House-time edges (R32, R200) -/

/-- House ticks of the present edge after `t`, in units of 1/n tick; negative before it. -/
def sinceT (s : State) (t : W64) : Int :=
  ((s.house.frameStart.toNat : Int) - (t.toNat : Int)) * (nOf s : Nat) + (s.house.edge * 128 : Nat)

/-- Whether the edge mapped from `t` is this one or has passed (R32). -/
def edgeReached (s : State) (t : W64) : Bool := decide (0 ≤ sinceT s t)

/-- The frames among which house time `t` falls: the latest ones that do not begin after it, with the TCLK count at which those after
them begin. -/
def runOf (t : W64) : Option Nat → List HouseRun → Option (HouseRun × Option Nat)
  | _, [] => none
  | next, r :: l => if r.start.toNat ≤ t.toNat then some (r, next) else runOf t (some r.tclk) l

/-- The TCLK count of the edge mapped from `t`: the first edge of its run whose house time is not below `t`, or the first one after
the run (R32, R138). -/
def mappedEdge (s : State) (t : W64) : Nat :=
  match runOf t none s.house.runs with
  | some (r, next) =>
    let k := r.tclk + ((t.toNat - r.start.toNat) * r.n + 127) / 128
    (match next with | some m => min k m | none => k)
  | none => 0

/-- How many TCLK edges after the mapped one this edge lies (R200). -/
def lateness (s : State) (t : W64) : Nat := s.clk.tclk - mappedEdge s t

/-- Whether `t` falls within an unstable frame, or within the gap while TCLK was stopped (R138). -/
def inUnstable (s : State) (t : W64) : Bool :=
  match runOf t none s.house.runs with | some (r, _) => r.bad | none => false

/-- A late cue (R200). -/
def logLate (slot : Nat) (c : Cue) (late : Nat) (s : State) : State :=
  let id := bitsN (reg s (spanKey (spanOf s slot) 0)) 19 0
  let l := min late 0xFFFF
  let s0 := rcBefore 0x6010 (s.fab.latemax.setWidth 32) (rcBefore 0x600C s.fab.late s)
  let s1 := { s0 with fab := { s0.fab with late := s0.fab.late + 1, latemax := BitVec.ofNat 16 (max s0.fab.latemax.toNat l) },
                      cyc := { s0.cyc with latemax := BitVec.ofNat 16 (max s0.cyc.latemax.toNat l) } }
  report 0x0C 5 Place.die.node (slotOwner s slot) [id, c.epoch.toNat % 64, late] s1

/-! ## Leaving the root (R95, R134) -/

/-- A cue leaves its root: counted, traced, sent; at a boundary cue the partition's staged values apply in the same TCLK. -/
def leaveNow (at_ : Place) (c : Cue) (s : State) : State :=
  let s1 := abortWaiting c.slot (startDown at_ c (cueOut at_ c s))
  match slotOwner s c.slot with
  | some p => if boundary s p = c.slot ∧ !c.abort then applyPoint p s1 else s1
  | none => s1

/-- PKG_MARGIN, MARGIN and the bounds of the entry (R194, R198); UNDOW is added for a REPLAY (R222). -/
def releaseT (s : State) (slot : Nat) (c : Cue) : W64 :=
  let e := spanOf s slot
  let undow := if c.status = stReplay then usTicks * fld s (verdKey ((slotOwner s slot).getD 0)) 31 24 else 0
  if spanLevel s e then houseNow s + BitVec.ofNat 64 (fld s (spanKey e 8) 19 0 + fld s 0x6000 31 24 + undow)
  else
    let d := 14 * fld s (spanKey e 8) 23 20 + fld s 0x6004 4 0
    BitVec.ofNat 64 ((houseFine s + d * 128 * 128 / nOf s) / 128 + undow)

/-- The CUE packet of a span (R190). -/
def cuePkt (s : State) (c : Cue) (t : W64) : SpanPkt :=
  { spanPkt s c.slot 2 (c.epoch.setWidth 6) with
    opst := c.status, vote := c.verdict, data := (t ++ c.data : BitVec 192).setWidth 640,
    count := BitVec.ofNat 24 (c.inexact.toNat * 2 ^ 23 + c.overflow.toNat * 2 ^ 22) }

/-- Sends a packet on every child port of a span. -/
def sendKids (slot : Nat) (pkt : SpanPkt) (s : State) : State :=
  (spanDown s (spanOf s slot)).foldl (fun a port => sendSpan port slot a.clk.tclk pkt a) s

/-- Places a span cue for the edge mapped from T (R137). -/
def schedCue (t : W64) (c : Cue) (s : State) : State :=
  { s with fab := { s.fab with sched := s.fab.sched ++ [{ slot := c.slot, t := t, cue := c }] } }

/-- A cue may leave its root now: on a span's root die it is scheduled and sent to the other dies (R194, R198). -/
def release (at_ : Place) (c : Cue) (s : State) : State :=
  if spanRooted s c.slot && !(spanState s (spanOf s c.slot)).broken then
    let t := releaseT s c.slot c
    schedCue t c (sendKids c.slot (cuePkt s c t) s)
  else leaveNow at_ c s

/-- A span cue leaves this die's die root: its profile is picked here, a late one is logged (R129, R137, R200). -/
def releaseSched (x : Sched) (s : State) : State :=
  let s1 := { s with fab := { s.fab with sched := s.fab.sched.filter fun y => y != x } }
  let c := { x.cue with profile := pickProfile s x.slot }
  let l := lateness s x.t
  leaveNow .die c (if l = 0 ∧ !inUnstable s x.t then s1 else logLate x.slot c l s1)

/-- Whether an undo of `p` runs, as the roots see it (R217). -/
def inUndo (s : State) (p : Nat) : Bool := s.tree.undos.any fun u => u.part == p

/-- The scheduled cue leaves on its edge, or when its undo has ended (R137, R222). -/
def scheduledRelease (slot : Nat) (s : State) : State :=
  match s.fab.sched.find? (fun x => x.slot == slot && edgeReached s x.t) with
  | some x => if s.house.unstable || (x.cue.status == stReplay && inUndo s ((slotOwner s slot).getD 0)) then s else releaseSched x s
  | none => s

def execScheduledRelease (slot : Nat) (s : State) : Host.Outcome State Fault Refusal :=
  answer (decide (slot < 512)) (scheduledRelease slot s)

/-! ## Holds under RED (R131 to R133) -/

def powerWeight (s : State) (p : Nat) : Nat := fld s (partKey p 0x0C) 15 8

def mustHold (s : State) (c : Cue) : Bool :=
  let p := (slotOwner s c.slot).getD 0
  decide (2 ≤ s.pwr.budget.toNat) && p != 0 && c.status != stAborted && decide (powerWeight s p < fld s 0x7000 31 24)

/-- Holds a cue at its root, or lets it leave; `t` is its decision TCLK. -/
def holdOrRelease (at_ : Place) (c : Cue) (t : Nat) (s : State) : State :=
  if mustHold s c then
    let s := rcBefore 0x700C s.pwr.holds s
    { s with tree := { s.tree with held := s.tree.held ++
               [{ at_ := at_, cue := c, since := (houseNow s).toNat, decT := t, placed := false, due := false }] },
             pwr := { s.pwr with holds := s.pwr.holds + 1 } }
  else release at_ c s

def dropHeld (h : HeldCue) (s : State) : State :=
  { s with tree := { s.tree with held := s.tree.held.filter fun x => x != h } }

def setDue (h : HeldCue) (s : State) : State :=
  { s with tree := { s.tree with held := s.tree.held.map fun x => if x = h then { x with due := true } else x } }

def holdMax (s : State) : Nat := fld s 0x7004 22 16
def spaceT (s : State) : Nat := fld s 0x7004 7 0

def heldPart (s : State) (h : HeldCue) : Nat := (slotOwner s h.cue.slot).getD 0

def holdOver (s : State) (h : HeldCue) : Bool := !h.due && decide (h.since + holdMax s * usTicks ≤ (houseNow s).toNat)

/-- Expiry of a hold (R132); under a curtain the cue stays and is due at the lift (R133). -/
def holdExpiry (slot : Nat) (s : State) : State :=
  match s.tree.held.find? (fun h => h.cue.slot == slot && holdOver s h) with
  | none => s
  | some h =>
    let s0 := rcBefore 0x7010 s.pwr.expired s
    let s1 := { s0 with pwr := { s0.pwr with expired := s0.pwr.expired + 1 } }
    if covered s (heldPart s h) then setDue h s1
    else
      let s2 := dropHeld h s1
      release h.at_ h.cue (if h.placed then { s2 with pwr := { s2.pwr with lastOut := some s.clk.tclk } } else s2)

def execHoldExpiry (slot : Nat) (s : State) : Host.Outcome State Fault Refusal := answer (decide (slot < 512)) (holdExpiry slot s)

/-- The order of R132: decision TCLK, then partition, then slot. -/
def heldBefore (s : State) (a b : HeldCue) : Bool :=
  decide (a.decT < b.decT) || (a.decT == b.decT && (decide (heldPart s a < heldPart s b)
    || (heldPart s a == heldPart s b && decide (a.cue.slot < b.cue.slot))))

def firstHeld (s : State) (l : List HeldCue) : Option HeldCue :=
  l.foldl (fun o h => match o with | none => some h | some g => if heldBefore s h g then some h else some g) none

/-- The placed cue whose turn is next, once SPACE has passed since the latest placed cue left (R132). -/
def nextTurn (s : State) : Option HeldCue :=
  match s.pwr.lastOut with
  | some t => if s.clk.tclk < t + spaceT s then none else firstHeld s (s.tree.held.filter fun h => h.placed && !h.due)
  | none => firstHeld s (s.tree.held.filter fun h => h.placed && !h.due)

/-- The cue of an uncovered partition that became due under a curtain and may leave now (R133). -/
def nextDue (s : State) (p : Nat) : Option HeldCue :=
  let last := Tbl.get 0 s.pwr.lastDue p
  if covered s p || (last != 0 && decide (s.clk.tclk + 1 < last + spaceT s)) then none
  else firstHeld s (s.tree.held.filter fun h => h.due && heldPart s h == p)

/-- A due cue of the slot that may leave now. -/
def dueTurn (s : State) (slot : Nat) : Option HeldCue :=
  (s.tree.held.find? fun h => h.cue.slot == slot && h.due && nextDue s (heldPart s h) == some h)

/-- A cue leaves by its turn (R132, R133); a placed one whose partition is covered is passed over. -/
def spacedRelease (slot : Nat) (s : State) : State :=
  match dueTurn s slot with
  | some h =>
    release h.at_ h.cue (dropHeld h { s with pwr := { s.pwr with lastDue := Tbl.set 0 (heldPart s h) (s.clk.tclk + 1) s.pwr.lastDue } })
  | none =>
    match nextTurn s with
    | none => s
    | some h =>
      if h.cue.slot ≠ slot then s
      else if covered s (heldPart s h) then
        let s1 := setDue h s
        (match nextTurn s1 with | some g => afterT 0 (.spacedRelease g.cue.slot) s1 | none => s1)
      else release h.at_ h.cue (dropHeld h { s with pwr := { s.pwr with lastOut := some s.clk.tclk } })

def execSpacedRelease (slot : Nat) (s : State) : Host.Outcome State Fault Refusal :=
  answer (decide (slot < 512)) (spacedRelease slot s)

/-- A budget state adopted (R129, R316): 0b11 counts as RED and is logged; leaving RED places the held cues (R132). -/
def budgetChange (b : BitVec 2) (s : State) : State :=
  let nb : BitVec 2 := if b = 3#2 then 2#2 else b
  let s0 := if b = 3#2 then report 0x06 6 0 none [3] s else s
  let s1 := { s0 with pwr := { s0.pwr with budget := nb } }
  if s.pwr.budget = 2#2 ∧ nb ≠ 2#2 then
    let anew := s.tree.held.all fun h => !h.placed
    let s2 := { s1 with tree := { s1.tree with held := s1.tree.held.map fun h => { h with placed := true } },
                        pwr := { s1.pwr with lastOut := if anew then none else s1.pwr.lastOut } }
    match nextTurn s2 with
    | some h => afterT 0 (.spacedRelease h.cue.slot) s2
    | none => s2
  else s1

def execBudgetChange (b : BitVec 2) (s : State) : Host.Outcome State Fault Refusal := .next (budgetChange b s)

/-! ## The audit draw (R224) -/

def mix (x0 : W32) : W32 :=
  let x1 := x0 ^^^ (x0 >>> 16)
  let x2 := x1 * 0x21F0AAAD#32
  let x3 := x2 ^^^ (x2 >>> 15)
  let x4 := x3 * 0x735A2D97#32
  x4 ^^^ (x4 >>> 15)

/-- POLICY 1's draw. -/
def drawOf (step : W32) (salt p : Nat) : BitVec 29 :=
  (mix (mix step ^^^ BitVec.ofNat 32 (salt * 2 ^ 16) ^^^ BitVec.ofNat 32 p)).setWidth 29

/-- The draw for the next step: a function of step, salt and partition under POLICY 1 or where the recipe forces it, else the
die's generator (R224, Table FLT-12; log 13). -/
def nextDraw (p : Nat) (s : State) : BitVec 29 × State :=
  let cfg := reg s (verdKey p)
  let policy1 := if s.flt.seedpol = 1 then false else if s.flt.seedpol = 2 then true else bitB cfg 11
  if policy1 then (drawOf (part s p).steps (bitsN cfg 23 12) p, s)
  else (Config.generator s.boot.fuses.seed s.free, { s with free := s.free + 1 })

/-- Computes the draw and pushes it: it reaches every stirrup within 200 TCLK (R224). -/
def pushDraw (p : Nat) (s : State) : State :=
  let (d, s1) := nextDraw p s
  let (f, s2) := takeFree 200 s1
  afterT (1 + f) (.auditPush p d) s2

/-- The draw reaches the assigned stirrups; each stall sets FRAC (R224). -/
def auditPush (p : Nat) (draw : BitVec 29) (s : State) : State :=
  let frac := fld s (verdKey p) 6 4
  (assignedOf s p).foldl (fun a st =>
    let f := max frac (max a.flt.floor (if a.flt.target.getLsbD st then a.flt.tfrac else 0))
    updStir st (fun x => { x with pushed := BitVec.ofNat 32 (f % 8 * 2 ^ 29 + draw.toNat) }) a) s

def execAuditPush (p : Nat) (draw : BitVec 29) (s : State) : Host.Outcome State Fault Refusal :=
  answer (decide (p < 64)) (auditPush p draw s)

/-! ## Verdicts (R216, Table FLT-3) -/

def verdBudget (s : State) (p : Nat) : Nat := fld s (verdKey p) 3 0

/-- A CLEAN or SUSPECT decision. -/
def commitStep (p : Nat) (s : State) : State :=
  pushDraw p (mark p .commit (updPart p (fun x => { x with replays := 0, steps := x.steps + 1 }) s))

/-- A REPLAY decision: counted, and the verdict marker leaves for the journal; the cue waits for the undo (R219, R221). -/
def startReplay (p : Nat) (at_ : Place) (c : Cue) (s : State) : State :=
  let s1 := count p 2 1 (updPart p (fun x => { x with replays := x.replays + 1 }) s)
  mark p .reverse { s1 with tree := { s1.tree with undos := s1.tree.undos ++
    [{ part := p, at_ := at_, cue := c, decT := s.clk.tclk, entries := (journal s p).entries.length, waiting := [], later := [] }] } }

/-- An ABORTED verdict. -/
def abortStep (p slot : Nat) (e : W32) (s : State) : State :=
  let s1 := mark p .discard (updPart p (fun x => { x with replays := 0 }) s)
  afterT 0 (.curtainRaise p .verdict false)
    (report 0x15 15 p (some p) [slot, e.toNat, stAborted.toNat, (part s p).replays, 0] s1)

/-- The verdict row: the STATUS a merged vote gives, and whether the step is replayed. -/
def verdictStatus (s : State) (p : Nat) (vote : BitVec 2) : BitVec 5 :=
  if vote = voteClean ∨ vote = voteSuspect then stOk
  else if !(journal s p).closed && decide ((part s p).replays < verdBudget s p) then stReplay
  else stAborted

/-! ## Watchpoints (R285, R286) -/

def wpHit (s : State) (slot : Nat) (e : W32) (tag : BitVec 20) (w : Nat) : Bool :=
  let ctl := reg s (wpKey w 0)
  let tm : BitVec 20 := (reg s (wpKey w 0xC)).setWidth 20
  let tg : BitVec 20 := (reg s (wpKey w 0x8)).setWidth 20
  bitB ctl 31 && bitsN ctl 8 0 == slot && (bitB ctl 26 || reg s (wpKey w 4) == e) && (tag ^^^ tg) &&& tm == 0

def wpHits (s : State) (slot : Nat) (e : W32) (tag : BitVec 20) : List Nat := (List.range 16).filter (wpHit s slot e tag)

/-- Each match: HITS, WATCH_HITS and a WATCH event to OWNER. -/
def wpNote (slot : Nat) (e : W32) (s : State) (w : Nat) : State :=
  let p := wpOwner s w
  let rel := ((granted s p).filter (· < w)).length
  event p 0x07 (BitVec.ofNat 32 rel) ((0#64) ++ (e ++ BitVec.ofNat 32 (slotRel s p slot)))
    (count p 13 1 (rcBefore (wpKey w 0x14) (Tbl.get 0 s.obs.wpHits w)
      { s with obs := { s.obs with wpHits := Tbl.set 0 w (Tbl.get 0 s.obs.wpHits w + 1) s.obs.wpHits } }))

/-- A_SIGNAL: SIGNAL 1 to SEM as a request of OWNER (R140, R286). -/
def wpSignal (s : State) (w : Nat) : State :=
  homeCross { tok := false, obj := fld s (wpKey w 0x10) 12 0, op := 0, nohold := true, rid := 0, src := srcWatch, merged := false,
              mlevel := false, mrec := 0, poll := false, part := wpOwner s w, pay := 1, leftT := s.clk.tclk, ring := 0, didx := 0,
              sub := 0, word := 0 } s

/-- Curtains first (R286). -/
def wpCurtain (s : State) (w : Nat) : State := afterT 0 (.curtainRaise (wpOwner s w) .watchpoint false) s

def wpWith (s : State) (bit : Nat) (l : List Nat) : List Nat := l.filter fun w => bitB (reg s (wpKey w 0)) bit

/-! ## The decision (R78, R80, R89, R91, R120, R213) -/

/-- What the root's epoch holds when it decides: its combined partial, whether it is poisoned, and a count slot's notes. -/
def decided (s : State) (at_ : Place) (slot : Nat) : Option Partial × Bool × List (Nat × Nat) :=
  let ns := node s at_ slot
  if isCount s slot then
    (match ns.recs with
     | r :: _ => (r.acc, false, r.kids)
     | [] => (ns.cur.acc, ns.cur.poison, ns.kidSeq))
  else (ns.cur.acc, ns.cur.poison, [])

/-- Removes a decided count epoch from the root. -/
def dropCounted (at_ : Place) (slot : Nat) (s : State) : State :=
  let ns := node s at_ slot
  match ns.recs with
  | _ :: t => setNode at_ slot { ns with recs := t } s
  | [] => setNode at_ slot { ns with cur := Hold.none, kidSeq := [], cutAt := none } s

/-- A quiescence round ends the phase (R91, R100). -/
def quiet (p : Option Partial) : Bool :=
  match p with
  | none => true
  | some a => a.count == 0 || (bitsN a.data 63 0 == 0 && bitB a.data 64)

/-- The root of a quiescence slot sends REARM, and its own round begins again (R91, R92); the host contributes again (R262). -/
def rearmRoot (at_ : Place) (slot : Nat) (s : State) : State :=
  let host := hostIn s slot
  let s1 := rearmArrive at_ slot ((node s at_ slot).epoch.setWidth 6) (memberStalls s slot) s
  if host then
    match s.hq.hostCall.find? fun h => h.1 == slot with
    | some h =>
      let d := h.2
      let p : Partial :=
        { slot := slot, gen := (node s1 at_ slot).epoch.setWidth 6, op := slotOp s slot, fmt := slotFmt s slot,
          vote := 0, count := 1, tag := BitVec.ofNat 20 (descBits d 1 51 32),
          data := widen (slotOp s slot) (slotFmt s slot) true ((descWord d 3) ++ (descWord d 2)), child := hostChild, seq := 0,
          leftT := s.clk.tclk, firstAt := s.clk.tclk, lastAt := s.clk.tclk, lastVt := srcHost, word := 0 }
      arriveGen .die slot hostChild p s1
    | none => s1
  else s1

/-- The result of the epoch (R90, R91, R100, R114, R120). -/
def resultOf (s : State) (slot : Nat) (p : Option Partial) : W128 × Bool × Bool :=
  match p with
  | none => if isQuiesce s slot then ((1#128) <<< 64, false, false) else (0, false, false)
  | some a =>
    if isCount s slot then (BitVec.ofNat 128 a.count, false, false)
    else if isQuiesce s slot then ((1#128) <<< 64, false, false)
    else if a.count = 0 then (0, false, false)
    else finish a.op a.fmt (bitB (slotCfg s slot) 5) a.data

/-- LASTDIES of a span: the dies its decided epoch represents (R190). -/
def noteDies (slot : Nat) (p : Option Partial) (s : State) : State :=
  if spanRooted s slot && spanRootDie s (spanOf s slot) && !(spanState s (spanOf s slot)).broken then
    setSpan (spanOf s slot) { spanState s (spanOf s slot) with lastDies := (match p with | some a => a.seq | none => 0) + 1 } s
  else s

/-- The records up to `cut` in a node and, through them, in the nodes below it are those of epoch `e`: the root has counted them (R90). -/
def markCounted (slot : Nat) (e : W32) : Nat → Place → Nat → State → State
  | 0, _, _, s => s
  | n + 1, at_, cut, s =>
    let ns := node s at_ slot
    let x := splitRecs cut ns.recs
    let new := x.1.filter (·.epoch.isNone)
    let recs := (x.1.map fun r => if r.epoch.isNone then { r with epoch := some e } else r) ++ x.2
    (lastNumbers new).foldl (fun a k => match childPlace at_ k.1 with | some q => markCounted slot e n q k.2 a | none => a)
      (setNode at_ slot { ns with recs := recs } s)

/-- A count root notes what it has counted of each child (R90). -/
def noteCounted (at_ : Place) (c : Cue) (s : State) : State :=
  c.notes.foldl (fun a k => match childPlace at_ k.1 with
    | some (.stirrup _) => a
    | some q => markCounted c.slot c.epoch 4 q k.2 a
    | none => a) s

/-- The decided cue goes on its way: the root's own state passes, the epoch advances, and the cue leaves, is held, or waits for
an undo (R80, R131, R219). -/
def sendDecided (at_ : Place) (c : Cue) (s : State) : State :=
  let s1 := if c.counted then noteCounted at_ c (dropCounted at_ c.slot s) else passRoot at_ c.slot c.epoch c.next s
  let s2 := setEpoch c.slot c.next s1
  if c.status = stReplay then startReplay ((slotOwner s c.slot).getD 0) at_ c s2 else holdOrRelease at_ c s.clk.tclk s2

/-- The verdict decision waits for the undo under way (R217). -/
def undoWait (own : Nat) (at_ : Place) (slot : Nat) (s : State) : State :=
  { s with tree := { s.tree with undos := s.tree.undos.map fun u => if u.part = own then { u with waiting := u.waiting ++ [(at_, slot)] } else u } }

/-- The vote of the set: POISON where any merged it. -/
def setVote (p : Option Partial) (poison : Bool) : BitVec 2 :=
  match p with
  | some a => if poison then votePoison else a.vote
  | none => if poison then votePoison else 0

def tagOf (p : Option Partial) : BitVec 20 := match p with | some a => a.tag | none => 0

/-- The status before watchpoints (R78, R208, R213, R216). -/
def baseStatus (s : State) (slot own : Nat) (vote : BitVec 2) (broken : Bool) : BitVec 5 :=
  if broken then stAborted
  else if slotVerdict s slot then verdictStatus s own vote
  else if vote = votePoison then stAborted else stOk

/-- The cue of a decision (R78, R113). -/
def decidedCue (s : State) (slot : Nat) (p : Option Partial) (vote : BitVec 2) (notes : List (Nat × Nat)) (status : BitVec 5) : Cue :=
  let r := if status = stAborted then (0#128, false, false) else resultOf s slot p
  { cueFor s slot (epochOf s slot) status (memberStalls s slot) with
    verdict := if slotVerdict s slot then verdictOf vote else 0, inexact := r.2.1, overflow := r.2.2, data := r.1, host := hostIn s slot,
    tag := tagOf p, lastVt := (match p with | some a => a.lastVt | none => 0),
    firstAt := (match p with | some a => a.firstAt | none => s.clk.tclk),
    lastAt := (match p with | some a => a.lastAt | none => s.clk.tclk), notes := notes }

/-- A verdict decision is counted as a step; an OK commits and an ABORTED aborts the step, as Table FLT-3 lays down (R216). -/
def verdictDone (at_ : Place) (slot own : Nat) (e : W32) (base : BitVec 5) (s : State) : State :=
  let s0 := { s with flt := { s.flt with steps := s.flt.steps + 1 } }
  let s1 := if at_ = .die then reportHost slot s0 else s0
  if base = stOk then commitStep own s1 else if base = stAborted then abortStep own slot e s1 else s1

/-- A decision with a complete set (R78). -/
def decide_ (at_ : Place) (slot : Nat) (s : State) : State :=
  let own := (slotOwner s slot).getD 0
  let e := epochOf s slot
  let set := decided s at_ slot
  let p := if set.2.1 then none else set.1
  let vote := setVote set.1 set.2.1
  let verdict := slotVerdict s slot
  if verdict ∧ inUndo s own then undoWait own at_ slot s
  else if isQuiesce s slot ∧ vote ≠ votePoison ∧ !quiet p ∧ !(spanState s (spanOf s slot)).broken then rearmRoot at_ slot s
  else
    let broken := spanRooted s slot && (spanState s (spanOf s slot)).broken
    let hits := wpHits s slot e (tagOf p)
    let base := baseStatus s slot own vote broken
    let c := { decidedCue s slot p vote set.2.2 (if base = stOk ∧ !(wpWith s 27 hits).isEmpty then stWatch else base) with marks := wpWith s 29 hits }
    let s1 := (wpWith s 30 hits).foldl wpCurtain (hits.foldl (fun a w => wpNote slot e a w) s)
    let s2 := if verdict && !broken then verdictDone at_ slot own e base s1 else s1
    (wpWith s 28 hits).foldl wpSignal (sendDecided at_ c (noteDies slot set.1 (slotVotes slot s2)))

/-- Whether the root has decided to decide: its set was complete (R77), or its count was reached (R89). -/
def canDecide (s : State) (at_ : Place) (slot : Nat) : Bool :=
  let ns := node s at_ slot
  decides s at_ slot && (if isCount s slot then ns.cutAt.isSome || !ns.recs.isEmpty else ns.sent)

/-- Whether the decision that firmware asked for is due: epoch 0 of slot 0 (R301). -/
def firstDue (s : State) (at_ : Place) (slot : Nat) : Bool :=
  at_ == .die && slot == 0 && s.boot.firstReq && !s.boot.firstDone && epochOf s 0 == 0

/-- The first cue: every member has called by its boot call (R295), and the cue carries OK and a zero result. -/
def firstCue (s : State) : State :=
  let s1 := (memberStalls s 0).foldl (fun a k =>
    let ns := node a (.stall k) 0
    setNode (.stall k) 0 { ns with cur := { ns.cur with kids := (stirrupsOf k).filter (isMember a 0) }, sent := true } a) s
  let c := { cueFor s 0 0 stOk (memberStalls s 0) with next := 1 }
  holdOrRelease .die c s.clk.tclk (setEpoch 0 1 (passRoot .die 0 0 1 { s1 with boot := { s1.boot with firstReq := false } }))

def rootDecision (at_ : Place) (slot : Nat) (s : State) : State :=
  if firstDue s at_ slot then firstCue s else if canDecide s at_ slot then decide_ at_ slot s else s

def execRootDecision (at_ : Place) (slot : Nat) (s : State) : Host.Outcome State Fault Refusal :=
  answer (at_.ok && decide (slot < 512)) (rootDecision at_ slot s)

/-! ## The end of an undo (R217, R221, R222) -/

/-- A die other than the root die follows the STATUS it receives (R222): it commits, undoes or aborts its own step; one whose
step is not replayable delivers ABORTED instead of REPLAY. -/
def followVerdict (slot : Nat) (c : Cue) (s : State) : Cue × State :=
  let own := (slotOwner s slot).getD 0
  if !slotVerdict s slot then (c, s)
  else if c.status = stAborted then (c, abortStep own slot c.epoch s)
  else if c.status ≠ stReplay then (c, commitStep own s)
  else if (journal s own).closed then
    ({ c with status := stAborted, data := 0, inexact := false, overflow := false }, abortStep own slot c.epoch s)
  else (c, startReplay own .die c s)

/-- What a received span cue decides on this die, and its place on the edge mapped from T. A step that cannot be replayed acts on the
span as a port loss (R222). -/
def followSpan (x : Sched) (s : State) : State :=
  let (c, s1) := followVerdict x.slot x.cue s
  let s2 := schedCue x.t c s1
  scheduledRelease x.slot (if x.cue.status = stReplay ∧ c.status = stAborted then allPortsLost [spanOf s x.slot] s2 else s2)

/-- A verdict of another die waits for the undo under way (R217). -/
def laterSpan (own : Nat) (x : Sched) (s : State) : State :=
  { s with tree := { s.tree with undos := s.tree.undos.map fun u => if u.part = own then { u with later := u.later ++ [x] } else u } }

/-- A span cue of a verdict slot takes effect, or waits for the undo under way (R217, R222). -/
def takeSpan (own : Nat) (x : Sched) (s : State) : State := if inUndo s own then laterSpan own x s else followSpan x s

/-- Tallies restored, DROP strobes, the new step-start copy, and the REPLAY cue is ready to leave: it leaves or is held (R131, R221),
or, received from another die, is released once its edge has come (R222); then the decisions that waited take effect in order (R217). -/
def undoComplete (p : Nat) (s : State) : State :=
  match s.tree.undos.find? fun u => u.part == p with
  | none => s
  | some u =>
    let s0 := { s with tree := { s.tree with undos := s.tree.undos.filter fun v => v != u } }
    let s1 := copyStart p (restoreTallies p s0)
    let c := { u.cue with profile := pickProfile s1 u.cue.slot }
    let s2 := match s1.fab.sched.find? fun x => x.slot == c.slot && x.cue.epoch == c.epoch with
      | some x => if edgeReached s1 x.t && !s1.house.unstable then releaseSched x s1 else s1
      | none => holdOrRelease u.at_ c u.decT s1
    u.later.foldl (fun a x => takeSpan p x a) (u.waiting.foldl (fun a w => rootDecision w.1 w.2 a) s2)

def execUndoComplete (p : Nat) (s : State) : Host.Outcome State Fault Refusal :=
  answer (decide (p < 64)) (undoComplete p s)

/-! ## The host member's completion (R262) -/

def hostCallCompletion (c : Cue) (s : State) : State :=
  match s.hq.hostCall.find? fun h => h.1 == c.slot with
  | none => s
  | some h =>
    let s1 := { s with hq := { s.hq with hostCall := s.hq.hostCall.filter fun x => x.1 != c.slot } }
    complete h.2 { status := c.status, verdict := c.verdict, inexact := c.inexact, overflow := c.overflow, aux := c.epoch,
                   result := if c.counted then (withCut 0 c).data else c.data } false s1

def execHostCallCompletion (c : Cue) (s : State) : Host.Outcome State Fault Refusal :=
  answer (decide (c.slot < 512)) (hostCallCompletion c s)

end Sys2Proof.Machine
end

