-- ==== Sys2Proof/Machine/Fabric.lean ====
section
/-! DEFINITION. Tugs, reins and spans (08_fabric.md): packets received and sent, training, heartbeats, losses. -/

namespace Sys2Proof.Machine

/-! ## Bytes (R272, R273) -/

def linkOf (port : Nat) : Nat := if port < 4 then port else 4

/-- Counts bytes of a link; `dir` 0 sent, 1 received. -/
def linkBytes (port dir n : Nat) (s : State) : State :=
  let k := 2 * linkOf port + dir
  { s with fab := { s.fab with bytes := Tbl.set 0#64 k (Tbl.get 0#64 s.fab.bytes k + BitVec.ofNat 64 n) s.fab.bytes } }

/-- Bytes of `n` beats (tug) or flits (rein). -/
def unitBytes (port n : Nat) : Nat := if port < 4 then 24 * n else 64 * n

/-- Payload beats that travel together: one on a tug, three in a rein flit (R190, Table FAB-8). -/
def unitBeats (port : Nat) : Nat := if port < 4 then 1 else 3

/-! ## Receiving -/

def spanFor (s : State) (id : BitVec 20) : Option Nat :=
  (List.range 128).find? fun e => spanValid s e && fld s (spanKey e 0) 19 0 == id.toNat

/-- The header of Table FAB-6 as a number. -/
def headerOf (p : SpanPkt) : Nat :=
  p.fkind.toNat * 2 ^ 60 + p.span.toNat * 2 ^ 40 + p.gen.toNat * 2 ^ 34 + p.opst.toNat * 2 ^ 29 + p.vote.toNat * 2 ^ 27
    + p.beat.toNat * 2 ^ 24 + p.count.toNat

/-- Something has arrived on a port: the loss timeout restarts (R207). -/
def noteRx (port n : Nat) (s : State) : State :=
  linkBytes port 1 (unitBytes port n)
    (setFabPort port { fabPort s port with lastRx := (houseNow s).toNat, lost := false, resends := 0 } s)

/-- A flit of a rein peer discarded: the 16th within 1 ms cuts the peer off (Table PAR-7). -/
def badFlit (port : Nat) (s : State) : State :=
  if port < 4 then s
  else
    let now := (houseNow s).toNat
    let x := fabPort s port
    let l := now :: x.bads.filter fun t => decide (now < t + 1000 * usTicks)
    if 16 ≤ l.length then portLost port (setFabPort port { x with cut := true, bads := [] } s)
    else setFabPort port { x with bads := l } s

def fabricRecord (port : Nat) (p : SpanPkt) (s : State) : State := report 0x0B (portUnit port) port none [port, headerOf p] s

/-- A packet discarded under R191: a stale drop and a STALE record with the span id; on a tug a fabric-packet record as well
(Table PAR-7). -/
def discardSpan (port : Nat) (own : Option Nat) (p : SpanPkt) (s : State) : State :=
  let s1 := match own with | some q => count q 12 1 s | none => s
  let s2 := report 0x02 (portUnit port) port own [p.fkind.toNat, p.span.toNat] s1
  badFlit port (if port < 4 then fabricRecord port p s2 else s2)

/-- The beats of the packet a unit belongs to: those of a PARTIAL by its slot's settings; one where no entry, or another OP, is named
(R188, R190). -/
def packetBeats (s : State) (p : SpanPkt) : Nat :=
  match spanFor s p.span with
  | some e => if p.fkind = 1 ∧ p.opst ≠ slotOp s (spanSlot s e) then 1 else spanBeats s (spanSlot s e) p.fkind
  | none => 1

/-- Takes in a unit: the whole packet once its last beat has come. -/
def assemble (port : Nat) (p : SpanPkt) (s : State) : Option SpanPkt × State :=
  let x := fabPort s port
  let mine := fun (a : SpanPkt) => a.span == p.span && a.fkind == p.fkind
  let before : Wide := if p.beat = 0 then 0 else match x.asm.find? mine with | some a => a.data | none => 0
  let pay : Wide := p.data &&& BitVec.ofNat 640 (2 ^ (128 * unitBeats port) - 1)
  let q := { p with beat := 0, data := before ||| (pay <<< (128 * p.beat.toNat)) }
  let rest := x.asm.filter fun a => !mine a
  if packetBeats s p ≤ p.beat.toNat + unitBeats port then (some q, setFabPort port { x with asm := rest } s)
  else (none, setFabPort port { x with asm := rest ++ [q] } s)

/-- TCLK of one hop: 14, of the slower die (R192). -/
def hopT (s : State) (port : Nat) : Nat :=
  let m := (fabPort s port).peerN
  if m = 0 ∨ nOf s ≤ m then 14 else (14 * nOf s + m - 1) / m

/-- TCLK from the arrival of a packet's last beat at a tug, whose transit the buffer pads, to the last two TCLK of its four-TCLK
combine; a CUE or SPAN_ABORT is ready with the hop's end, a cue's second beat having come 1 TCLK behind its first (R192). A rein packet
is not padded (R197). -/
def bufferT (s : State) (port : Nat) (kind : BitVec 4) : Nat :=
  if 8 ≤ port then (if kind = 2 ∨ kind = 5 then 0 else 2)
  else if kind = 2 then hopT s port - (fabPort s port).transit - 1
  else if kind = 5 then hopT s port - (fabPort s port).transit
  else hopT s port - (fabPort s port).transit - 2

/-- A whole span packet is taken: ignored on a BROKEN span (R208), discarded where no valid entry has its id. -/
def spanTake (port : Nat) (p : SpanPkt) (f : Nat → State → State) (s : State) : State :=
  match spanFor s p.span with
  | none => discardSpan port none p s
  | some e => if (spanState s e).broken then s else f e s

/-- A beat or flit arrives: its bytes are counted, and a whole packet passes the port's buffer (R190, R192, R273). -/
def spanReceive (port : Nat) (p : SpanPkt) (row : SpanPkt → Instr) (f : SpanPkt → Nat → State → State) (s : State) : State :=
  let s1 := noteRx port 1 s
  let s2 := match (spanFor s p.span).bind fun e => slotOwner s (spanSlot s e) with
    | some q => count q 15 (unitBytes port 1) s1
    | none => s1
  match assemble port p s2 with
  | (none, s3) => s3
  | (some q, s3) =>
    let t := bufferT s3 port q.fkind
    if t = 0 then spanTake port q (f q) s3 else afterT t (row q) s3

/-- A row of a span packet of kind `k`. Nothing is taken from a port that is not in use. -/
def spanRowOk (port k : Nat) (p : SpanPkt) (taken : Bool) (row : SpanPkt → Instr) (f : SpanPkt → Nat → State → State) (s : State) :
    Host.Outcome State Fault Refusal :=
  if p.fkind.toNat ≠ k then .fault .notThisCommand
  else answer (ports.contains port)
    (if !portUp s port then s else if taken then spanTake port p (f p) s else spanReceive port p row f s)

def ownOf (s : State) (e : Nat) : Option Nat := slotOwner s (spanSlot s e)

/-- A die partial from a child die joins the die root's combine (R188 to R192); the packet carries no TAG and no arrival stamps
(log 28). -/
def spanPartial (port : Nat) (p : SpanPkt) (e : Nat) (s : State) : State :=
  let slot := spanSlot s e
  if !(spanDown s e).contains port then discardSpan port (ownOf s e) p s
  else if p.opst ≠ slotOp s slot then portLost port s
  else if (genEpoch (node s .die slot) p.gen).isNone then discardSpan port (ownOf s e) p s
  else
    let (tag, s1) := takeFree (2 ^ 20) s
    let (vt, s2) := takeFree (2 ^ 11) s1
    upArrive .die (.call
      { slot := slot, gen := p.gen, op := slotOp s slot, fmt := slotFmt s slot, vote := p.vote, count := if p.empty then 0 else 1,
        tag := BitVec.ofNat 20 tag, data := if p.empty then 0 else p.data, child := portChild port, seq := p.count.toNat,
        leftT := 0, firstAt := 2 ^ 63, lastAt := 0, lastVt := vt, word := 0 }) s2

def execSpanPartial (port : Nat) (p : SpanPkt) (taken : Bool) (s : State) : Host.Outcome State Fault Refusal :=
  spanRowOk port 1 p taken (fun q => .spanPartial port q true) (spanPartial port) s

/-- The cue of this die for a span cue received. -/
def cueOfSpan (s : State) (slot : Nat) (p : SpanPkt) : Cue :=
  let a := (node s .die slot).cur.acc
  { cueFor s slot (epochOf s slot) p.opst (memberStalls s slot) with
    verdict := p.vote, inexact := bitB p.count 23, overflow := bitB p.count 22, data := p.data.setWidth 128,
    host := hostIn s slot, tag := (match a with | some x => x.tag | none => 0),
    lastVt := (match a with | some x => x.lastVt | none => 0),
    firstAt := (match a with | some x => x.firstAt | none => s.clk.tclk),
    lastAt := (match a with | some x => x.lastAt | none => s.clk.tclk) }

/-- A span cue reaches this die root: it goes on to the child dies, its epoch ends here, and it waits for the edge mapped from T
(R137, R191, R194, R198, R200, R222). -/
def spanCue (port : Nat) (p : SpanPkt) (e : Nat) (s : State) : State :=
  let slot := spanSlot s e
  let now := (houseNow s).toNat
  if spanUp s e ≠ some port ∨ p.gen ≠ (epochOf s slot).setWidth 6 then discardSpan port (ownOf s e) p s
  else if now + 2 ^ 21 < p.time.toNat then portLost port s
  else
    let s1 := reportHost slot (sendKids slot p s)
    let c := cueOfSpan s slot p
    let own := (slotOwner s slot).getD 0
    let s2 := setEpoch slot c.next (passRoot .die slot c.epoch c.next (slotVotes slot s1))
    let x : Sched := { slot := slot, t := p.time, cue := c }
    if slotVerdict s slot then takeSpan own x s2 else followSpan x s2

def execSpanCue (port : Nat) (p : SpanPkt) (taken : Bool) (s : State) : Host.Outcome State Fault Refusal :=
  spanRowOk port 2 p taken (fun q => .spanCue port q true) (spanCue port) s

/-- IDLE and ACTIVE of a child die (R189, R79, R191). -/
def spanIdleness (active : Bool) (port : Nat) (p : SpanPkt) (e : Nat) (s : State) : State :=
  let slot := spanSlot s e
  if !(spanDown s e).contains port || (genEpoch (node s .die slot) p.gen).isNone then discardSpan port (ownOf s e) p s
  else if active then activeArrive .die slot (portChild port) s
  else idleArrive .die slot (portChild port) p.gen s

def execSpanIdle (port : Nat) (p : SpanPkt) (taken : Bool) (s : State) : Host.Outcome State Fault Refusal :=
  spanRowOk port 3 p taken (fun q => .spanIdle port q true) (spanIdleness false port) s

def execSpanActive (port : Nat) (p : SpanPkt) (taken : Bool) (s : State) : Host.Outcome State Fault Refusal :=
  spanRowOk port 4 p taken (fun q => .spanActive port q true) (spanIdleness true port) s

/-- SPAN_ABORT received (R208). -/
def spanAborted (port e : Nat) (s : State) : State := linkLoss port [e] s

def execSpanAbort (port : Nat) (p : SpanPkt) (taken : Bool) (s : State) : Host.Outcome State Fault Refusal :=
  spanRowOk port 5 p taken (fun q => .spanAbort port q true) (fun _ => spanAborted port) s

/-- FKIND values that Table FAB-6 reserves. -/
def fkindReserved (k : BitVec 4) : Bool := k == 0 || 9 ≤ k.toNat

def execFabricPacketDiscard (port : Nat) (p : SpanPkt) (s : State) : Host.Outcome State Fault Refusal :=
  if !fkindReserved p.fkind then .fault .notThisCommand
  else answer (ports.contains port)
    (if portUp s port then badFlit port (fabricRecord port p (noteRx port 1 s)) else s)

/-! ## Heartbeats and timeouts (R207) -/

/-- A packet of the engine that names no span. -/
def plainPkt (kind : BitVec 4) (data : Wide) : SpanPkt :=
  { fkind := kind, span := 0, gen := 0, opst := 0, vote := 0, beat := 0, count := 0, data := data, empty := false }

def queueOut (port : Nat) (pkt : SpanPkt) (s : State) : State :=
  { s with fab := { s.fab with reinQ := s.fab.reinQ ++ [FabOut.mk port none pkt s.clk.tclk 1 0] } }

/-- The HOUSE flit of an exchange, `kind` 1, or of its reply, 2: its times side by side (log 30). -/
def exchangePkt (kind : BitVec 2) (t1 t2 t3 : W64) : SpanPkt :=
  { plainPkt 6 (((t3 ++ (t2 ++ t1)) : BitVec 192).setWidth 640) with vote := kind }

/-- A heartbeat is due on a port on which nothing was sent for 1 us and nothing waits. -/
def heartbeatDue (s : State) (port : Nat) : Bool :=
  portUp s port && decide ((fabPort s port).lastTx + usTicks ≤ (houseNow s).toNat) && s.fab.reinQ.all fun o => o.port != port

def execHeartbeat (port : Nat) (s : State) : Host.Outcome State Fault Refusal :=
  answer (ports.contains port) (if heartbeatDue s port then queueOut port (plainPkt 7 0) s else s)

def execHeartbeatArrival (port : Nat) (s : State) : Host.Outcome State Fault Refusal :=
  answer (ports.contains port) (if portUp s port then noteRx port 1 s else s)

/-- Nothing has arrived on a port in use for TIMEOUT us. -/
def timedOut (s : State) (port : Nat) : Bool :=
  portUp s port && !(fabPort s port).lost && decide ((fabPort s port).lastRx + fld s 0x6000 15 0 * usTicks ≤ (houseNow s).toNat)

def execPortTimeout (port : Nat) (s : State) : Host.Outcome State Fault Refusal :=
  answer (ports.contains port) (if timedOut s port then portLost port s else s)

/-! ## Tug training (R192, R312) -/

/-- The interface reports training complete or lost. -/
def tugTrained (port : Nat) (up : Bool) (s : State) : State :=
  let x := fabPort s port
  if up then setFabPort port { x with phy := true } s
  else
    let s1 := setFabPort port { x with phy := false, up := false } s
    if x.phy then portLost port s1 else s1

def execTugTrained (port : Nat) (up : Bool) (s : State) : Host.Outcome State Fault Refusal :=
  answer (decide (port < 4)) (tugTrained port up s)

/-- The engine measures a port from the stage-2 switch on: a transit above 10 TCLK fails it. After a TCLK change the measurement
falls in a stable frame. `peerN` is the neighbour's n. -/
def tugTraining (port transit peerN : Nat) (s : State) : State :=
  let x := fabPort s port
  if !x.phy || s.boot.inReset || s.boot.reduced || (x.again && s.house.unstable) then s
  else if transit ≤ 10 then
    setFabPort port { x with up := true, again := false, lost := false, transit := transit, peerN := peerN, lastRx := (houseNow s).toNat } s
  else
    let s1 := report 0x08 (portUnit port) port none [port, transit]
      (setFabPort port { x with up := false, again := false, transit := transit, peerN := peerN } s)
    if (spansOn s1 port).isEmpty then s1 else portLost port s1

def execTugTraining (port transit peerN : Nat) (s : State) : Host.Outcome State Fault Refusal :=
  answer (decide (port < 4)) (tugTraining port transit peerN s)

/-- The beat sent last failed its CRC: it is resent and arrives exactly 8 TCLK later, and is counted; after the 16th resend of one beat
the port is lost (R193, Table FLT-1). -/
def tugResend (port : Nat) (s : State) : State :=
  let x := fabPort s port
  let s0 := rcBefore 0x6014 s.fab.retry s
  let s1 := { s0 with fab := { s0.fab with retry := s0.fab.retry + 1 } }
  if 16 ≤ x.resends + 1 then portLost port (setFabPort port { x with resends := 0, resend := none } s1)
  else setFabPort port { x with resends := x.resends + 1, resend := x.last.map fun u => (u.1 + 8, u.2) } s1

def execTugResend (port : Nat) (s : State) : Host.Outcome State Fault Refusal := answer (decide (port < 4)) (tugResend port s)

/-- A TCLK change: every tug in use is measured again, on the first stable frame, before a span packet uses it (R192). -/
def retrainTugs (s : State) : State :=
  (List.range 4).foldl (fun a p => setFabPort p { fabPort a p with up := false, again := (fabPort a p).up || (fabPort a p).again } a) s

/-! ## The rein (R196, R197) -/

def validPeers (s : State) : List Nat := (List.range 16).filter fun i => bitB (reg s (0x6040 + 4 * i)) 31

/-- The optical link comes up, or goes down and every peer is lost (R207, R312). -/
def reinUp (up : Bool) (s : State) : State :=
  if up then
    (validPeers s).foldl (fun a i => setFabPort (8 + i) { fabPort a (8 + i) with lost := false, lastRx := (houseNow s).toNat } a)
      { s with fab := { s.fab with reinUp := true } }
  else if s.fab.reinUp then
    (validPeers s).foldl (fun a i => portLost (8 + i) a) { s with fab := { s.fab with reinUp := false } }
  else s

def execReinUp (up : Bool) (s : State) : Host.Outcome State Fault Refusal := .next (reinUp up s)

def execReinUnreach (die : BitVec 16) (s : State) : Host.Outcome State Fault Refusal :=
  .next (((validPeers s).filter fun i => fld s (0x6040 + 4 * i) 15 0 == die.toNat).foldl (fun a i => portLost (8 + i) a) s)

/-- The next beat or flit of a packet as it travels: the header with the number of its first beat, and its payload beats
(Table FAB-6, Table FAB-8). -/
def unitOf (o : FabOut) : FabUnit :=
  let h : BitVec 64 := BitVec.ofNat 64 (headerOf { o.pkt with beat := BitVec.ofNat 3 o.next })
  let pay : BitVec 448 := ((o.pkt.data >>> (128 * o.next)).setWidth (if o.port < 4 then 128 else 384)).setWidth 448
  { port := o.port, bits := pay ++ h }

/-- A unit has gone: driven, and counted (R272, R273). -/
def sentUnit (u : FabUnit) (part_ : Option Nat) (s : State) : State :=
  let s1 := linkBytes u.port 0 (unitBytes u.port 1)
    (setFabPort u.port { fabPort s u.port with lastTx := (houseNow s).toNat, last := some (s.clk.tclk, u) } s)
  let s2 := match part_ with | some q => count q 14 (unitBytes u.port 1) s1 | none => s1
  { s2 with fab := { s2.fab with sent := s2.fab.sent ++ [u] } }

/-- A packet after its next unit has gone. -/
def takeUnit (o : FabOut) (l : List FabOut) : List FabOut :=
  if o.beats ≤ o.next + unitBeats o.port then l.erase o
  else l.map fun x => if x = o then { x with next := x.next + unitBeats o.port } else x

/-- Sends the next unit of a packet. -/
def sendUnit (o : FabOut) (s : State) : State :=
  sentUnit (unitOf o) o.part { s with fab := { s.fab with reinQ := takeUnit o s.fab.reinQ } }

/-- Rank of the engine's own flits: CURTAIN, then HOUSE, HEARTBEAT and SPAN_ABORT; partition packets after them (R191, R197). -/
def outRank (o : FabOut) : Nat :=
  if o.pkt.fkind = 8 then 0 else if o.pkt.fkind = 5 ∨ o.pkt.fkind = 6 ∨ o.pkt.fkind = 7 then 1 else 2

/-- The first of least rank. -/
def firstOut (l : List FabOut) : Option FabOut :=
  l.foldl (fun a o => match a with | none => some o | some b => if outRank o < outRank b then some o else some b) none

/-- Credit in units of 16 flits = 4,096: it accrues at SHARE percent of 100 GB/s, a quarter byte a house tick for each percent. -/
def creditNow (s : State) : Nat :=
  min 4096 (s.fab.credit + fld s 0x6000 23 16 * ((s.clk.tclk - s.fab.creditAt) * 128 / s.clk.mult))

def syncWeight (s : State) (p : Nat) : Nat := fld s (partKey p 0x0C) 23 16

/-- The partition packet whose turn it is by deficit round robin, with the pointer and deficits moved. -/
def reinTurn (l : List FabOut) (s : State) : Option FabOut × State :=
  let ready := (List.range 64).filter fun p => l.any fun o => o.part == some p
  let q := s.fab.drrPtr
  let s0 := { s with fab := { s.fab with drr := s.fab.drr.filter fun d => ready.contains d.1 } }
  let pick := fun p => l.find? fun o => o.part == some p
  let d := Tbl.get 0 s0.fab.drr q
  if ready.contains q ∧ 1 ≤ d then (pick q, { s0 with fab := { s0.fab with drr := Tbl.set 0 q (d - 1) s0.fab.drr } })
  else match nextReady q ready with
    | some p =>
      let dp := Tbl.get 0 s0.fab.drr p + syncWeight s p
      (pick p, { s0 with fab := { s0.fab with drrPtr := p, drr := Tbl.set 0 p (dp - 1) s0.fab.drr } })
    | none => (none, s0)

/-- An exchange flit crosses the adapter's LCLK boundary: stamped with t1 or t3 at the edge's house time (R204). -/
def stampOut (o : FabOut) (s : State) : FabOut × State :=
  let now : W64 := BitVec.ofNat 64 (houseFine s)
  if o.pkt.fkind = 6 ∧ o.pkt.vote = 1 then
    ({ o with pkt := { o.pkt with data := now.setWidth 640 } }, { s with house := { s.house with exch := some now } })
  else if o.pkt.fkind = 6 ∧ o.pkt.vote = 2 then ({ o with pkt := { o.pkt with data := o.pkt.data ||| ((now.setWidth 640) <<< 128) } }, s)
  else (o, s)

/-- Sends one flit of a rein packet. -/
def sendFlit (o : FabOut) (s : State) : State :=
  let (q, s1) := stampOut o s
  sentUnit (unitOf q) q.part { s1 with fab := { s1.fab with reinQ := takeUnit o s1.fab.reinQ } }

/-- One sync flit, within credit, or without it where the controller has no bulk flit waiting (R197). -/
def reinFlitSend (bulk : Bool) (s : State) : State :=
  let credit := creditNow s
  let ok := s.fab.reinQ.filter fun o => 8 ≤ o.port ∧ o.ready ≤ s.clk.tclk ∧ portUp s o.port
  if ok.isEmpty || (decide (credit < 256) && bulk) then s
  else
    let (o?, s1) := match firstOut (ok.filter fun o => outRank o < 2 || o.part.isNone) with
      | some o => (some o, s)
      | none => reinTurn ok s
    match o? with
    | none => s
    | some o =>
      sendFlit o { s1 with fab := { s1.fab with credit := if 256 ≤ credit then credit - 256 else credit, creditAt := s.clk.tclk } }

def execReinFlitSend (bulk : Bool) (s : State) : Host.Outcome State Fault Refusal := .next (reinFlitSend bulk s)

/-- The tug packet whose beat leaves next in a direction: the one whose beats have begun to go, else CURTAIN first, then ascending span
id (R191, R193). -/
def tugFirst (l : List FabOut) : Option FabOut :=
  let key := fun (o : FabOut) => if o.next ≠ 0 then 0 else (if o.pkt.fkind = 8 then 1 else 2) * 2 ^ 20 + o.pkt.span.toNat
  l.foldl (fun a o => match a with | none => some o | some b => if key o < key b then some o else some b) none

/-- One TCLK of a tug: a beat that is resent, or the next beat of a packet (R193). -/
def tugOut (port : Nat) (s : State) : State :=
  if !portUp s port then s
  else match (fabPort s port).resend with
    | some (t, u) => if s.clk.tclk < t then s else sentUnit u none (setFabPort port { fabPort s port with resend := none } s)
    | none => match tugFirst (s.fab.reinQ.filter fun o => o.port == port && decide (o.ready ≤ s.clk.tclk)) with
      | some o => sendUnit o s
      | none => s

end Sys2Proof.Machine
end

