-- ==== Sys2Proof/Machine/House.lean ====
section
/-! DEFINITION. The house clock (R31, R138, R202 to R206): frames, adoption from a tug, the two-way exchange, slews and steps. -/

namespace Sys2Proof.Machine

/-! ## Settings (Table FAB-10) -/

def hcSrc (s : State) : Nat := fld s 0x0100 31 30
def hcTug (s : State) : Nat := fld s 0x0100 29 28
def hcPeer (s : State) : Nat := fld s 0x0100 27 24
/-- PERIOD in house ticks. -/
def hcPeriod (s : State) : Nat := fld s 0x0100 15 8 * 16 * usTicks
def hcLimit (s : State) : Nat := fld s 0x0100 7 0 * 1000 * usTicks

def hcCode : HcState → Nat
  | .free => 0
  | .locking => 1
  | .locked => 2
  | .holdover => 3

def hcOf (c : BitVec 2) : HcState :=
  match c.toNat with | 0 => .free | 1 => .locking | 2 => .locked | _ => .holdover

/-- The STATE a die reports: a FREE reference reports LOCKED (R205). -/
def hcReported (s : State) : HcState :=
  if hcSrc s = 0 ∧ bitB (reg s 0x0100) 23 then .locked else s.house.state

/-- A house-clock record; the cause codes are the model's (log 8). -/
def houseRecord (cause : Nat) (s : State) : State :=
  report 0x07 13 0 none [hcCode (hcReported s), s.house.offset.toNat, cause] s

/-- Enters a state: a change queues TIMEBASE (R276), and fabric entries are lost in LOCKING and FREE (R206). -/
def setHc (x : HcState) (s : State) : State :=
  if x = s.house.state then s
  else
    let held := clockHolds s
    let s1 := { s with house := { s.house with state := x } }
    let s2 := if held && !clockHolds s1 then clockLost s1 else s1
    traceTimebase (if x = .holdover then { s2 with house := { s2.house with holdSince := (houseNow s).toNat } } else s2)

/-! ## Frames (R31, R138, R203) -/

/-- Whether a frame of `edges` TCLK edges is unstable after one of `before`; frame 0 has none before it (R138). -/
def unstableFrame (before : Option Nat) (edges : Nat) : Bool :=
  edges < 20 || 48 < edges || (match before with | some b => b != edges | none => false)

/-- Ticks of the frame numbered `f`: a slewed one has 127 or 129. -/
def frameTicks (s : State) (f : Nat) : Int :=
  128 + (match s.house.announced.find? fun a => a.frame == f && a.step.isNone with | some a => a.slew | none => 0)

/-- What the clock takes as the start of the coming frame: a time adopted or a seed, a step, or `plain` (R31, R202, R203). -/
def startOr (plain : W64) (s : State) : W64 :=
  match s.house.adopt with
  | some t => t
  | none => match s.house.announced.find? fun a => a.frame == s.house.frameNo + 1 && a.step.isSome with
    | some a => a.step.getD 0
    | none => plain

/-- The start of the frame after the present one. -/
def nextStart (s : State) : W64 :=
  startOr (s.house.frameStart + BitVec.ofInt 64 (frameTicks s s.house.frameNo)) s

/-- House ticks of the HREF counter after `j` cycles of a frame: steps of 26, 25, 26, 25 and 26 (R31). -/
def hrefStep (j : Nat) : Nat := match j with | 0 => 0 | 1 => 26 | 2 => 51 | 3 => 77 | _ => 102

/-- What the HREF counter reads at the HREF edge that begins the coming frame. -/
def nextHref (s : State) : W64 :=
  startOr (s.house.href - BitVec.ofNat 64 (hrefStep s.house.hrefCyc) + BitVec.ofInt 64 (frameTicks s s.house.frameNo)) s

/-- The HREF cycle of the present TCLK edge, and the counter with it: HREF makes five cycles in a frame (R30, R31). -/
def hrefTurn (s : State) : State :=
  let h := s.house
  if h.lead ≠ 0 then s
  else
    let j := min 4 (h.edge * 5 / max 1 h.len)
    { s with house := { h with hrefCyc := j, href := h.href - BitVec.ofNat 64 (hrefStep h.hrefCyc) + BitVec.ofNat 64 (hrefStep j) } }

/-- Notes frames that begin at house time `start` with TCLK edge `t`, where the latest noted ones do not run on to them. -/
def noteRun (r : HouseRun) (l : List HouseRun) : List HouseRun :=
  match l with
  | [] => [r]
  | a :: _ =>
    let k := (r.start.toNat - a.start.toNat) / 128
    if a.n = r.n ∧ a.bad = r.bad ∧ a.start.toNat ≤ r.start.toNat ∧ a.start.toNat + 128 * k = r.start.toNat ∧ a.tclk + a.n * k = r.tclk
    then l else r :: l

/-- The house edge of the coming TCLK edge: the first edge of frame 0 once the edges before it have gone, that of a new frame, or the
next one (R31). -/
def houseEdge (s : State) : State :=
  let h := s.house
  if 1 < h.lead then { s with house := { h with lead := h.lead - 1 } }
  else if h.lead = 1 then
    { s with house := { h with lead := 0, fresh := false, edge := 0, runs := noteRun (HouseRun.mk h.frameStart s.clk.tclk s.clk.mult h.unstable) h.runs } }
  else if h.fresh then { s with house := { h with fresh := false, edge := 0 } }
  else { s with house := { h with edge := h.edge + 1 } }

/-- A slew of one tick for the frame 64 frames on, at most every fourth frame, while a correction is left; in HOLDOVER at the
rate last in force (R203, R205). -/
def nextSlew (s : State) : State :=
  let h := s.house
  if hcSrc s ≠ 2 ∨ h.slew = 0 ∨ h.frameNo % 4 ≠ 0 ∨ h.state = .free then s
  else
    let d : Int := if 0 < h.slew then 1 else -1
    let rest := if h.state = .holdover then h.slew else h.slew - d
    { s with house := { h with slew := rest, tell := true, announced := h.announced ++ [Announce.mk (h.frameNo + 64) d none] } }

/-- Whether a PERIOD of HOUSE packets and exchanges begins with this frame (R202, R204). -/
def periodBegins (s : State) : Bool := s.house.frameNo % (max 1 (fld s 0x0100 15 8) * 500) == 0

/-- HOUSE packets of a source, in the first edge of a frame: its start and state, and the latest correction that still lies
ahead, on every tug in use but its own source (R202, R203; log 30). -/
def sendHouse (s : State) : State :=
  let a := (s.house.announced.filter fun x => s.house.frameNo < x.frame).getLast?
  let value : W64 := match a with | some x => x.step.getD (BitVec.ofInt 64 x.slew) | none => 0
  let ahead := match a with | some x => x.frame - s.house.frameNo | none => 0
  let data : Wide := (value ++ s.house.frameStart : BitVec 128).setWidth 640
  let kind : BitVec 2 := match a with | some x => if x.step.isSome then 2 else 1 | none => 0
  let pkt := { plainPkt 6 data with opst := BitVec.ofNat 5 (hcCode (hcReported s)), vote := kind, count := BitVec.ofNat 24 ahead }
  ((List.range 4).filter fun p => portUp s p && !(hcSrc s == 1 && hcTug s == p)).foldl (fun b p => queueOut p pkt b)
    { s with house := { s.house with tell := false } }

/-- What a frame's first edge sends: HOUSE in each PERIOD and for each new correction; the exchange of a package master in each
PERIOD (R202 to R204). -/
def frameSends (s : State) : State :=
  let s1 := if periodBegins s || s.house.tell then sendHouse s else s
  if periodBegins s && hcSrc s == 2 then afterT 0 .houseExchange s1 else s1

/-- The TCLK edges counted in the present frame so far (R138). -/
def edgesMade (h : House) : Nat := if h.fresh then 0 else h.edge + 1

/-- The count of the frame before the present one; none in frame 0. -/
def countBefore (h : House) : Option Nat := if h.frameNo = 0 then none else some h.n

/-- The clock periods in units of the new TCLK multiple, with the time of a gap taken off (log 2). -/
def retune (mult gap : Nat) (c : Clocks) : Clocks :=
  { c with mult := mult, eclkAcc := (c.eclkAcc - gap) * mult / max 1 c.mult, mclkAcc := (c.mclkAcc - gap) * mult / max 1 c.mult }

/-- Frame 0 begins, of `edges` edges: the counter reads 0 at its first edge (R31). -/
def frameZero (edges : Nat) (s : State) : State :=
  { s with house := { s.house with frameStart := 0, href := 0, lead := 1, fresh := true, len := edges,
                                   unstable := unstableFrame none edges },
           clk := retune (if 20 ≤ edges ∧ edges ≤ 48 then edges else s.clk.mult) 0 s.clk }

/-- The present frame ends after its latest TCLK edge: its edges are counted, and an unstable one is recorded. The frame that begins
with the next TCLK edge has `edges` edges, 0 while TCLK is stopped; its start is compared with the HREF counter, which reads `href`
(R31, R138, R203; log 2). -/
def nextFrame (edges : Nat) (href : W64) (s : State) : State :=
  let h := s.house
  let c := edgesMade h
  let was := unstableFrame (countBefore h) c
  let start := nextStart s
  let now := h.frameNo + 1
  let bad := unstableFrame (some c) edges
  let runs := if was = h.unstable then h.runs else noteRun (HouseRun.mk h.frameStart (s.clk.tclk + 1 - c) (nOf s) was) h.runs
  let mult := if 20 ≤ edges ∧ edges ≤ 48 then edges else s.clk.mult
  let s1 := { s with
    clk := retune mult (if h.len = 0 ∧ h.fresh then 128 * s.clk.mult else 0) s.clk,
    house := { h with
      frameStart := start, edge := 0, fresh := true, n := c, len := edges, unstable := bad, badLast := was, frameNo := now, adopt := none,
      nStat := if was then h.nStat else c, href := href, hrefCyc := 0, ticks := frameTicks s h.frameNo,
      runs := noteRun (HouseRun.mk start (s.clk.tclk + 1) (if edges = 0 then 0 else if c = 0 then mult else c) bad) runs,
      announced := h.announced.filter fun a => now < a.frame || (a.frame == now && a.step.isNone) } }
  let s2 := if was then houseRecord 1 s1 else s1
  let s3 := if start = href then s2 else houseRecord 2 s2
  nextSlew (if c = edges ∨ c = 0 then s3 else retrainTugs s3)

/-- A house frame begins (R31, R138). -/
def houseFrame (edges : Nat) (href : W64) (s : State) : State :=
  if s.house.lead = 0 then nextFrame edges href s else frameZero edges s

def execHouseFrame (edges : Nat) (href : W64) (s : State) : Host.Outcome State Fault Refusal := .next (houseFrame edges href s)

/-! ## Adoption from a tug (R202, R203) -/

/-- Queues an announced slew (kind 1: +1, or -1 where the value's top bit is set) or step (kind 2) for the frame `frame` frames on. -/
def announce (kind : Nat) (value : W64) (frame : Nat) (s : State) : State :=
  if kind = 0 ∨ 3 ≤ kind then s
  else if frame = 0 then houseRecord 4 (setHc .locking s)
  else
    let f := s.house.frameNo + frame
    let a : Announce := if kind = 1 then { frame := f, slew := if value.msb then -1 else 1, step := none }
                        else { frame := f, slew := 0, step := some value }
    if s.house.announced.contains a then s else { s with house := { s.house with tell := true, announced := s.house.announced ++ [a] } }

/-- The HREF edge nearest to `pos` TCLK edges after this frame's boundary, counted in HREF cycles of n/5 edges. -/
def nearestHref (n : Nat) (pos : Int) : Int := (pos * 10 + n) / (2 * n : Nat)

/-- Ticks from the start of the frame `k` frames on (before, if negative) to the end of the present one. -/
def ticksToEnd (s : State) (k : Int) : Int :=
  frameTicks s s.house.frameNo + (if k < 0 then s.house.ticks + 128 * (-k - 1) else -128 * k)

/-- The carried time against the own counter: where the frames coincide and the times differ, or where the frames do not
coincide, the carried time is adopted at the next boundary (R202). -/
def adoptTime (port : Nat) (start : W64) (s : State) : State :=
  let h := s.house
  let n := max 1 h.len
  let k := nearestHref n ((h.edge : Int) - ((fabPort s port).transit : Int))
  if k % 5 = 0 then
    let f := k / 5
    let plain := h.frameStart + BitVec.ofInt 64 (frameTicks s h.frameNo)
    let t := start + BitVec.ofInt 64 (ticksToEnd s f)
    if t = plain then s else houseRecord 3 { s with house := { h with adopt := some t } }
  else
    let e := (((h.edge : Int) - k * (n : Nat) / 5) % (n : Nat)).toNat
    houseRecord 3 { s with house := { h with edge := e, hrefCyc := min 4 (e * 5 / n), adopt := some (start + BitVec.ofInt 64 (frameTicks s h.frameNo)),
                                             href := h.href - BitVec.ofNat 64 (hrefStep h.hrefCyc) + BitVec.ofNat 64 (hrefStep (min 4 (e * 5 / n))) } }

/-- A HOUSE packet: heard only from the tug that UHK_HC_CTL names (R202). -/
def housePacket (port : Nat) (start : W64) (st kind : BitVec 2) (value : W64) (frame : Nat) (s : State) : State :=
  if !portUp s port then s
  else
    let s1 := noteRx port 1 s
    if hcSrc s ≠ 1 ∨ hcTug s ≠ port then s1
    else
      let s2 := adoptTime port start { s1 with house := { s1.house with lastExch := (houseNow s).toNat } }
      announce kind.toNat value frame (setHc (hcOf st) s2)

def execHouse (port : Nat) (start : W64) (st kind : BitVec 2) (value : W64) (frame : Nat) (s : State) :
    Host.Outcome State Fault Refusal :=
  answer (decide (port < 4)) (housePacket port start st kind value frame s)

/-! ## The two-way exchange (R204, R205) -/

/-- HOLDOVER after a PERIOD without a completed exchange or HOUSE packet, from LOCKED. -/
def missed (s : State) : State := if s.house.state = .locked then setHc .holdover s else s

/-- A PERIOD of the package master: the exchange before must have completed; a new one starts, stamped with t1 as its flit leaves. -/
def houseExchange (s : State) : State :=
  if hcSrc s ≠ 2 then s
  else
    let s1 := if s.house.exchOn then missed s else s
    let s2 := { s1 with house := { s1.house with exch := none, exchOn := true, lastExch := (houseNow s).toNat } }
    if portUp s2 (8 + hcPeer s2) then queueOut (8 + hcPeer s2) (exchangePkt 1 0 0 0) s2 else s2

def execHouseExchange (s : State) : Host.Outcome State Fault Refusal := .next (houseExchange s)

def iabs (x : Int) : Nat := x.natAbs

/-- o in units of 1/128 tick. -/
def offsetOf (asym : W32) (t1 t2 t3 t4 : W64) : Int :=
  let d := fun (a b : W64) => (a - b).toInt
  (d t4 t3 - d t2 t1 + 128 * ((asym.setWidth 16 : BitVec 16).toInt)) / 2

def saturate16 (x : Int) : BitVec 16 := BitVec.ofInt 16 (max (-32768) (min 32767 x))

/-- LOCKING corrects by a step above 1,024 ticks, announced with the next frame, else by slews; 16 good measurements in a row lock it. -/
def lockingStep (o : Int) (s : State) : State :=
  let h := s.house
  if 1024 * 128 < iabs o then
    if h.announced.any (fun a => a.step.isSome) then { s with house := { h with good := 0 } }
    else
      let t := h.frameStart + BitVec.ofInt 64 (128 * 65 - o / 128)
      { s with house := { h with good := 0, slew := 0, tell := true, announced := h.announced ++ [Announce.mk (h.frameNo + 65) 0 (some t)] } }
  else
    let g := if iabs o ≤ 4 * 128 then h.good + 1 else 0
    let s1 := { s with house := { h with good := g, slew := -(o / 128) } }
    if 16 ≤ g then setHc .locked s1 else s1

/-- A measurement in each state of R205. -/
def measured (o : Int) (s0 : State) : State :=
  let s := { s0 with house := { s0.house with offset := saturate16 (o / 128), exch := none, exchOn := false, lastExch := (houseNow s0).toNat } }
  let slewed := { s with house := { s.house with slew := -(o / 128) } }
  match s.house.state with
  | .free => s
  | .locking => lockingStep o s
  | .locked =>
    let s1 := if 8 * 128 < iabs o then rcBefore 0x011C slewed.house.excur { slewed with house := { slewed.house with excur := slewed.house.excur + 1 } } else slewed
    if 32 * 128 < iabs o then houseRecord 5 (setHc .locking { s1 with house := { s1.house with good := 0 } }) else s1
  | .holdover =>
    if iabs o ≤ 8 * 128 then setHc .locked slewed else setHc .locking { slewed with house := { slewed.house with good := 0 } }

/-- An exchange flit crosses into the adapter (R204): at the peer it is stamped with t2, and the reply with t3 as it leaves; at the
master t4 is the house time of its arrival, and the measurement is complete. -/
def exchangeReply (port : Nat) (t1 t2 t3 : W64) (asPeer : Bool) (s : State) : State :=
  if !portUp s port then s
  else
    let s1 := noteRx port 1 s
    let now : W64 := BitVec.ofNat 64 (houseFine s)
    if asPeer then queueOut port (exchangePkt 2 t1 now 0) s1
    else if hcSrc s ≠ 2 ∨ 8 + hcPeer s ≠ port ∨ s.house.exch ≠ some t1 then s1
    else measured (offsetOf (reg s 0x0118) t1 t2 t3 now) s1

def execExchangeReply (port : Nat) (t1 t2 t3 : W64) (asPeer : Bool) (s : State) : Host.Outcome State Fault Refusal :=
  answer (decide (8 ≤ port ∧ port < 24)) (exchangeReply port t1 t2 t3 asPeer s)

/-- HOLDLIM ms in HOLDOVER have passed. -/
def limitPassed (s : State) : Bool :=
  s.house.state == .holdover && decide (s.house.holdSince + hcLimit s ≤ (houseNow s).toNat)

def execHoldoverLimit (s : State) : Host.Outcome State Fault Refusal :=
  .next (if limitPassed s then houseRecord 6 (setHc .free s) else s)

/-! ## Settings written by the manager (R31, R205) -/

/-- A write of UHK_HC_CTL restarts locking. -/
def restartLocking (s : State) : State :=
  let s1 := { s with house := { s.house with good := 0, slew := 0, exch := none, exchOn := false, announced := [], lastExch := (houseNow s).toNat } }
  setHc (if hcSrc s = 0 then .free else .locking) s1

/-- A seed becomes the start of the next frame (R31). -/
def seedHouse (hi : W32) (s : State) : State :=
  { s with house := { s.house with adopt := some (hi ++ (s.house.seedLo &&& 0xFFFF_FF80#32)) } }

end Sys2Proof.Machine
end

