-- ==== Sys2Proof/Machine/Curtain.lean ====
section
/-! DEFINITION. The curtain (R287 to R294), partition resets and die errors (R214, R215, R248, R268), thaws, tile isolation and
region sleep (R62, R67, R87, R88, R318). -/

namespace Sys2Proof.Machine

/-! ## Who may clear what (Table OBS-7) -/

def mayClear : CurtainSrc → BitVec 6
  | .tenant => 0b001110
  | .manager => 0b011111
  | .ring => 0b011111
  | .fault => 0b111111
  | _ => 0

/-- Whether a source may clear every cause bit that is set. -/
def entitled (s : State) (p : Nat) (src : CurtainSrc) : Bool := (part s p).causes &&& ~~~ (mayClear src) == 0

/-! ## Completing CURTAIN descriptors (R261) -/

/-- The partition a descriptor acts on: its own, or on the manager ring the one its field names (R260). -/
def descTarget (x : Desc) (hi lo : Nat) : Nat := if x.part = 0 ∧ x.ring = 0 then descBits x 1 hi lo else x.part

/-- Who asks by a CURTAIN descriptor. -/
def descSrc (x : Desc) : CurtainSrc := if x.part = 0 ∧ x.ring = 0 then .ring else .tenant

/-- The first started CURTAIN descriptor of this source with this target and act completes now that the curtain is in force or
lifted. -/
def curtainDone (p act : Nat) (src : CurtainSrc) (s : State) : State :=
  match s.hq.descs.find? fun d => d.started && descOp d.x == 9 && d.refusal == 0 && descBits d.x 1 8 8 == 0
      && descTarget d.x 21 16 == p && descBits d.x 1 1 0 == act && descSrc d.x == src with
  | some d => complete d.x (Done.plain stOk) false s
  | none => s

/-- A refused descriptor: REFUSED, counted and logged (R244); ALLDIE without the scope is a manager-access record too (R252). -/
def refuseDesc (x : Desc) (cause : Nat) (s : State) : State :=
  let s1 := if descOp x = 9 ∧ cause = 4 then mgrAccess 0x5180 (descBits x 1 1 0) 0x252 s else s
  complete x (Done.plain stRefused) false (report 0x0F 17 x.ring (some x.part) [2, descOp x, cause] (count x.part 4 1 s1))

/-- A lift that its source may not make: the descriptor that asked completes REFUSED (R287, R289). -/
def curtainRefuse (p act : Nat) (src : CurtainSrc) (s : State) : State :=
  match s.hq.descs.find? fun d => d.started && descOp d.x == 9 && descBits d.x 1 8 8 == 0 && descTarget d.x 21 16 == p
      && descBits d.x 1 1 0 == act && descSrc d.x == src with
  | some d => refuseDesc d.x 7 s
  | none => s

/-! ## Raising (R287, R288) -/

def curtainRaise (p : Nat) (src : CurtainSrc) (inForce : Bool) (s : State) : State :=
  if inForce then curtainDone p 0 src (updPart p (fun x => { x with curtain := x.curtain ||| (1#6 <<< causeOf src) }) s)
  else
    let s1 := setCause p src s
    let s2 := if (part s p).causes = 0 then sendCurtain p 0 (causeOf src + 1) s1 else s1
    afterT 11 (.curtainRaise p src true) s2

def execCurtainRaise (p : Nat) (src : CurtainSrc) (inForce : Bool) (s : State) : Host.Outcome State Fault Refusal :=
  answer (decide (p < 64)) (curtainRaise p src inForce s)

/-! ## What a lift resumes (R289, Table OBS-8) -/

/-- The stirrups that hold `p`'s stamp. -/
def stirsOf (s : State) (p : Nat) : List Nat :=
  (List.range nStirrup).filter fun st => Tbl.has s.stirs st && wAssigned (stir s st).role && stirPart (stir s st) == p

/-- Queued commands issue in the coming TCLK; passes and expiries that waited go on; of the cues that became due the first may leave at
once (R133). -/
def resumePart (p : Nat) (s : State) : State :=
  homeResume p ((stirsOf s p).foldl (fun a st => wake st a) { s with pwr := { s.pwr with lastDue := Tbl.erase p s.pwr.lastDue } })

/-- Clears the bits of a source that are in effect; where none remains the curtain is down. -/
def curtainFall (p : Nat) (src : CurtainSrc) (how : Nat) (s : State) : State :=
  let x := part s p
  let left := x.curtain &&& ~~~ (mayClear src)
  let s1 := setPart p { x with curtain := left } s
  if x.curtain ≠ 0 ∧ left = 0 then resumePart p (event p 0x03 (BitVec.ofNat 32 how) 0 s1) else s1

/-- Clears the cause bits of a source; a lift of the last one is sent to the span's dies (R290). -/
def clearCauses (p : Nat) (src : CurtainSrc) (act : Nat) (s : State) : State :=
  let x := part s p
  let left := x.causes &&& ~~~ (mayClear src)
  let s1 := setPart p { x with causes := left } s
  if x.causes ≠ 0 ∧ left = 0 then sendCurtain p act (causeOf src + 1) s1 else s1

def curtainLift (p : Nat) (src : CurtainSrc) (inForce : Bool) (s : State) : State :=
  if inForce then curtainDone p 1 src (curtainFall p src 0 s)
  else if src = .tenant ∧ !entitled s p src then curtainRefuse p 1 src s
  else afterT 11 (.curtainLift p src true) (clearCauses p src 1 s)

def execCurtainLift (p : Nat) (src : CurtainSrc) (inForce : Bool) (s : State) : Host.Outcome State Fault Refusal :=
  answer (decide (p < 64)) (curtainLift p src inForce s)

/-! ## Ending a partition's pending work (R289, R248) -/

/-- The commands waiting in a stirrup's own queues complete with ABORTED; FENCE writes no status. -/
def abortQueue (st : Nat) (s : State) : State :=
  let x := stir s st
  let l := x.cmdQ ++ x.homeQ
  let status := l.any fun c => cClass c.word == 0 || ((cClass c.word == 1 || cClass c.word == 2) && cHeld c.word)
  let posted := l.filter fun c => cClass c.word == 4 || ((cClass c.word == 1 || cClass c.word == 2) && !cHeld c.word)
  let y := { x with cmdQ := [], homeQ := [], status := if status then stAborted else x.status, postNew := x.postNew || !posted.isEmpty }
  let s1 := setStir st y s
  if posted.isEmpty then s1 else count (stirPart x) 3 posted.length s1

/-- The cue as an abort replaces it. -/
def voidCue (c : Cue) : Cue := { c with status := stAborted, data := 0, inexact := false, overflow := false }

/-- The cues that `q` names and that wait in stalls become ABORTED cues, each counted once (Table OBS-1). -/
def voidWaves (q : Nat → Bool) (s : State) : State :=
  let mine := fun (c : Cue) => q c.slot
  let new := ((s.tree.waves.filter fun w => mine w.cue && w.cue.status != stAborted).map fun w => (w.cue.slot, w.cue.epoch)).eraseDups
  new.foldl (fun a x => match slotOwner a x.1 with | some p => count p 3 1 a | none => a)
    { s with tree := { s.tree with waves := s.tree.waves.map fun w => if mine w.cue then { w with cue := voidCue w.cue } else w } }

/-- Cues of `p` that wait in stalls or at roots become ABORTED cues. -/
def voidWaiting (p : Nat) (s : State) : State :=
  let mine := fun (i : Nat) => slotOwner s i == some p
  let s1 := voidWaves mine s
  { s1 with fab := { s1.fab with sched := s1.fab.sched.map fun x => if mine x.cue.slot then { x with cue := voidCue x.cue } else x } }

/-- Held cues of `p` leave as ABORTED cues, which are never held (R131). -/
def releaseHeld (p : Nat) (s : State) : State :=
  let mine := s.tree.held.filter fun h => heldPart s h == p
  mine.foldl (fun a h => release h.at_ (voidCue h.cue) (dropHeld h a)) s

def slotsOf (s : State) (p : Nat) : List Nat := (List.range 512).filter fun i => slotOwner s i == some p

def slotEntries (s : State) (p : Nat) : List Nat :=
  (List.range 128).filter fun e => spanValid s e && slotOwner s (spanSlot s e) == some p

/-- Tally commands of `p` that wait for their TCLK complete with ABORTED. -/
def abortTallies (p : Nat) (s : State) : State :=
  let mine := s.tly.due.filterMap fun d => match d.act with | .cmd r => if r.part = p then some r else none | .report _ _ _ _ => none
  let rest := s.tly.due.filter fun d => match d.act with | .cmd r => r.part != p | .report _ _ _ _ => true
  mine.foldl (fun a r => tallyAnswer r stAborted 0 a) { s with tly := { s.tly with due := rest } }

/-- Snapshot requests that `q` names leave the queue; a new head takes its turn. -/
def dropSnaps (q : Desc → Bool) (s : State) : State :=
  let left := s.obs.snaps.filter fun y => !q y.x
  let s1 := unschedule (fun e => match e with | .snapshot x => q x | _ => false) { s with obs := { s.obs with snaps := left } }
  match s.obs.snaps, left with
  | y :: _, z :: _ => if q y.x then afterE 1 (.snapshot z.x) s1 else s1
  | _, _ => s1

/-- The fetched descriptors of `p` that `q` names complete with ABORTED, whatever their QUIET bit; one whose words are still to come
does so when they have (R268). -/
def abortDescs (q : DescState → Bool) (p : Nat) (s : State) : State :=
  let mine := s.hq.descs.filter fun d => d.x.part == p && q d
  let s1 := dropSnaps (fun x => mine.any fun d => sameDesc d.x x)
    { s with hq := { s.hq with
        hostCall := s.hq.hostCall.filter (fun h => !(mine.any fun d => sameDesc d.x h.2)),
        descs := s.hq.descs.map fun d => if d.x.part == p && q d && !d.decoded then { d with aborted := true } else d } }
  (mine.filter (·.decoded)).foldl (fun a d => complete d.x (Done.plain stAborted) true a) s1

/-- The CURTAIN descriptor that asks for this very ending completes OK after it. -/
def asksAbort (p : Nat) (x : Desc) : Bool :=
  descOp x == 9 && descBits x 1 8 8 == 0 && descBits x 1 1 0 == 2 && descTarget x 21 16 == p

/-- Whether the slot's span is about to be lost, which counts its aborted epoch (R208). -/
def spanLoses (s : State) (p slot : Nat) : Bool :=
  (slotEntries s p).any fun e => spanSlot s e == slot && spanValid s e && !(spanState s e).broken && s.fab.sched.all fun x => x.slot != slot

/-- All pending work of `p` ends with ABORTED; object values and tallies are kept (R289). -/
def abortWork (p : Nat) (s : State) : State :=
  let s1 := voidWaiting p s
  let s2 := (slotsOf s1 p).foldl (fun a i => if holdsArrival a i && !spanLoses a p i then abortSlot i (rootOf a i) (memberStalls a i) a else a) s1
  let s3 := abortTallies p (journalDrop p (abortHome p s2))
  let s4 := (stirsOf s3 p).foldl (fun a st => abortQueue st a) s3
  let s5 := abortDescs (fun d => d.started && !asksAbort p d.x) p s4
  let s6 := updPart p (fun x => { x with replays := 0 }) s5
  releaseHeld p ((slotEntries s6 p).foldl (fun a e => loseSpan none e a) s6)

/-- A lift with abort: refused where its source may not clear every bit set, and without effect where none is set. -/
def curtainLiftAbort (p : Nat) (src : CurtainSrc) (inForce : Bool) (s : State) : State :=
  if inForce then
    if inUndo s p || undoRuns s p then afterT 1 (.curtainLiftAbort p src true) s
    else curtainDone p 2 src (curtainFall p src 1 (abortWork p s))
  else if (part s p).causes = 0 then curtainDone p 2 src s
  else if !entitled s p src then
    (if src = .manager then mgrAccess 0x5180 p 0x289 s else curtainRefuse p 2 src s)
  else afterT 11 (.curtainLiftAbort p src true) (clearCauses p src 2 s)

def execCurtainLiftAbort (p : Nat) (src : CurtainSrc) (inForce : Bool) (s : State) : Host.Outcome State Fault Refusal :=
  answer (decide (p < 64)) (curtainLiftAbort p src inForce s)

/-! ## The die curtain (R252, R287, R292) -/

def authDie (s : State) : Bool := bitB s.dbg.auth 0
def authScan (s : State) : Bool := bitB s.dbg.auth 1

/-- Asks for a change of DIE with effect in TCLK `due`: 0 raise, 1 lift, 2 lift with abort. One raised by a die error never lifts. -/
def askDie (act due : Nat) (s : State) : State :=
  if act ≠ 0 && s.cur.byError then s
  else { s with cur := { s.cur with raw := act == 0, dues := s.cur.dues ++ [(due, act)] } }

/-- A change of DIE takes effect 11 TCLK after its request (R288). -/
def setDie (act : Nat) (s : State) : State := askDie act (s.clk.tclk + 11) s

/-- The first started CURTAIN descriptor with ALLDIE and this act completes (R261). -/
def allDieDone (act : Nat) (s : State) : State :=
  match s.hq.descs.find? fun d => d.started && d.refusal == 0 && descOp d.x == 9 && descBits d.x 1 8 8 == 1 && descBits d.x 1 1 0 == act with
  | some d => complete d.x (Done.plain stOk) false s
  | none => s

/-- The partitions that exist. -/
def liveParts (s : State) : List Nat := (List.range 64).filter fun p => (part s p).state != .free

/-- The die curtain's change of this TCLK, if one is due; SCANOK ends with it (R294). A lift with abort first ends the pending work of
every partition, after any undo that runs (R289). -/
def dieEffect (s : State) : State :=
  match s.cur.dues.find? fun d => d.1 ≤ s.clk.tclk with
  | none => s
  | some d =>
    if d.2 = 2 && (liveParts s).any (fun p => inUndo s p || undoRuns s p) then s
    else
      let s0 := if d.2 = 2 ∧ s.cur.die then (liveParts s).foldl (fun a p => abortWork p a) s else s
      let s1 := allDieDone d.2 { s0 with cur := { s0.cur with die := d.2 == 0, scanOk := s0.cur.scanOk && d.2 == 0,
                                                              dues := s0.cur.dues.filter fun x => x != d } }
      if s.cur.die && d.2 != 0 then (liveParts s1).foldl (fun a p => resumePart p a) s1 else s1

/-- A CURTAIN packet with ALL 1 on every trained tug and to every valid rein peer. -/
def allOut (die seq act : Nat) (skip : Option Nat) (s : State) : State :=
  (ports.filter fun q => portUp s q && skip != some q).foldl
    (fun a q => queueOut q (plainPkt 8 (curtainBeat 0 die seq act 5 true)) a) s

def dieCurtain (act : Nat) (propagate : Bool) (s : State) : State :=
  if !authDie s then mgrAccess 0x5180 act 0x252 s
  else
    let s1 := setDie act s
    if propagate then
      allOut (dieId s) s.cur.seq.toNat act none { s1 with cur := { s1.cur with seq := s1.cur.seq + 1 } }
    else s1

def execDieCurtain (act : Nat) (propagate : Bool) (s : State) : Host.Outcome State Fault Refusal :=
  answer (decide (act < 3)) (dieCurtain act propagate s)

/-- SCAN: SCANOK while the die curtain is in force and AUTH holds the scan-out scope (R294). -/
def scan (s : State) : State :=
  if s.cur.die && authScan s then { s with cur := { s.cur with scanOk := true } } else mgrAccess 0x5184 0x2000_0000 0x294 s

def execScan (s : State) : Host.Outcome State Fault Refusal := .next (regWrite scan s)

/-! ## CURTAIN packets (R290, R292) -/

def srcOf (code : Nat) : CurtainSrc :=
  match code with | 1 => .verdict | 2 => .watchpoint | 3 => .tile | 4 => .tenant | 5 => .manager | _ => .fault

/-- Whether a packet has been applied: its SEQ is remembered until 128 later ones of its die have come (log 31). -/
def seenPacket (s : State) (die seq : Nat) : Bool := (dieId s == die) || s.cur.seen.contains (die, seq)

def rememberPacket (die seq : Nat) (s : State) : State :=
  { s with cur := { s.cur with seen := (s.cur.seen.filter fun x => x.1 != die || (seq + 256 - x.2) % 256 < 128) ++ [(die, seq)] } }

/-- Acts on a partition as its die's packet says, and forwards the packet. -/
def curtainActs (port p die seq act code : Nat) (s : State) : State :=
  let src := srcOf code
  let s1 := curtainOut p die seq act code (some port) s
  if act = 0 then afterT 11 (.curtainRaise p src true) (setCause p src s1)
  else
    let x := part s1 p
    let s2 := setPart p { x with causes := x.causes &&& ~~~ (mayClear src) } s1
    if act = 1 then afterT 11 (.curtainLift p src true) s2
    else if x.causes ≠ 0 ∧ entitled s1 p src then afterT 11 (.curtainLiftAbort p src true) s2 else s1

/-- The partition whose entry a CURTAIN packet names (R290). -/
def curtainOwner (s : State) (pkt : SpanPkt) : Option Nat :=
  if bitB pkt.data 49 then none
  else match spanFor s (BitVec.ofNat 20 (bitsN pkt.data 19 0)) with
    | some e => slotOwner s (spanSlot s e)
    | none => none

def curtainPacket (port : Nat) (pkt : SpanPkt) (s : State) : State :=
  let d := pkt.data
  let die := bitsN d 35 20
  let seq := bitsN d 43 36
  let act := bitsN d 45 44
  if !portUp s port then s
  else
    let own := curtainOwner s pkt
    let s0 := noteRx port 1 s
    let s1 := match own with | some p => count p 15 (unitBytes port 1) s0 | none => s0
    if seenPacket s die seq then s1
    else if bitB d 49 then
      if !authDie s then mgrAccess 0x5180 die 0x292 s1
      else allOut die seq act (some port) (rememberPacket die seq (setDie act s1))
    else match spanFor s (BitVec.ofNat 20 (bitsN d 19 0)) with
      | none => discardSpan port none pkt s1
      | some _ => match own with
        | none => s1
        | some p => curtainActs port p die seq act (bitsN d 48 46) (rememberPacket die seq s1)

def execCurtainPacket (port : Nat) (pkt : SpanPkt) (s : State) : Host.Outcome State Fault Refusal :=
  if pkt.fkind ≠ 8 then .fault .notThisCommand else answer (ports.contains port) (curtainPacket port pkt s)

/-! ## Thaw (R66, R67, R87, R334) -/

def thaw (st : Nat) (s : State) : State :=
  let x := stir s st
  if !x.frozen then s
  else
    let s1 := match x.call with
      | some c => if c.boot then s else voidCall c.slot st s
      | none => s
    let s2 := updStir st (fun y => { y with frozen := false, cause := 0, call := none, status := stAborted }) s1
    tryRole st (wake st { s2 with tree := { s2.tree with frozen := s2.tree.frozen.filter fun i => i != st } })

def execThaw (st : Nat) (s : State) : Host.Outcome State Fault Refusal := answer (decide (st < nStirrup)) (thaw st s)

/-! ## Tile isolation and region sleep (R37, R62, R87, R88, R157, R318) -/

/-- The enabled slots a stirrup is a member of. -/
def memberSlots (s : State) (st : Nat) : List Nat :=
  (List.range 512).filter fun i => bitB (slotCfg s i) 31 && (slotOwner s i).isSome && isMember s i st

/-- What a stirrup has sent and its stall has not received is lost with its rail (R87; log 118). -/
def dropFrom (st : Nat) (s : State) : State :=
  { s with agenda := s.agenda.filter (fun t => !leftFrom (.stirrup st) t.ev),
           tree := { s.tree with links := s.tree.links.filter fun i => !leftFrom (.stirrup st) i.ev } }

/-- The rail goes off or repair begins: the pending call is void, the tile abstains in all its slots, its waiters go; of the
stirrup only the role stamp and FROZEN stay. -/
def isoOn (st : Nat) (s0 : State) : State :=
  let s := dropFrom st s0
  let x := stir s st
  let lost := match x.call with | some c => !c.boot | none => false
  let s1 := match x.call with | some c => if c.boot then s else voidCall c.slot st s | none => s
  let s2 := (memberSlots s1 st).foldl (fun a i => abstainAt (.stall (stallOf st)) i st 0 false a) s1
  let y := { Stirrup.initial with
             role := x.role, newRole := x.newRole, frozen := x.frozen, cause := x.cause,
             call := (match x.call with | some c => if c.boot then some c else none | none => none),
             iso := true, callLost := lost, hold := true, lastPc := x.lastPc }
  across .tclk .eclk 2 3 (.waiterRemoval st false) (setStir st y s2)

/-- The rail is back: STIR_ROLE is read from the roster, and the stirrup starts anew (R62). What its payload, tag, result and
audit registers read then is lost with the rail (R37), and free (log 4). -/
def isoOff (st : Nat) (s0 : State) : State :=
  let x := stir s0 st
  let (a, s1) := takeFree (2 ^ 128) s0
  let (b, s2) := takeFree (2 ^ 128) s1
  let (c, s) := takeFree (2 ^ 52) s2
  let y := { Stirrup.initial with
             pay := BitVec.ofNat 128 a, res := BitVec.ofNat 128 b, tag := BitVec.ofNat 20 (c / 2 ^ 32), audit := BitVec.ofNat 32 c,
             role := rosterWord s st, frozen := x.frozen, cause := x.cause, call := x.call, iso := false,
             status := if x.callLost then stAborted else stOk, hold := true, lastPc := x.lastPc }
  setStir st y s

def tileIso (st : Nat) (on : Bool) (s : State) : State :=
  if on = (stir s st).iso then s else if on then isoOn st s else isoOff st s

def execTileIso (st : Nat) (on : Bool) (s : State) : Host.Outcome State Fault Refusal :=
  answer (decide (st < nStirrup)) (tileIso st on s)

def membersIn (s : State) (barn slot : Nat) : List Nat :=
  ((barnStalls barn).flatMap stirrupsOf).filter fun st => isMember s slot st

def sleepSlots (s : State) : List Nat :=
  (List.range 512).filter fun i => bitB (slotCfg s i) 27 && (slotOwner s i).isSome

/-- A REGION_SLEEP line seen changing (R88, R281). -/
def regionSleep (line : Nat) (on : Bool) (s : State) : State :=
  if on = s.pwr.sleep.getLsbD line then s
  else
    let m : BitVec 18 := 1#18 <<< line
    let s1 := { s with pwr := { s.pwr with sleep := if on then s.pwr.sleep ||| m else s.pwr.sleep &&& ~~~ m,
                                           wake := if on then s.pwr.wake else s.pwr.wake &&& ~~~ m } }
    let s2 := (sleepSlots s1).foldl (fun a i => (membersIn a line i).foldl (fun b st => memberSync i st b) a) s1
    traceRegion (if on then 5 else 6) line s2

def execRegionSleep (line : Nat) (on : Bool) (s : State) : Host.Outcome State Fault Refusal :=
  answer (decide (line < 18)) (regionSleep line on s)

/-! ## Partition reset (R214, R163, R182, R248, R268) -/

/-- The slot a tree packet or timed step names. -/
def treeSlot : Instr → Option Nat
  | .partialArrival _ (.call p) => some p.slot
  | .partialArrival _ (.ctrl c) => if (cOp c.word).toNat ≤ 1 then some (cId c.word) else none
  | .rootDecision _ slot => some slot
  | .idle _ slot _ _ => some slot
  | .active _ slot _ _ => some slot
  | .activeAcknowledgement _ slot _ => some slot
  | .rearm _ slot _ _ => some slot
  | .cueArrival _ c => some c.slot
  | .waveRelease _ c => some c.slot
  | .cueDelivery _ c => some c.slot
  | _ => none

/-- Every node and link lets go of the slots: partials, cues and packets under way (R214 steps 2 and 8). -/
def dropSlots (slots : List Nat) (s : State) : State :=
  let out := fun (e : Instr) => match treeSlot e with | some i => slots.contains i | none => false
  let t := s.tree
  { s with
    agenda := s.agenda.filter fun a => !out a.ev
    tree := { t with nodes := t.nodes.filter (fun n => !slots.contains (n.1 % 512)), links := t.links.filter (fun i => !out i.ev),
                     held := t.held.filter (fun h => !slots.contains h.cue.slot), waves := t.waves.filter (fun w => !slots.contains w.cue.slot),
                     epochs := t.epochs.filter (fun e => !slots.contains e.1) },
    fab := { s.fab with sched := s.fab.sched.filter fun x => !slots.contains x.slot } }

/-- A stirrup's pending call, not a boot call, completes with ABORTED. -/
def abortCall (st : Nat) (s : State) : State :=
  match (stir s st).call with
  | some c => if c.boot then s else deliver st { cueFor s c.slot (epochOf s c.slot) stAborted [] with abort := true } s
  | none => s

/-- Each stirrup of `p` with a pending call receives an ABORTED cue (R214 step 2); a boot call waits on. -/
def abortCalls (p : Nat) (s : State) : State := (stirsOf s p).foldl (fun a st => abortCall st a) s

/-- The slots of `p` in which a call is pending, each an aborted epoch in the ABORTS count. -/
def pendingSlots (s : State) (p : Nat) : List Nat :=
  ((stirsOf s p).filterMap fun st => match (stir s st).call with | some c => if c.boot then none else some c.slot | none => none).eraseDups

/-- Host work of a reset: fetched descriptors end, the others are discarded, STOPPED clears (R268). -/
def flushHost (p : Nat) (s : State) : State :=
  let dis := fun (q : Nat) => ((pageReg s p (0x20 * q + 0xC)) - (pageReg s p (0x20 * q + 0x10))).toNat
  let s1 := abortDescs (fun _ => true) p (issueKept p s)
  let s2 := (List.range 4).foldl (fun a q =>
    setPage p (0x20 * q + 8) (pageReg a p (0x20 * q + 8) &&& 0xBFFF_FFFF#32)
      (setPage p (0x20 * q + 0x10) (pageReg a p (0x20 * q + 0xC)) a)) s1
  let s3 := [0x88, 0xA8].foldl (fun a o => setPage p o (pageReg a p o &&& 0xBFFF_FFFF#32) a) s2
  let s4 := if (List.range 4).any fun q => dis q != 0 then wantWriteback p s3 else s3
  let d : W128 := BitVec.ofNat 128 (dis 0 + dis 1 * 2 ^ 32 + dis 2 * 2 ^ 64 + dis 3 * 2 ^ 96)
  event p 0x04 0 d { s4 with hq := { s4.hq with fly := Tbl.erase p s4.hq.fly } }

/-- Cause codes of PART_RESET records (the model's; log 8): RESET and DESTROY of the command port, else a containment. -/
def causeReset : Nat := 2
def causeDestroy : Nat := 3

/-- The actions of a reset at its trigger. -/
def resetActions (p : Nat) (s : State) : State :=
  let slots := slotsOf s p
  let lost := (pendingSlots s p).filter fun i => !spanLoses s p i
  let s0 := (stirsOf s p).foldl (fun a st => abortQueue st a) s
  let s1 := (slotEntries s0 p).foldl (fun a e => loseSpan none e a) s0
  let s2 := abortCalls p (dropSlots slots { s1 with tree := { s1.tree with undos := s1.tree.undos.filter fun u => u.part != p } })
  let s3 := slots.foldl (fun a i => slotSync i a) (count p 3 lost.length s2)
  let s4 := resetTallies p (resetHome p s3)
  let s5 := (stirsOf s4 p).foldl (fun a st => thaw st a) s4
  updPart p (fun x => { x with replays := 0, steps := 0 }) (flushHost p s5)

/-- The end of a partition command (Table PAR-3). -/
def finishCmd (result cause : Nat) (s : State) : State :=
  { s with su := { s.su with pcBusy := false, pcResult := BitVec.ofNat 3 result, pcCause := BitVec.ofNat 4 cause } }

/-- DESTROY's end: groups to the free pool, PASIDV 0, the ring area at its reset values, STATE FREE (Table PAR-4, R253). -/
def freePart (p : Nat) (s : State) : State :=
  let s1 := mapWords.foldl (fun a o => setReg (partKey p o) 0 a) s
  let s2 := setReg (partKey p 4) (reg s1 (partKey p 4) &&& 0x7FFF_FFFF#32) s1
  setPart p partFree { s2 with page := s2.page.filter fun w => w.1 / 0x1000 != p || 0x100 ≤ w.1 % 0x1000 }

/-- The raises of `p`'s curtain that are still to take effect end with the reset that clears every cause; their descriptors complete
(R287). -/
def dropRaises (p : Nat) (s : State) : State :=
  let late := fun (e : Instr) => match e with | .curtainRaise q src true => if q = p then some src else none | _ => none
  (s.agenda.filterMap fun t => late t.ev).foldl (fun a src => curtainDone p 0 src a) (unschedule (fun e => (late e).isSome) s)

/-- The reset ends: calls written since its trigger end with ABORTED, the curtain lifts in this TCLK and the record is made
(R214 steps 2 and 9, R287). -/
def resetEnd (p cause : Nat) (s0 : State) : State :=
  let s := dropRaises p (abortCalls p (count p 3 (pendingSlots s0 p).length s0))
  let x := part s p
  let us := ((houseNow s).toNat - x.resetAt) / usTicks
  let s1 := report 0x18 15 p (some p) [cause, us] s
  if cause = causeDestroy then finishCmd 1 0 (freePart p s1)
  else
    let s2 := setPart p { x with state := .active } (if x.causes = 0 then s1 else sendCurtain p 1 6 s1)
    let s3 := curtainFall p .fault 0 (updPart p (fun y => { y with causes := 0 }) s2)
    let s4 := resumePart p s3
    if s4.su.pcBusy && cause == causeReset then finishCmd 1 0 s4 else s4

/-- The TCLK a reset takes at least: what its tiles sent before the curtain took effect reaches its unit meanwhile (R182; log 41). -/
def resetMin : Nat := 128

/-- A partition reset at its trigger, or its end; it takes an open time of at most 20 us (R214). A trigger during a reset joins it. -/
def partReset (p cause : Nat) (ends : Bool) (s : State) : State :=
  let x := part s p
  if ends then (if x.state = .resetting then resetEnd p cause s else s)
  else if x.state = .free then s
  else if x.state = .resetting then report 0x18 15 p (some p) [cause, 0] s
  else
    let s1 := setPart p { x with state := .resetting, resetAt := (houseNow s).toNat } s
    let s2 := if cause = causeDestroy then s1 else curtainRaise p .fault false s1
    let (d, s3) := takeFree (20 * usTicks * s.clk.mult / 128 - resetMin) s2
    afterT (resetMin + d) (.partReset p cause true) (resetActions p s3)

def execPartReset (p cause : Nat) (ends : Bool) (s : State) : Host.Outcome State Fault Refusal :=
  answer (decide (p < 64)) (partReset p cause ends s)

/-! ## Die error (R215) -/

def dieError (unit addr : Nat) (s : State) : State :=
  let s1 := setDie 0 { s with cur := { s.cur with byError := true } }
  report 0x1B unit 0 none [unit, addr] { s1 with flt := { s1.flt with dieErr := true, faultN := false } }

def execDieError (unit addr : Nat) (s : State) : Host.Outcome State Fault Refusal := .next (dieError unit addr s)

end Sys2Proof.Machine
end

