-- ==== Sys2Proof/Machine/Faults.lean ====
section
/-! DEFINITION. The fault manager: records, counters, attribution and signatures (R226, R227, R230 to R233), containment of
memory errors (R211 to R215), online test (R229), recipes and debug tokens (R234, R251). -/

namespace Sys2Proof.Machine

/-! ## Attribution (R226, R227) -/

def attr (s : State) (i : Nat) : Attr := Tbl.get Attr.none s.flt.attr i
def setAttr (i : Nat) (x : Attr) (s : State) : State := { s with flt := { s.flt with attr := Tbl.set Attr.none i x s.flt.attr } }

def attrWindow (s : State) : Nat := (reg s 0x4848).toNat
def marginN (s : State) : Nat := fld s 0x4844 3 0
def retireN (s : State) : Nat := fld s 0x4844 7 4

/-- Stamps within the last WINDOW steps. -/
def stampsIn (s : State) (x : Attr) : Nat :=
  (x.stamps.filter fun t => (s.flt.steps - BitVec.ofNat 32 t).toNat < attrWindow s).length

/-- UNIT and INDEX of an attribution record, encoded as UHK_ATTR_SEL encodes it (Table FLT-10, Table FLT-12). -/
def attrUnit (i : Nat) : Nat :=
  if i < 2048 then 1
  else if i < 2048 + 108 then 2
  else if i < 2048 + 144 then 3
  else if i < 2048 + 146 then 4
  else if i = 2048 + 146 then 5
  else 17

def attrIndex (i : Nat) : Nat := if i < 2048 then i else i - 2048
def attrOk (i : Nat) : Bool := i < nStirrup || (2048 ≤ i && i ≤ 2048 + 147)

/-! ## Records (R230 to R233) -/

/-- Types whose records bring a signature (R233). -/
def signs (r : Report) : Bool :=
  [0x11, 0x12, 0x13, 0x14, 0x16, 0x17, 0x1B].contains r.type || (r.type == 0x19 && r.detail.getD 2 0 == 2)

/-- The stamps a signature tells of: those of the part's attribution record, where it has one. -/
def signStamps (s : State) (r : Report) : Nat :=
  if [0x11, 0x14].contains r.type then stampsIn s (attr s (2048 + r.index))
  else if r.type = 0x16 ∨ r.type = 0x17 then r.detail.getD 0 0
  else 0

def pushSignature (r : Report) (s : State) : State :=
  if 32 ≤ s.flt.exports.length then rcBefore 0x1_0014 s.flt.expLost { s with flt := { s.flt with expLost := s.flt.expLost + 1 } }
  else
    let g : Signature :=
      { dieId := dieId s, serial := s.boot.fuses.serial, house := r.house, type := r.type, unit := r.unit, index := r.index,
        steps := s.flt.steps.toNat, stamps := signStamps s r, n := s.house.n, budget := s.pwr.budget.toNat }
    { s with flt := { s.flt with exports := s.flt.exports ++ [g] }, cyc := { s.cyc with exports := s.cyc.exports + 1 } }

def logFull (s : State) : Bool := decide (2048 ≤ (s.flt.head - s.flt.tail).toNat)

/-- The last-gasp registers keep the first four events of SEV 3 (R232). -/
def gasp (x : FaultRec) (s : State) : State :=
  if x.sev = 3 ∧ s.flt.gasp.length < 4 then { s with flt := { s.flt with gasp := s.flt.gasp ++ [x] } } else s

/-- Corrected errors are logged at most once a millisecond for a source part (R230). -/
def tooSoon (s : State) (r : Report) : Bool :=
  r.type == 0x10 && Tbl.has s.flt.corrAt (r.unit * 4096 + r.index)
    && decide (r.house.toNat < Tbl.get 0 s.flt.corrAt (r.unit * 4096 + r.index) + 1000 * usTicks)

/-- A record enters the log, or is counted in LOST while the log is full or its memory has failed; every record takes a
sequence number (log 34). -/
def writeRecord (r : Report) (s : State) : State :=
  let x : FaultRec := { rep := r, seq := s.flt.seq, sev := sevOf r.type }
  let s1 := gasp x { s with flt := { s.flt with seq := s.flt.seq + 1 } }
  if s1.flt.logMem || logFull s1 then rcBefore 0x4810 s1.flt.lost { s1 with flt := { s1.flt with lost := s1.flt.lost + 1 } }
  else { s1 with flt := { s1.flt with log := Tbl.insert (s1.flt.head.toNat % 2048) x s1.flt.log, head := s1.flt.head + 1 } }

/-- The counter of a record type (Table FLT-12). -/
def countType (t : Nat) (s : State) : State :=
  let n := Tbl.get 0 s.flt.cnt t
  rcBefore (0x4A00 + 4 * t) n { s with flt := { s.flt with cnt := Tbl.set 0 t (n + 1) s.flt.cnt } }

/-- A record is produced: counted by its type, written, and turned into a signature. -/
def produce (r : Report) (s : State) : State :=
  let s1 := countType r.type s
  if tooSoon s1 r then s1
  else
    let s2 := if r.type = 0x10 then
        { s1 with flt := { s1.flt with corrAt := Tbl.insert (r.unit * 4096 + r.index) r.house.toNat s1.flt.corrAt } } else s1
    let s3 := writeRecord r s2
    if signs r then pushSignature r s3 else s3

/-- A record of the fault manager itself on an attribution record. -/
def attrRecord (type i n : Nat) (s : State) : State :=
  produce { type := type, unit := attrUnit i, index := attrIndex i, part := none, house := houseNow s, detail := [n] } s

/-- Whether a record holds MARGIN_N, and RETIRE_N, stamps within WINDOW. -/
def overs (s : State) (x : Attr) : Bool × Bool := (decide (marginN s ≤ stampsIn s x), decide (retireN s ≤ stampsIn s x))

/-- The thresholds of R227 on record `i`, each acted on when the record comes to hold it; `was` tells what it held before (log 33). -/
def judgeAttr (i : Nat) (was : Bool × Bool) (s : State) : State :=
  let x := attr s i
  let n := stampsIn s x
  let m := !was.1 && (overs s x).1
  let r := !was.2 && (overs s x).2
  let s1 := setAttr i { x with margined := x.margined || m, retire := x.retire || r } s
  let s2 := if m then attrRecord 0x16 i n { s1 with flt := { s1.flt with mreq := true, msrc := BitVec.ofNat 12 i }, cyc := { s1.cyc with mreq := true } } else s1
  if r then attrRecord 0x17 i n s2 else s2

/-- A DETECTED or slot error attributed to a record: its latest 8 stamps, then the thresholds (R226, R227). -/
def stamp (i : Nat) (s : State) : State :=
  let x := attr s i
  judgeAttr i (overs s x) (setAttr i { x with stamps := (s.flt.steps.toNat :: x.stamps).take 8 } s)

/-- A change of MARGIN_N, RETIRE_N or WINDOW, judged on every record (R227). -/
def rejudge (f : State → State) (s : State) : State :=
  (s.flt.attr.map (·.1)).foldl (fun a i => judgeAttr i (overs s (attr s i)) a) (f s)

def suspect (i : Nat) (s : State) : State :=
  let x := attr s i
  setAttr i { x with scount := if x.scount = 0xFFFF#16 then x.scount else x.scount + 1 } s

/-- The parts a vote mask names: a stall's stirrups, or the host. -/
def votedParts (k mask : Nat) : List Nat :=
  if k = 147 then (if mask % 2 = 1 then [2048 + 147] else [])
  else (stirrupsOf k).zipIdx.filterMap fun x => if mask / 2 ^ x.2 % 2 = 1 then some x.1 else none

/-- A vote report (R226; log 10). -/
def attributeVotes (r : Report) (s : State) : State :=
  let s1 := (votedParts r.index (r.detail.getD 0 0)).foldl (fun a i => stamp i a) s
  (votedParts r.index (r.detail.getD 1 0)).foldl (fun a i => suspect i a) s1

/-- A report reaches the fault manager (R226, R230, R233). -/
def faultReport (r : Report) (s : State) : State :=
  if r.type = votesType then attributeVotes r s
  else
    let s1 := produce r s
    if r.type = 0x11 ∨ r.type = 0x14 then stamp (2048 + r.index) s1 else s1

def reportOk (r : Report) : Bool :=
  r.index < 4096 && r.unit < 256 && (match r.part with | some p => p < 64 | none => true)
    && (if r.type = votesType then r.index < 108 || r.index == 147 else r.type < 32)

def execFaultReport (r : Report) (s : State) : Host.Outcome State Fault Refusal := answer (reportOk r) (faultReport r s)

/-- ALERT (R231). -/
def alert (s : State) : Bool :=
  let unread := (List.range ((s.flt.head - s.flt.tail).toNat)).filterMap fun i =>
    s.flt.log.lookup ((s.flt.tail.toNat + i) % 2048)
  unread.any (fun x => fld s 0x4800 1 0 ≤ x.sev || x.rep.type == 0x17) || s.flt.lost != 0 || s.flt.mreq

/-! ## Registers of the log -/

/-- TAIL advances within HEAD; a value beyond HEAD is ignored and logged. -/
def fltTailWrite (v : W32) (s : State) : State :=
  let t : BitVec 12 := v.setWidth 12
  if (s.flt.head - t).toNat ≤ (s.flt.head - s.flt.tail).toNat then { s with flt := { s.flt with tail := t } }
  else mgrAccess 0x480C v.toNat 0x230 s

def execFltTailWrite (v : W32) (s : State) : Host.Outcome State Fault Refusal := .next (regWrite (fltTailWrite v) s)

def execLgclr (s : State) : Host.Outcome State Fault Refusal := .next (regWrite (fun a => { a with flt := { a.flt with gasp := [] } }) s)

/-- CLEAR of the selected record; an INDEX that names none is a reserved encoding (R14). -/
def attrClear (index : Nat) (s : State) : State :=
  if attrOk index then setAttr index Attr.none s else mgrAccess 0x484C (2 ^ 31 + index) 14 s

def execAttrClear (index : Nat) (s : State) : Host.Outcome State Fault Refusal := answer (decide (index < 4096)) (regWrite (attrClear index) s)

/-- POP discards the head signature; one queued in the same MCLK is kept (R327). -/
def exportPop (s : State) : State :=
  if s.flt.exports.length ≤ s.cyc.exports then s else { s with flt := { s.flt with exports := s.flt.exports.drop 1 } }

def execExportPop (s : State) : Host.Outcome State Fault Refusal :=
  .next (regWrite exportPop s)

/-! ## Containment (R211 to R215, Tables FLT-1 and FLT-2) -/

/-- Cause codes of containment resets (the model's; log 8). -/
def causePacket : Nat := 4
def causeState : Nat := 5

/-- The failed partial's place in a packet that waits for its link: an empty partial with POISON (R213). -/
def poisonItem (at_ : Place) (slot : Nat) (e : W32) (s : State) (l : LinkItem) : LinkItem :=
  match l.ev with
  | .partialArrival par (.call p) =>
    if l.link = at_.linkUp ∧ p.slot = slot ∧ p.gen = e.setWidth 6 then
      { l with ev := .partialArrival par (.call { emptyPartial s slot votePoison with gen := p.gen, child := p.child, seq := p.seq }) }
    else l
  | _ => l

/-- Likewise in a span packet that has not begun to leave. -/
def poisonOut (slot : Nat) (e : W32) (s : State) (o : FabOut) : FabOut :=
  if o.pkt.fkind = 1 ∧ o.pkt.span = (spanPkt s slot 1 0).span ∧ o.pkt.gen = e.setWidth 6 ∧ o.next = 0 then
    { o with pkt := { o.pkt with vote := votePoison, data := 0, empty := true } }
  else o

/-- Whether a node's partial of an epoch is in its combine stage, or waits for its link. -/
def combining (s : State) (at_ : Place) (slot : Nat) (e : W32) : Bool :=
  s.tree.links.any (fun l => poisonItem at_ slot e s l != l) || (at_ == .die && s.fab.reinQ.any fun o => poisonOut slot e s o != o)

/-- A count slot's error: the root's open epoch, or the partial the node forms or forms next. -/
def countError (at_ : Place) (slot : Nat) (s : State) : State :=
  let ns := node s at_ slot
  if decides s at_ slot then
    (let s1 := setNode at_ slot { ns with cur := { ns.cur with poison := true } } s
     if ns.cutAt.isNone && !ns.cur.kids.isEmpty then
       afterT (combineT s at_ slot + decideT s at_) (.rootDecision at_ slot)
         (setNode at_ slot { ns with cur := { ns.cur with poison := true }, cutAt := some s.clk.tclk } s1)
     else s1)
  else if combining s at_ slot ns.epoch then
    { s with tree := { s.tree with links := s.tree.links.map (poisonItem at_ slot ns.epoch s) } }
  else setNode at_ slot { ns with poisonNext := true } s

/-- The epoch a slot error poisons at a node: the one whose partial the failing check was computing, combining or holding, else the next
one the node forwards or decides (R213). -/
def errorEpoch (at_ : Place) (slot : Nat) (e : Option W32) (s : State) : W32 :=
  let ns := node s at_ slot
  let next := if decides s at_ slot || !ns.sent then ns.epoch else if !ns.sentN then ns.epoch + 1 else ns.epoch + 2
  match e with
  | some g => if (notBefore next g && notBefore g (ns.epoch + 1)) || combining s at_ slot g then g else next
  | none => next

/-- A slot error at a node (R213). -/
def slotError (at_ : Place) (slot : Nat) (e : Option W32) (s : State) : State :=
  if isCount s slot then countError at_ slot s
  else
    let ns := node s at_ slot
    let g := errorEpoch at_ slot e s
    if combining s at_ slot g then
      { s with tree := { s.tree with links := s.tree.links.map (poisonItem at_ slot g s) },
               fab := { s.fab with reinQ := if at_ = .die then s.fab.reinQ.map (poisonOut slot g s) else s.fab.reinQ } }
    else if g = ns.epoch then setNode at_ slot { ns with cur := { ns.cur with poison := true } } s
    else if g = ns.epoch + 1 then setNode at_ slot { ns with nxt := { ns.nxt with poison := true } } s
    else setNode at_ slot { ns with poisonNext := true } s

/-- A lockstep pair's miscompare: an uncorrectable error in the slot being decided (R27), with its own record. -/
def lockstepError (at_ : Place) (slot output : Nat) (s : State) : State :=
  report 0x14 (nodeUnit s at_) at_.node (slotOwner s slot) [at_.node, slot, output] (slotError at_ slot (some (node s at_ slot).epoch) s)

/-- Whether a downward arrival is at the place. -/
def arrivesAt (lower : Place) (ev : Instr) : Bool :=
  match ev with
  | .cueArrival n _ => n == lower
  | .cueDelivery st _ => lower == .stirrup st
  | .homeRsp n _ => n == lower
  | .tallyResponse n _ => n == lower
  | .activeAcknowledgement n _ _ => n == lower
  | .rearm n _ _ _ => n == lower
  | .freezeOrder st _ _ _ => lower == .stirrup st
  | _ => false

/-- The packet that arrives next on the link's upward or downward direction is discarded (Table FLT-2). -/
def dropNextPacket (lower : Place) (down : Bool) (s : State) : State :=
  let hit := fun (e : Instr) => if down then arrivesAt lower e else leftFrom lower e
  match s.agenda.find? fun t => hit t.ev with
  | some t => { s with agenda := s.agenda.erase t }
  | none => match s.tree.links.find? fun i => hit i.ev with
    | some i => { s with tree := { s.tree with links := s.tree.links.erase i } }
    | none => s

/-- The partitions a packet error on a link reaches (Table FLT-2). -/
def linkParts (s : State) (lower : Place) : List Nat :=
  (livePartitions s).filter fun p => (assignedOf s p).any (beneath lower) || slotStateIn s lower p
    || (match lower.parent with | some (par, _) => slotStateIn s par p | none => false)

def packetError (lower : Place) (down : Bool) (s : State) : State :=
  let ps := linkParts s lower
  report 0x12 (nodeUnit s lower) (nodeNumber s lower) none [nodeNumber s lower, ps.length]
    (ps.foldl (fun a p => partReset p causePacket false a) (dropNextPacket lower down s))

/-- Retention parity: role and FROZEN are loaded again (Table FLT-1). -/
def reloadRetention (st : Nat) (s : State) : State :=
  updStir st (fun x => { x with role := rosterWord s st, frozen := s.tree.frozen.contains st }) s

def logMemory (addr : Nat) (s : State) : State :=
  report 0x1C 20 0 none [addr] { s with flt := { s.flt with logMem := true, faultN := false } }

/-- What the scrub, or a read, finds (Tables FLT-1 and FLT-2); nothing found changes nothing. -/
def scrub (e : Option MemError) (s : State) : State :=
  match e with
  | none => s
  | some (.corrected unit index addr) => report 0x10 unit index none [unit, addr] s
  | some (.slot at_ slot e check) =>
    report 0x11 (nodeUnit s at_) (nodeNumber s at_) (slotOwner s slot) [slot, (errorEpoch at_ slot e s).toNat, check] (slotError at_ slot e s)
  | some (.lockstep at_ slot output) => lockstepError at_ slot output s
  | some (.packet lower down) => packetError lower down s
  | some (.state p unit ram addr) => report 0x13 unit p (some p) [ram, addr] (partReset p causeState false s)
  | some (.journal p) => closeJournal p s
  | some (.retention st) => reloadRetention st s
  | some (.die unit addr) => dieError unit addr s
  | some (.spill i) =>
    { s with obs := { s.obs with spill := s.obs.spill.zipIdx.map fun r => if r.2 = i then { r.1 with bad := true } else r.1 } }
  | some .snapshot => { s with obs := { s.obs with snapBad := true } }
  | some (.logMemory addr) => logMemory addr s

def scrubOk : Option MemError → Bool
  | some (.corrected unit index _) => unit < 256 && index < 4096
  | some (.slot at_ slot _ _) => at_.ok && slot < 512 && (match at_ with | .stirrup _ => false | _ => true)
  | some (.lockstep at_ slot _) => at_.ok && slot < 512 && (match at_ with | .half _ => true | .die => true | _ => false)
  | some (.packet lower _) => lower.ok && lower != .die
  | some (.state p unit _ _) => p < 64 && unit < 256
  | some (.journal p) => p < 64
  | some (.retention st) => st < nStirrup
  | some (.die unit _) => unit < 256
  | _ => true

def execPatrolScrub (e : Option MemError) (s : State) : Host.Outcome State Fault Refusal := answer (scrubOk e) (scrub e s)

/-! ## Online test (R229, Table FLT-8) -/

def quiescedPart (s : State) (p : Nat) : Bool := (part s p).state == .quiesced

/-- The condition of a test. -/
def testAllowed (s : State) (kind i : Nat) : Bool :=
  match kind with
  | 0 => i < 108 && understudyOf s i
  | 1 => i < 18 && !bitB (reg s (usKey i)) 3
  | 2 => i < 18 && (livePartitions s).all fun p => quiescedPart s p || !(assignedOf s p).any (beneath (.barn i))
  | 3 => i < 4 && (livePartitions s).all fun p => quiescedPart s p || ((owned s p 0x20 64 8192).isEmpty && (owned s p 0x30 32 2048).isEmpty)
  | _ => i < 4 && (spansOn s i).all fun e => match slotOwner s (spanSlot s e) with | some p => quiescedPart s p | none => true

def testUs (kind : Nat) : Nat :=
  match kind with | 0 => 40 | 1 => 40 | 2 => 60 | 3 => 120 | _ => 25

def isBistDone (e : Instr) : Bool := match e with | .bistDone _ _ => true | _ => false

/-- UNIT and INDEX of a test target: a node by its number, a pipeline or port by its own (Table FLT-8, Table FLT-10). -/
def testPart (kind i : Nat) : Nat × Nat :=
  match kind with | 0 => (2, i) | 1 => (3, 108 + i) | 2 => (3, 126 + i) | 3 => (7, i) | _ => (11, i)

/-- A BIST record. -/
def bistRecord (kind i result fails : Nat) (s : State) : State :=
  report 0x19 (testPart kind i).1 (testPart kind i).2 none [kind, i, result, fails] s

/-- START (R229). A test's outcome is a fact of the hardware: free (log 36). -/
def bistStart (kind i : Nat) (s : State) : State :=
  if 5 ≤ kind ∨ s.bist.busy then mgrAccess 0x8100 (2 ^ 31 + kind * 2 ^ 16 + i) 14 s
  else if !testAllowed s kind i then bistRecord kind i 3 0 { s with bist := { s.bist with result := 3 } }
  else
    let (ok, s1) := takeFree 2 s
    let (n, s2) := takeFree 65536 s1
    afterUs (testUs kind) (.bistDone (ok == 0) n) { s2 with bist := { s2.bist with busy := true, kind := kind, index := i } }

def execBistStart (kind index : Nat) (s : State) : Host.Outcome State Fault Refusal :=
  answer (decide (kind < 8 ∧ index < 256)) (regWrite (bistStart kind index) s)

/-- The test ends: a target that fails stays out of service, and a failed home pipeline is a die error. -/
def bistDone (pass : Bool) (fails : Nat) (s : State) : State :=
  if !s.bist.busy then s
  else
    let k := s.bist.kind
    let i := s.bist.index
    let f := min fails 0xFFFF
    let rest := s.bist.failed.filter (· != (k, i))
    let s1 := unschedule isBistDone { s with bist := { s.bist with
      busy := false, result := if pass then 1 else 2, fails := BitVec.ofNat 16 f,
      failed := if pass then rest else rest ++ [(k, i)] } }
    if pass then s1
    else
      let s2 := bistRecord k i 2 f s1
      if k = 3 then dieError 7 i s2 else s2

def execBistDone (pass : Bool) (fails : Nat) (s : State) : Host.Outcome State Fault Refusal := .next (bistDone pass fails s)

/-! ## Recipes (R234) -/

def mbFinish (result : Nat) (s : State) : State := { s with su := { s.su with mbBusy := false, mbResult := BitVec.ofNat 4 result } }

/-- A key of a CBOR map. -/
def cborGet (m : List (Nat × CborVal)) (k : Nat) : Option CborVal := m.lookup k

/-- An unsigned key within its range; absent is `some none`, out of range or of another type is `none`. -/
def cborUint (m : List (Nat × CborVal)) (k lo hi : Nat) : Option (Option Nat) :=
  match cborGet m k with
  | none => some none
  | some (.uint n) => if lo ≤ n ∧ n ≤ hi then some (some n) else none
  | some _ => none

/-- Bytes as a number, the lowest byte first. -/
def bytesNat : List (BitVec 8) → Nat
  | [] => 0
  | b :: t => b.toNat + 256 * bytesNat t

def cborMask (m : List (Nat × CborVal)) (k : Nat) : Option (Option (BitVec 1728)) :=
  match cborGet m k with
  | none => some none
  | some (.bytes b) => if b.length = 216 then some (some (BitVec.ofNat 1728 (bytesNat b))) else none
  | some _ => none

/-- Key 2 is absent or an array that names this die; `none` for another type. -/
def cborDies (s : State) (m : List (Nat × CborVal)) : Option Bool :=
  match cborGet m 2 with
  | none => some true
  | some (.array l) => some (l.contains (dieId s))
  | some _ => none

/-- MARGIN_N, RETIRE_N and WINDOW at once; the others staged die-wide. -/
def acceptRecipe (sq : Nat) (r : Recipe) (mn rn wd : Option Nat) (s : State) : State :=
  let w0 := reg s 0x4844
  let w1 := match mn with | some n => putBits w0 3 0 n | none => w0
  let w2 := match rn with | some n => putBits w1 7 4 n | none => w1
  let s2 := rejudge (fun a => match wd with | some n => setReg 0x4848 (BitVec.ofNat 32 n) (setReg 0x4844 w2 a) | none => setReg 0x4844 w2 a) s
  let old := s2.flt.rcpStaged.getD { seedpol := none, floor := none, target := none, tfrac := none }
  let new : Recipe := { seedpol := r.seedpol.or old.seedpol, floor := r.floor.or old.floor, target := r.target.or old.target, tfrac := r.tfrac.or old.tfrac }
  dwRestart { s2 with flt := { s2.flt with rcpSeq := BitVec.ofNat 32 sq, rcpStaged := some new } }

/-- The result of a recipe and the state after its acceptance. -/
def judgeRecipe (msg : List (BitVec 8)) (s : State) : Nat × State :=
  match s.boot.recipeKey with
  | none => (6, s)
  | some key =>
    if 1024 < msg.length then (4, s)
    else match Config.coseMap msg with
      | none => (4, s)
      | some m =>
        if !Config.coseHolds key msg then (2, s)
        else match cborUint m 1 0 0xFFFF_FFFF, cborUint m 3 0 2, cborUint m 4 0 4, cborMask m 5, cborUint m 6 0 4,
            cborUint m 7 1 8, cborUint m 8 1 8, cborUint m 9 1 0xFFFF_FFFF, cborDies s m with
          | some (some sq), some sp, some fl, some tg, some tf, some mn, some rn, some wd, some mine =>
            if sq ≤ s.flt.rcpSeq.toNat then (3, s)
            else if !mine then (5, s)
            else (1, acceptRecipe sq { seedpol := sp, floor := fl, target := tg, tfrac := tf } mn rn wd s)
          | _, _, _, _, _, _, _, _, _ => (4, s)

/-- The sequence a recipe names, for its record. -/
def recipeSeq (msg : List (BitVec 8)) : Nat :=
  match Config.coseMap msg with
  | some m => (match cborGet m 1 with | some (.uint n) => n % 2 ^ 32 | _ => 0)
  | none => 0

/-- The mailbox operation RECIPE (R234, R326). -/
def recipe (msg : List (BitVec 8)) (s : State) : State :=
  let (code, s1) := judgeRecipe msg s
  mbFinish (if code = 1 then 1 else 2)
    (report 0x1A 20 0 none [recipeSeq msg, code] { s1 with flt := { s1.flt with rcpResult := BitVec.ofNat 4 code } })

def execRecipe (msg : List (BitVec 8)) (s : State) : Host.Outcome State Fault Refusal := .next (regWrite (recipe msg) s)

/-! ## Debug authorisation (R251) -/

/-- The result of a token: in reduced service, without keys, 2 (Table BOO-3); else disabled, malformed, signature, serial, nonce, expired, accepted; with its scope and expiry. -/
def judgeToken (msg : List (BitVec 8)) (s : State) : Nat × Nat × Nat :=
  if s.boot.reduced then (2, 0, 0)
  else if s.dbg.disabled then (7, 0, 0)
  else if 512 < msg.length then (6, 0, 0)
  else match Config.coseMap msg with
    | none => (6, 0, 0)
    | some m =>
      match s.boot.debugKey with
      | none => (2, 0, 0)
      | some key =>
        if !Config.coseHolds key msg then (2, 0, 0)
        else match cborGet m 1, cborUint m 2 0 (2 ^ 64 - 1), cborUint m 3 0 (2 ^ 64 - 1), cborUint m 4 0 3 with
          | some (.bytes b), some (some nonce), some (some expiry), some (some scope) =>
            if b.length ≠ 16 then (6, 0, 0)
            else if bytesNat b ≠ s.boot.fuses.serial.toNat then (3, 0, 0)
            else if !s.dbg.nonceOk || nonce != s.dbg.nonce.toNat then (4, 0, 0)
            else if expiry ≤ (houseNow s).toNat then (5, 0, 0)
            else (1, scope, expiry)
          | _, _, _, _ => (6, 0, 0)

/-- Whether a token names the nonce read last, which can then never be used again. -/
def namesNonce (msg : List (BitVec 8)) (s : State) : Bool :=
  match Config.coseMap msg with
  | some m => (match cborGet m 2 with | some (.uint n) => n == s.dbg.nonce.toNat | _ => false)
  | none => false

/-- The mailbox operation DEBUG_TOKEN (R251, R326). A new scope without scan-out ends SCANOK (R294). -/
def debugToken (msg : List (BitVec 8)) (s : State) : State :=
  let (code, scope, expiry) := judgeToken msg s
  let d0 := { s.dbg with result := BitVec.ofNat 4 code, nonceOk := s.dbg.nonceOk && !namesNonce msg s }
  let d := if code = 1 then { d0 with auth := BitVec.ofNat 2 scope, expiry := BitVec.ofNat 64 expiry } else d0
  let c := if code = 1 then { s.cur with scanOk := s.cur.scanOk && scope / 2 % 2 == 1 } else s.cur
  mbFinish (if code = 1 then 1 else 2) (report 0x1A 20 0 none [0, code] { s with dbg := d, cur := c })

def execDebugToken (msg : List (BitVec 8)) (s : State) : Host.Outcome State Fault Refusal := .next (regWrite (debugToken msg) s)

/-- A read of UHK_DBG_NONCE_LO. -/
def nonceRead (s : State) : State :=
  let n := Config.nonce s.free
  present (n &&& 0xFFFF_FFFF#64) { s with dbg := { s.dbg with nonce := n, nonceOk := true }, free := s.free + 1 }

def execNonceRead (s : State) : Host.Outcome State Fault Refusal := .next (if s.boot.inReset then present 0 s else nonceRead s)

/-- The authorisation ends, and SCANOK with it (R251, R294). -/
def endAuth (s : State) : State := { s with dbg := { s.dbg with auth := 0 }, cur := { s.cur with scanOk := false } }

def execDrop (s : State) : Host.Outcome State Fault Refusal := .next (regWrite endAuth s)

def authOver (s : State) : Bool := s.dbg.auth != 0 && decide (s.dbg.expiry.toNat ≤ (houseNow s).toNat)

def execAuthExpiry (s : State) : Host.Outcome State Fault Refusal := .next (if authOver s then endAuth s else s)

end Sys2Proof.Machine
end

