-- ==== Sys2Proof/Machine/Map.lean ====
section
/-! DEFINITION. The register map's fields: which bits of a word are WB, RW or RWL, which encodings are reserved (R14, R15), and
the staging of WB words (R18, R332). -/

namespace Sys2Proof.Machine

/-! ## Fields -/

/-- WB bits of a word, by its key (Tables BAR-1 to BAR-3, BAR-6, HOM-6, CUE-1, CUE-2, PAR-1, FLT-9, FLT-12, OBS-6, OBS-10,
FAB-1 to FAB-3, INT-9). -/
def wbMask (k : Nat) : W32 :=
  if isRosterKey k then 0x87FF_FFFF
  else if isMemberKey k then 0xFFFF_FFFF
  else if isObjKey k then (if k < 0x42000 then 0xC000_0000 else 0xE000_FFFF)
  else if isPartKey k then
    (let o := (k - 0x1000) % 64
     if o = 0 then 0x00FF_F000 else if o = 4 then 0x800F_FFFF else if o = 8 ∨ 0x18 ≤ o then 0xFFFF_FFFF else 0)
  else if isSlotKey k then
    (let o := k % 16
     if o = 0 then 0xFFFF_FFE0 else if o = 4 then 0x7FF else if o = 8 then 0x001F_FF80 else 0)
  else if isGaitKey k then
    (let o := (k - 0x4000) % 64
     if o = 0 then 0x3FF else if o ≤ 0x34 then 0xFFFF_FFFF else if o = 0x38 then 0xFFFF else 0)
  else if isWpKey k then
    (let o := (k - 0x4400) % 32
     if o = 0 then 0xFC00_01FF else if o = 4 then 0xFFFF_FFFF else if o = 8 ∨ o = 0xC then 0xF_FFFF else if o = 0x10 then 0x1FFF else 0)
  else if isVerdKey k then 0xFFFF_FF7F
  else if isSpanKey k then
    (let o := (k - 0x6100) % 16
     if o = 0 then 0xFFFF_FFFF else if o = 4 then 0xFFFF_FFE0 else if o = 8 then 0x00FF_FFFF else 0)
  else if k = 0x5000 then 0xFBF0_0000
  else if isTraceKey k then 0xFFFF_FFFF
  else if isUsKey k then 0xF
  else 0

/-- RW bits of a word that has no act of its own. -/
def rwMask (k : Nat) : W32 :=
  if isPartKey k then
    (let o := (k - 0x1000) % 64
     if o = 0xC then 0xFFFF_FFFF else if o = 0x10 then 0x01FF_00FF else if o = 0x14 then 0x7FFF_1FFF else 0)
  else if 0x6040 ≤ k ∧ k < 0x6080 then 0x8000_FFFF
  else if 0x1_0400 ≤ k ∧ k < 0x1_0800 then 0xFFFF_FFFF
  else match k with
    | 0x0100 => 0xFF80_FFFF | 0x0118 => 0xFFFF
    | 0x0800 => 0x7FF | 0x08C0 => 0xC000_1FFF | 0x0880 => 0x01FF_003F | 0x08E0 => 0x7800_3F3F | 0x08F0 => 0x3F
    | 0x4800 => 3 | 0x4814 => 0x7FF | 0x4844 => 0xFF | 0x4848 => 0xFFFF_FFFF | 0x484C => 0xFFF | 0x4858 => 0x3F
    | 0x5010 => 0xFFFF_FFFF | 0x5014 => 0xFFFF_FFFF | 0x5018 => 0xC000_01FF | 0x5020 => 0xFFFF_FFFF | 0x5024 => 0xFFFF_FFFF
    | 0x5028 => 0x003F_001F | 0x5180 => 0x7800_003F | 0x5190 => 0x003F_0000
    | 0x6000 => 0xFFFF_FFFF | 0x6004 => 0x1F
    | 0x7000 => 0xFF00_0000 | 0x7004 => 0x007F_00FF
    | 0x8100 => 0x0007_00FF
    | 0x1_0000 => 0x0F00_07FF
    | _ => 0

/-- RWL bits of a word and the lock bit that locks them (R19, R331). -/
def rwlMask (k : Nat) : W32 := if k = 0x0010 then 0xC0 else if k = 0x6018 ∨ k = 0x7000 then 0xFFFF else 0
def lockOf (k : Nat) : Nat := if k = 0x7000 then 7 else 6

/-- The bits [hi:lo] of a word. -/
def bitsMask (hi lo : Nat) : W32 := BitVec.ofNat 32 ((2 ^ (hi - lo + 1) - 1) * 2 ^ lo)

/-- A field and the encodings that its table reserves. -/
structure ResField where
  hi  : Nat
  lo  : Nat
  bad : Nat → Bool

/-- The fields of a word that have reserved encodings. -/
def resFields (k : Nat) : List ResField :=
  if isPartKey k then
    (let o := (k - 0x1000) % 64
     if o = 0xC then [⟨31, 24, (· == 0)⟩, ⟨23, 16, (· == 0)⟩]
     else if o = 0x10 then [⟨24, 16, (decide <| 256 < ·)⟩, ⟨7, 0, (· == 0)⟩]
     else if o = 0x14 then [⟨30, 16, (decide <| 16384 < ·)⟩, ⟨12, 0, (decide <| 4096 < ·)⟩]
     else [])
  else if isSlotKey k ∧ k % 16 = 0 then
    [⟨30, 29, (· == 3)⟩, ⟨24, 22, (· == 6)⟩, ⟨14, 10, (decide <| 0x0D < ·)⟩, ⟨9, 6, (decide <| 0x0C < ·)⟩]
  else if isVerdKey k then [⟨10, 8, (decide <| 5 ≤ ·)⟩, ⟨6, 4, (decide <| 5 ≤ ·)⟩]
  else if isSpanKey k ∧ (k - 0x6100) % 16 = 4 then [⟨31, 29, (decide <| 6 ≤ ·)⟩]
  else if isUsKey k then [⟨2, 0, (decide <| 6 ≤ ·)⟩]
  else if 0x42000 ≤ k ∧ k < 0x44000 then [⟨15, 0, (decide <| 32768 < ·)⟩]
  else match k with
    | 0x0100 => [⟨31, 30, (· == 3)⟩, ⟨15, 8, (· == 0)⟩, ⟨7, 0, (· == 0)⟩]
    | 0x4844 => [⟨7, 4, fun n => n == 0 || decide (8 < n)⟩, ⟨3, 0, fun n => n == 0 || decide (8 < n)⟩]
    | 0x4848 => [⟨31, 0, (· == 0)⟩]
    | 0x484C => [⟨11, 0, fun n => !attrOk n⟩]
    | 0x08C0 => [⟨31, 30, (decide <| 2 ≤ ·)⟩]
    | 0x08E0 => [⟨30, 27, fun n => n == 0 || decide (6 < n)⟩]
    | 0x08F4 => [⟨4, 0, fun n => decide (n < 9) || decide (16 < n)⟩]
    | 0x5000 => [⟨31, 30, (· == 3)⟩, ⟨29, 27, (decide <| 5 ≤ ·)⟩, ⟨24, 20, fun n => decide (n < 14) || decide (24 < n)⟩]
    | 0x5018 => [⟨31, 30, (· == 3)⟩]
    | 0x5180 => [⟨30, 29, (· == 3)⟩]
    | 0x6000 => [⟨23, 16, fun n => n == 0 || decide (25 < n)⟩, ⟨15, 0, (decide <| · < 2)⟩]
    | 0x7004 => [⟨22, 16, fun n => n == 0 || decide (100 < n)⟩, ⟨7, 0, (· == 0)⟩]
    | 0x8100 => [⟨18, 16, (decide <| 5 ≤ ·)⟩]
    | _ => []

/-- The bits of the fields in which a written value is a reserved encoding (R14): those fields keep their values. -/
def reservedBits (k : Nat) (v : W32) : W32 :=
  ((resFields k).filter fun f => f.bad (bitsN v f.hi f.lo)).foldl (fun a f => a ||| bitsMask f.hi f.lo) 0

/-! ## Staging -/

/-- Slot 0, profile 0, and partition 0's boundary and map bit 0 read fixed values and ignore writes (R72, R125, R235). -/
def fixedBits (k : Nat) : W32 :=
  if (isSlotKey k ∨ isMemberKey k) ∧ keySlot k = 0 then 0xFFFF_FFFF
  else if k = 0x1000 then bitsMask 20 12
  else if k ∈ [0x1018, 0x1020, 0x1030, 0x1038] then 1
  else 0

/-- Stages the bits of `mask`; a die-wide value opens or joins the die-wide request (R135), and writing back a roster entry's
value in force withdraws its change (R332). -/
def stageWord (k : Nat) (v mask : W32) (s : State) : State :=
  let m := mask &&& wbMask k &&& ~~~ (fixedBits k)
  if m = 0 then s
  else
    let s1 := stage k v m s
    if isRosterKey k && stagedWord s1 k == reg s1 k && nextWord s1 k == reg s1 k then
      unschedule (fun e => e == .wbAcknowledge k) (unstage k s1)
    else if (dwKeys s1).contains k then dwRestart s1
    else s1

end Sys2Proof.Machine
end

