-- ==== Sys2Proof/Machine/Partitions.lean ====
section
/-! DEFINITION. The partition commands (R238, R239, R241, R242, R247, R248), accounting windows (R237, R243) and the dirty-page
log's rounds (R249). -/

namespace Sys2Proof.Machine

/-! ## Results of the command port (Table PAR-3); in reduced service every command is REJECTED with CAUSE 1 (Table BOO-3) -/

def pcDone : Nat := 1
def pcRejected : Nat := 2
def pcForced : Nat := 3

def reject (cause : Nat) (s : State) : State := finishCmd pcRejected cause s

/-- A command that runs on: BUSY stays 1 until it is final. -/
def cmdBusy (s : State) : State := { s with su := { s.su with pcBusy := true } }

/-! ## CREATE (Table PAR-4, R236) -/

/-- The slots of the staged map. -/
def stagedSlots (s : State) (p : Nat) : List Nat :=
  ((allGroups fun o => nextWord s (partKey p o)).filter fun g => g.1 == 0).flatMap groupSlots

def create (p : Nat) (s : State) : State :=
  if s.boot.reduced ∨ p = 0 ∨ (part s p).state ≠ .free then reject 1 s
  else
    let row := partRow s p
    if row ≠ 0 then reject 2 (entryReject (partKey p 0) p row p (some p) (dropWords (partKeysOf s p) s))
    else finishCmd pcDone 0 (loadRate p true (applyPoint p (setPart p (Part.initial .active) (dropSlots (stagedSlots s p) s))))

def execCreate (p : Nat) (s : State) : Host.Outcome State Fault Refusal := answer (decide (p < 64)) (create p s)

/-! ## DESTROY and RESET (R248, R214) -/

def destroy (p : Nat) (s : State) : State :=
  if s.boot.reduced ∨ p = 0 ∨ (part s p).state ≠ .quiesced then reject 1 s
  else if !(assignedOf s p).isEmpty then reject 3 s
  else partReset p causeDestroy false (cmdBusy s)

def execDestroy (p : Nat) (s : State) : Host.Outcome State Fault Refusal := answer (decide (p < 64)) (destroy p s)

def resetCmd (p : Nat) (s : State) : State :=
  let x := (part s p).state
  if s.boot.reduced ∨ x = .free ∨ x = .resetting then reject 1 s else partReset p causeReset false (cmdBusy s)

def execReset (p : Nat) (s : State) : Host.Outcome State Fault Refusal := answer (decide (p < 64)) (resetCmd p s)

/-! ## REVOKE (R242) -/

/-- The rights of UHK_PART_CTL. -/
def rightsMask : W32 := 0x00E0_0000

/-- A word of the entry narrowed by its staged value: cleared map bits, cleared rights, PASIDV cleared. -/
def narrowWord (s : State) (p o : Nat) : W32 :=
  let w := reg s (partKey p o)
  let g := stagedWord s (partKey p o)
  if o = 0 then w &&& (g ||| ~~~ rightsMask)
  else if o = 4 then w &&& (g ||| 0x7FFF_FFFF)
  else w &&& g

def narrow (p : Nat) (s : State) : State :=
  (0 :: 4 :: mapWords).foldl (fun a o => setReg (partKey p o) (narrowWord s p o) a) s

/-- What narrows in UHK_PART_CTL and UHK_PART_PASID: the rights lost, and bit 31 for PASIDV. -/
def lostRights (s t : State) (p : Nat) : W32 :=
  (reg s (partKey p 0) &&& ~~~ (reg t (partKey p 0)) &&& rightsMask) ||| (reg s (partKey p 4) &&& ~~~ (reg t (partKey p 4)) &&& 0x8000_0000)

/-- Whether a REVOKE waits for operations checked earlier. -/
def revoking (s : State) : Bool := !s.su.revoked.isEmpty || s.su.narrowed != 0

/-- Narrows at once; what was checked earlier on a revoked resource or right has 2 us to execute, and DMA issued before drains. -/
def revoke (p : Nat) (s : State) : State :=
  let x := (part s p).state
  if s.boot.reduced ∨ (x ≠ .active ∧ x ≠ .quiesced) then reject 1 s
  else
    let s1 := changeMap p (narrow p) s
    let gone := (groupsIn s p).filter fun g => !(groupsIn s1 p).contains g
    let lost := lostRights s s1 p
    if gone.isEmpty && lost == 0 then finishCmd pcDone 0 s1
    else afterUs 2 (.doneForced p) (cmdBusy { s1 with su := { s1.su with revoked := gone, narrowed := lost } })

def execRevoke (p : Nat) (s : State) : Host.Outcome State Fault Refusal := answer (decide (p < 64)) (revoke p s)

def inGroups (gs : List (Nat × Nat)) (r : HomeReq) : Bool := gs.any fun g => inGroup g r.tok r.obj

/-- Takes the checked home requests of `p` on the groups off the links and out of the stores. -/
def takeRequests (p : Nat) (gs : List (Nat × Nat)) (s : State) : List HomeReq × State :=
  let mine := fun (r : HomeReq) => r.part == p && inGroups gs r
  let onWay := fun (e : Instr) => match homeOnLink e with | some r => mine r | none => false
  let a := (s.agenda.filter fun t => onWay t.ev).filterMap fun t => homeOnLink t.ev
  let b := (s.tree.links.filter fun i => onWay i.ev).filterMap fun i => homeOnLink i.ev
  let c := (s.home.crossing.filter fun x => mine x.req).map (·.req)
  let d := s.home.input.flatMap fun q => (q.2.filter fun i => mine i.req).map (·.req)
  (a ++ b ++ c ++ d,
   { s with agenda := s.agenda.filter (fun t => !onWay t.ev), tree := { s.tree with links := s.tree.links.filter fun i => !onWay i.ev },
            home := { s.home with crossing := s.home.crossing.filter (fun x => !mine x.req),
                                  input := (s.home.input.map fun q => (q.1, q.2.filter fun i => !mine i.req)).filter fun q => !q.2.isEmpty } })

/-- The tally commands of `p` on the groups that have not executed. -/
def takeTallies (p : Nat) (gs : List (Nat × Nat)) (s : State) : List TallyReq × State :=
  let mine := fun (d : TallyDue) => match d.act with | .cmd r => r.part == p && gs.contains (3, r.tally / 16) | .report _ _ _ _ => false
  ((s.tly.due.filter mine).filterMap fun d => match d.act with | .cmd r => some r | .report _ _ _ _ => none,
   { s with tly := { s.tly with due := s.tly.due.filter fun d => !mine d } })

/-- The held cues of the groups' slots leave as ABORTED cues, and so do those that stalls delay. -/
def voidHeld (gs : List (Nat × Nat)) (s : State) : State :=
  let mine := fun (slot : Nat) => gs.contains (0, slot / 8)
  let s1 := (s.tree.held.filter fun h => mine h.cue.slot).foldl (fun a h => release h.at_ (voidCue h.cue) (dropHeld h a)) s
  let s2 := voidWaves mine s1
  (s2.tree.waves.filter fun w => mine w.cue.slot).foldl (fun a w => stallForward w.stall w.cue a)
    { s2 with tree := { s2.tree with waves := s2.tree.waves.filter fun w => !mine w.cue.slot } }

/-- The descriptors of `p` checked on revoked resources or rights. -/
def revokedDesc (s : State) (d : DescState) : Bool :=
  d.decoded && d.refusal == 0 &&
    ((descGroups d).any (fun g => s.su.revoked.contains g)
      || (d.x.part != 0 || d.x.ring != 0) && ((descOp d.x == 8 && bitB s.su.narrowed 21) || (descOp d.x == 9 && bitB s.su.narrowed 22)))

/-- 2 us after the REVOKE: what has not executed completes with ABORTED and changes nothing, and RESULT is DONE_FORCED; else DONE. -/
def doneForced (p : Nat) (s : State) : State :=
  if !revoking s then s
  else
    let gs := s.su.revoked
    let (reqs, s1) := takeRequests p gs s
    let (tls, s2) := takeTallies p gs s1
    let held := s2.tree.held.any (fun h => gs.contains (0, h.cue.slot / 8)) || s2.tree.waves.any fun w => gs.contains (0, w.cue.slot / 8)
    let descs := s2.hq.descs.any fun d => d.x.part == p && revokedDesc s d
    let forced := !reqs.isEmpty || !tls.isEmpty || held || descs
    let s3 := abortDescs (revokedDesc s) p (voidHeld gs s2)
    let s4 := reqs.foldl (fun a r => respond r stAborted 0 false a) s3
    let s5 := tls.foldl (fun a r => tallyAnswer r stAborted 0 a) s4
    finishCmd (if forced then pcForced else pcDone) 0 { s5 with su := { s5.su with revoked := [], narrowed := 0 } }

def execDoneForced (p : Nat) (s : State) : Host.Outcome State Fault Refusal := answer (decide (p < 64)) (doneForced p s)

/-! ## RESUME (R247, R269) -/

def resume (p : Nat) (s : State) : State :=
  if s.boot.reduced ∨ (part s p).state ≠ .quiesced then reject 1 s
  else finishCmd pcDone 0 (resumePart p (event p 0x0A 0 0 (issueKept p (updPart p (fun x => { x with state := .active }) s))))

def execResume (p : Nat) (s : State) : Host.Outcome State Fault Refusal := answer (decide (p < 64)) (resume p s)

/-! ## SPLIT (R239) -/

/-- A word of a map of groups [lo, lo + n). -/
def mapWord (lo n w : Nat) : W32 :=
  BitVec.ofNat 32 ((List.range 32).foldl (fun a i => if lo ≤ 32 * w + i ∧ 32 * w + i < lo + n then a + 2 ^ i else a) 0)

/-- The groups of one pool that partition `i` of `k` takes: the first `base`, `g` in all. -/
def shareLo (base g k i : Nat) : Nat := base + (i - 1) * (g / k)

/-- The entry of partition `i` under SPLIT k, by word offset; other words keep their values. -/
def splitWord (s : State) (k i o : Nat) : W32 :=
  match o with
  | 0 => BitVec.ofNat 32 (8 * shareLo 1 55 k i * 2 ^ 12)
  | 4 => reg s (partKey i 4) &&& 0x7FFF_FFFF
  | 0x0C => 0x1010_1010
  | 0x10 => putBits (reg s (partKey i 0x10)) 24 16 0
  | 0x14 => BitVec.ofNat 32 (15360 / k * 2 ^ 16 + 3840 / k)
  | 0x18 => mapWord (shareLo 1 55 k i) (55 / k) 0 ||| mapWord (shareLo 56 8 k i) (8 / k) 0
  | 0x1C => mapWord (shareLo 1 55 k i) (55 / k) 1 ||| mapWord (shareLo 56 8 k i) (8 / k) 1
  | 0x20 => mapWord (shareLo 1 127 k i) (127 / k) 0
  | 0x24 => mapWord (shareLo 1 127 k i) (127 / k) 1
  | 0x28 => mapWord (shareLo 1 127 k i) (127 / k) 2
  | 0x2C => mapWord (shareLo 1 127 k i) (127 / k) 3
  | 0x30 => mapWord (shareLo 1 63 k i) (63 / k) 0
  | 0x34 => mapWord (shareLo 1 63 k i) (63 / k) 1
  | 0x38 => mapWord (shareLo 1 63 k i) (63 / k) 0
  | 0x3C => mapWord (shareLo 1 63 k i) (63 / k) 1
  | _ => reg s (partKey i o)

def entryWords : List Nat := (List.range 16).map (4 * ·)

/-- Partition 0's house share. -/
def houseWord (s : State) (o : Nat) : W32 :=
  if o = 0x14 then BitVec.ofNat 32 (1024 * 2 ^ 16 + 256)
  else if [0x18, 0x20, 0x30, 0x38].contains o then 1
  else if mapWords.contains o then 0
  else reg s (partKey 0 o)

def putEntry (p : Nat) (f : Nat → W32) (s : State) : State :=
  entryWords.foldl (fun a o => setReg (partKey p o) (f o) (unstage (partKey p o) a)) s

/-- The boundary slot's entry: reset values with ENABLE 1. -/
def putBoundary (slot : Nat) (s : State) : State :=
  let s1 := ((stagedKeys s).filter fun k => (isSlotKey k || isMemberKey k) && keySlot k == slot).foldl (fun a k => unstage k a) s
  setReg (slotKey slot 8) 0 (setReg (slotKey slot 4) 0 (setReg (slotKey slot 0) (resetWord (slotKey slot 0) ||| 0x8000_0000) s1))

/-- Makes partition `i` of `k`. -/
def splitOne (k i : Nat) (s : State) : State :=
  let f := splitWord s k i
  let s1 := setPart i (Part.initial .active) s
  let s2 := changeMap i (putEntry i f) s1
  putBoundary (8 * shareLo 1 55 k i) (dropSlots (slotsOf s2 i) s2)

/-- Whether a group that SPLIT hands out still has operations of its former owner outstanding (Table PAR-2, row 2). -/
def splitBlocked (s : State) (k : Nat) : Bool :=
  ((List.range k).map (· + 1)).any fun i => (allGroups (splitWord s k i)).any (outstandingOther s i)

/-- The carve itself. -/
def splitAll (k : Nat) (s : State) : State :=
  ((List.range k).map (· + 1)).foldl (fun a i => splitOne k i a) (changeMap 0 (putEntry 0 (houseWord s)) s)

def split (k : Nat) (s : State) : State :=
  if s.boot.reduced then reject 1 s
  else if k = 0 ∨ 55 < k then reject 4 s
  else if ((List.range 64).drop 1).any fun p => (part s p).state ≠ .free then reject 1 s
  else if splitBlocked s k then reject 2 s
  else finishCmd pcDone 0 (splitAll k s)

def execSplit (k : Nat) (s : State) : Host.Outcome State Fault Refusal := answer (decide (k < 64)) (split k s)

/-! ## Accounting windows (R237, Table PAR-6) -/

/-- TRACE_SHARE takes effect. -/
def loadShare (p : Nat) (s : State) : State := updPart p (fun x => { x with shareEff := fld s (partKey p 0x0C) 7 0 }) s

def accountingWindow (w : Window) (s : State) : State :=
  match w with
  | .refill => (livePartitions s).foldl (fun a p => loadRate p false a) s
  | .trace => (livePartitions s).foldl (fun a p => loadShare p a) s

def execAccountingWindow (w : Window) (s : State) : Host.Outcome State Fault Refusal := .next (accountingWindow w s)

/-! ## Dirty-page log (R249, Table PAR-8) -/

def dirtyPart (s : State) : Nat := fld s 0x08F0 5 0

def dirtyClear (s : State) : State := updPart (dirtyPart s) (fun x => { x with dirty := { x.dirty with ovf := false, cache := [] } }) s

def execDirtyClear (s : State) : Host.Outcome State Fault Refusal := .next (regWrite dirtyClear s)

end Sys2Proof.Machine
end

