-- ==== Sys2Proof/Machine/Host.lean ====
section
/-! DEFINITION. Host rings (11_host_queues.md): the ring area's writes, fetching, decoding and starting descriptors, what each
operation does, quiescing (R247, R269), DMA faults, interrupts, index write-backs and power-down. -/

namespace Sys2Proof.Machine

/-! ## Accesses of a partition page that the engine ignores (R335) -/

def ppErr (p : Nat) (s : State) : State :=
  let n := Tbl.get 0 s.flt.cnt 1
  rcBefore 0x4A04 n { s with flt := { s.flt with pperr := s.flt.pperr ||| (1#64 <<< p), cnt := Tbl.set 0 1 (n + 1) s.flt.cnt },
                             cyc := { s.cyc with pperr := s.cyc.pperr ||| (1#64 <<< p) } }

/-! ## Rings (Table HST-1) -/

def sqOff (q o : Nat) : Nat := 0x20 * q + o
def sqCtl (s : State) (p q : Nat) : W32 := pageReg s p (sqOff q 0x8)
def sqProd (s : State) (p q : Nat) : W32 := pageReg s p (sqOff q 0xC)
def sqCons (s : State) (p q : Nat) : W32 := pageReg s p (sqOff q 0x10)

def ringEn (w : W32) : Bool := bitB w 31
def ringStopped (w : W32) : Bool := bitB w 30

/-- Whether `j` lies at or after `i` among free-running indices. -/
def fromIdx (i j : W32) : Bool := decide ((j - i).toNat < 2 ^ 31)

/-- A ring stops at index `idx` (R263): STOPPED and STOPCAUSE, CONS at the index, what was fetched from there on is not executed;
the event and the fault record follow. -/
def stopRing (p q : Nat) (idx : W32) (cause op : Nat) (s : State) : State :=
  let s1 := setPage p (sqOff q 0x10) idx (setPage p (sqOff q 0x8) (putBits (sqCtl s p q ||| 0x4000_0000#32) 23 16 cause) s)
  let out := fun (d : DescState) => d.x.part == p && d.x.ring == q && !d.started && fromIdx idx d.x.idx
  let s2 := wantWriteback p { s1 with hq := { s1.hq with descs := s1.hq.descs.filter fun d => !out d } }
  report 0x0F 17 q (some p) [2, op, cause]
    (event p 0x01 (BitVec.ofNat 32 q) (BitVec.ofNat 128 (idx.toNat + cause * 2 ^ 32)) s2)

/-- A doorbell write (R255); to a ring with EN 0, or in reduced service, it is stored without check. -/
def doorbell (p q : Nat) (w : W32) (s : State) : State :=
  let cons := sqCons s p q
  let n := (w - cons).toNat
  if !ringEn (sqCtl s p q) || s.boot.reduced then setPage p (sqOff q 0xC) w s
  else if (sqProd s p q - cons).toNat ≤ n ∧ n ≤ ringSize (sqCtl s p q) then setPage p (sqOff q 0xC) w s
  else stopRing p q cons 0x04 0xFF s

def ringOk (p q : Nat) : Bool := decide (p < 64 ∧ q < 4)

def execSqDoorbell (p q : Nat) (v : W32) (s : State) : Host.Outcome State Fault Refusal := answer (ringOk p q) (regWrite (doorbell p q v) s)

/-- LOG2SIZE as a control write leaves it: fixed while EN is 1, and 6 to 16 alone (R254, R14); `true` where the write is at fault. -/
def log2After (was v : W32) (ok : Nat → Bool) : Nat × Bool :=
  let old := bitsN was 4 0
  let new := bitsN v 4 0
  if ringEn was then (old, new != old) else if ok new then (new, false) else (old, true)

def log2Ok (n : Nat) : Bool := decide (6 ≤ n ∧ n ≤ 16)

/-- CONS := PROD and STOPPED := 0 (R263). -/
def sqRestart (p q : Nat) (s : State) : State :=
  wantWriteback p (setPage p (sqOff q 0x10) (sqProd s p q) (setPage p (sqOff q 0x8) (sqCtl s p q &&& 0xBFFF_FFFF#32) s))

/-- A write of UHK_SQ_CTL (R254): setting EN sets CONS := PROD; RESET acts once. -/
def writeSqCtl (p q : Nat) (v : W32) (s : State) : State :=
  let was := sqCtl s p q
  let (n, bad) := log2After was v log2Ok
  let new := putBits (putBits was 31 31 (ringEn v).toNat) 4 0 n
  let s1 := setPage p (sqOff q 0x8) new (if bad then ppErr p s else s)
  let s2 := if ringEn v && !ringEn was then wantWriteback p (setPage p (sqOff q 0x10) (sqProd s1 p q) s1) else s1
  if bitB v 29 then sqRestart p q s2 else s2

def execSqEnable (p q : Nat) (v : W32) (s : State) : Host.Outcome State Fault Refusal := answer (ringOk p q) (regWrite (writeSqCtl p q v) s)

def execSqReset (p q : Nat) (s : State) : Host.Outcome State Fault Refusal := answer (ringOk p q) (regWrite (sqRestart p q) s)

/-- RESET of the completion (`o` 0x88) or event ring (`o` 0xA8): when STOPPED, PROD := CONS and STOPPED := 0; otherwise ignored. -/
def outReset (p o : Nat) (s : State) : State :=
  if ringStopped (pageReg s p o) then
    wantWriteback p (setPage p (o + 4) (pageReg s p (o + 8)) (setPage p o (pageReg s p o &&& 0xBFFF_FFFF#32) s))
  else s

def execCqReset (p : Nat) (s : State) : Host.Outcome State Fault Refusal := answer (decide (p < 64)) (regWrite (outReset p 0x88) s)
def execEqReset (p : Nat) (s : State) : Host.Outcome State Fault Refusal := answer (decide (p < 64)) (regWrite (outReset p 0xA8) s)

/-- UHK_CQ_DB. -/
def execCqDoorbell (p : Nat) (v : W32) (s : State) : Host.Outcome State Fault Refusal :=
  answer (decide (p < 64)) (regWrite (setPage p 0x90 v) s)

/-- A write of UHK_CQ_CTL or UHK_EQ_CTL: EN, VEC, IRQ_EN, LOG2SIZE, and for the completion ring THRESH and TIMER. -/
def writeOutCtl (p o : Nat) (v : W32) (s : State) : State :=
  let was := pageReg s p o
  let (n, bad1) := log2After was v log2Ok
  let bad2 := decide (o = 0x88 ∧ bitsN v 23 16 = 0)
  let m : W32 := 0x9C00_0000#32 ||| (if o = 0x88 then (if bad2 then 0xFF00#32 else 0xFF_FF00#32) else 0)
  let new := putBits ((was &&& ~~~ m) ||| (v &&& m)) 4 0 n
  let s1 := setPage p o new (if bad1 || bad2 then ppErr p s else s)
  let s2 := if o = 0x88 then irqCheck p (irqArm p s1) else s1
  if bitB v 29 then outReset p o s2 else s2

/-! ## Fetching (R254, R256, R266) -/

def fetchedOf (s : State) (p : Nat) : Nat := (s.hq.descs.filter fun d => d.x.part == p).length
def aheadOf (s : State) (p q : Nat) : Nat := (s.hq.descs.filter fun d => d.x.part == p && d.x.ring == q && !d.started).length

/-- Free entries of the completion ring. -/
def cqRoom (s : State) (p : Nat) : Nat := ringSize (pageReg s p 0x88) - (pageReg s p 0x8C - pageReg s p 0x90).toNat

/-- Whether the completion ring takes one more descriptor of `p` (R256). -/
def cqReady (s : State) (p : Nat) : Bool :=
  ringEn (pageReg s p 0x88) && !ringStopped (pageReg s p 0x88) && decide (fetchedOf s p < cqRoom s p)

/-- Whether host work of `p` goes on: ACTIVE, DMA allowed, no power-down, full service (Table BOO-3). -/
def hostRuns (s : State) (p : Nat) : Bool := (part s p).state == .active && dmaAllowed s p && !s.hq.off && !s.boot.reduced

def fetchable (s : State) (p q : Nat) : Bool :=
  hostRuns s p && ringEn (sqCtl s p q) && !ringStopped (sqCtl s p q) && sqProd s p q != sqCons s p q && cqReady s p
    && decide (aheadOf s p q < 8)

/-- The first at or after `q`, wrapping: whose turn it is in a round robin that stands at `q`. -/
def turnOf (q : Nat) (l : List Nat) : Option Nat := match l.find? fun p => q ≤ p with | some p => some p | none => l.head?

/-- The partition and ring of the next fetch. -/
def nextFetch (s : State) : Option (Nat × Nat) :=
  match turnOf s.hq.rr ((List.range 64).filter fun p => (List.range 4).any (fetchable s p)) with
  | none => none
  | some p => (turnOf (Tbl.get 0 s.hq.rings p) ((List.range 4).filter (fetchable s p))).map fun q => (p, q)

/-- A descriptor read is issued, one of 64 bytes (R258): the descriptor is fetched, and its words come with DESCRIPTOR_DECODE. -/
def fetchOne (p q : Nat) (s : State) : State :=
  let i := sqCons s p q
  let d : DescState :=
    { x := { part := p, ring := q, idx := i, d := [] }, decoded := false, aborted := false, readyAt := 0, started := false,
      parked := false, refusal := 0, endAt := 0, ids := [], left := 0, next := 0, worst := stOk }
  let at_ := ringBase (pageReg s p (sqOff q 0)) (pageReg s p (sqOff q 4)) + BitVec.ofNat 64 (64 * (i.toNat % ringSize (sqCtl s p q)))
  let s1 := { s with hq := { s.hq with descs := s.hq.descs ++ [d], rr := (p + 1) % 64, rings := Tbl.set 0 p ((q + 1) % 4) s.hq.rings } }
  wantWriteback p (setPage p (sqOff q 0x10) (i + 1) (queueDma [.read { part := p, addr := at_, bytes := 64 }] s1))

def descriptorFetch (s : State) : State := match nextFetch s with | some x => fetchOne x.1 x.2 s | none => s

def execDescriptorFetch (s : State) : Host.Outcome State Fault Refusal := .next (descriptorFetch s)

/-! ## Malformed descriptors (R258, R259) -/

/-- The bits of word `i` that Table HST-2 and Table HST-3 name for an operation. -/
def descMask (op i : Nat) : W64 :=
  match i, op with
  | 0, _ => 0xFFFF_FFFF_0000_07FF
  | 1, 1 => 0x000F_FFFF_FFFF_3DFF
  | 1, 2 => 0x3F1F_1FFF
  | 1, 3 => 0x3F1F_07FF
  | 1, 4 => 0x001F_03FF
  | 1, 5 => 0x1FFF_0073
  | 1, 6 => 0x01FF_1F0F
  | 1, 7 => 0xFFFF_FFFF
  | 1, 8 => 0x3F
  | 1, 9 => 0x003F_0103
  | 1, 10 => 0x3F
  | 2, 1 => 0xFFFF_FFFF_FFFF_FFFF
  | 2, 2 => 0xFFFF_FFFF_FFFF_FFFF
  | 2, 3 => 0xFFFF_FFFF_FFFF_FFFF
  | 2, 4 => 0xFFFF_FFFF
  | 2, 5 => 0xFFFF_FFFF_FFFF_FFFF
  | 2, 6 => 0x000F_FFFF_FFFF_FFFF
  | 3, 1 => 0xFFFF_FFFF_FFFF_FFFF
  | 3, 2 => 0xFFFF_FFFF_FFFF_FFFF
  | 3, 3 => 0xFFFF_FFFF_FFFF_FFFF
  | 3, 5 => 0xFFFF_FFFF
  | 3, 6 => 0x1FFF_0001_000F_FFFF
  | 4, 8 => 0xFFFF_FFFF_FFFF_FFFF
  | 5, 8 => 0xFFFF_FFFF
  | _, _ => 0

def reservedBit (x : Desc) : Bool := (List.range 8).any fun i => descWord x i &&& ~~~ (descMask (descOp x) i) != 0

def dOp (x : Desc) : Nat := descBits x 1 20 16
def dAct (x : Desc) : Nat := descBits x 1 11 10
def dKind (x : Desc) : Nat := descBits x 1 1 0
def dWmask (x : Desc) : Nat := descBits x 1 6 4

/-- Reserved codes of each operation. -/
def reservedCode (x : Desc) : Bool :=
  match descOp x with
  | 1 => dAct x == 3 || descBits x 1 13 12 == 3
  | 2 => decide (0x09 < dOp x) || (decide (1 < opCount x) && dOp x != 0 && dOp x != 5)
  | 3 => decide (dOp x < 0x10 ∨ 0x16 < dOp x) || (decide (1 < opCount x) && dOp x != 0x10)
  | 4 => decide (dOp x < 0x18 ∨ 0x1A < dOp x)
  | 5 => dKind x == 3 || dWmask x == 0 || (dKind x != 0 && dWmask x != 1)
  | 9 => dKind x == 3
  | _ => false

/-- The slot of a HOST_CALL. -/
def callSlot (s : State) (x : Desc) : Option Nat := relSlot s x.part (descBits x 1 8 0)

/-- The STOPCAUSE of a malformed descriptor; 0 for a well-formed one. -/
def malformed (s : State) (x : Desc) : Nat :=
  if 0x0A < descOp x then 1
  else if reservedBit x || reservedCode x then 2
  else if descOp x = 1 then (match callSlot s x with | some i => if slotHost s i then 0 else 3 | none => 0)
  else 0

/-! ## Policy refusals (R240, R260, R244) -/

/-- The manager ring: ring 0 of partition 0. -/
def managerRing (x : Desc) : Bool := x.part == 0 && x.ring == 0

/-- All of a list of physical ids, none where one lies beyond the allocation. -/
def allOf (l : List (Option Nat)) : Option (List Nat) :=
  l.foldr (fun o a => match o, a with | some i, some t => some (i :: t) | _, _ => none) (some [])

/-- The physical ids that a descriptor's relative ids name; none for a range beyond the allocation. -/
def idsOf (s : State) (x : Desc) : Option (List Nat) :=
  let p := x.part
  match descOp x with
  | 1 => allOf [callSlot s x]
  | 2 => allOf ((List.range (opCount x)).map fun k => relSem s p (descBits x 1 12 0 + k))
  | 3 =>
    (match allOf ((List.range (opCount x)).map fun k => relTok s p (descBits x 1 10 0 + k)) with
     | some l => if dOp x = 0x13 ∧ l.any (fun i => decide (2047 ≤ i) || objOwner s true (i + 1) != some p) then none else some l
     | none => none)
  | 4 => allOf [relTally s p (descBits x 1 9 0)]
  | 5 => allOf [match dKind x with
      | 0 => relSlot s p (descBits x 1 28 16) | 1 => relSem s p (descBits x 1 28 16) | _ => relTok s p (descBits x 1 28 16)]
  | 6 => allOf [(granted s p)[descBits x 1 3 0]?, relSlot s p (descBits x 1 24 16),
                if descBits x 1 11 11 = 1 then relSem s p (descBits x 3 60 48) else some 0]
  | _ => some []

/-- A slot word's ROOT above the die. -/
def aboveDie (w : W32) : Bool := bitsN w 24 22 == 4 || bitsN w 24 22 == 5

/-- A tenant STAGE_CONFIG that would change a slot's ROOT to or from PACKAGE or FABRIC, or its SPAN. -/
def rootChange (s : State) (x : Desc) (slot : Nat) : Bool :=
  dKind x == 0 &&
    ((dWmask x % 2 == 1 && (let w : W32 := (descWord x 2).setWidth 32
        (aboveDie w || aboveDie (slotCfg s slot)) && bitsN w 24 22 != bitsN (slotCfg s slot) 24 22))
     || (dWmask x / 4 % 2 == 1 && bitsN ((descWord x 3).setWidth 32 : W32) 20 14 != spanOf s slot))

/-- The cause of a policy refusal; 0 for none. -/
def refusalOf (s : State) (x : Desc) : Nat :=
  let tenant := !managerRing x
  match idsOf s x with
  | none => 1
  | some ids =>
    match descOp x with
    | 5 => if tenant && rootChange s x (ids.headD 0) then 6 else 0
    | 8 =>
      if tenant && descBits x 1 5 0 != 0 then 2
      else if tenant && !bitB (reg s (partKey x.part 0)) 21 then 3
      else if descBits x 5 31 0 < 524288 then 5
      else 0
    | 9 =>
      if tenant && (descBits x 1 8 8 != 0 || descBits x 1 21 16 != 0) then 2
      else if tenant && !bitB (reg s (partKey x.part 0)) 22 then 3
      else if descBits x 1 8 8 = 1 ∧ !authDie s then 4
      else 0
    | 10 => if tenant then 2 else 0
    | _ => 0

/-- WAIT_TO's deadline, fixed at decode in bits [127:64] of its payload (R261). -/
def withDue (s : State) (x : Desc) : Desc :=
  if descOp x = 2 ∧ dOp x = 3 then
    { x with d := x.d.set 3 (houseNow s + BitVec.ofNat 64 (256 * descBits x 2 63 32)) }
  else x

/-- The object at which a refused descriptor executes as a null operation: the first of its kind that its partition owns (R143, R244). -/
def nullIds (s : State) (x : Desc) : List Nat := if descOp x = 3 then [(relTok s x.part 0).getD 0] else [(relSem s x.part 0).getD 0]

/-- A decoded descriptor. -/
def decodedOf (s : State) (x : Desc) : DescState :=
  let r := refusalOf s x
  { x := withDue s x, decoded := true, aborted := false, readyAt := s.clk.eclk + 4, started := false, parked := false, refusal := r,
    endAt := 0, ids := if r = 0 then (idsOf s x).getD [] else nullIds s x, left := 0, next := 0, worst := stOk }

/-- A descriptor's 64 bytes have arrived; one ended meanwhile completes with ABORTED (R268, R270). -/
def descriptorDecode (x : Desc) (s : State) : State :=
  match s.hq.descs.find? fun d => sameDesc d.x x && !d.decoded with
  | none => s
  | some d =>
    if d.aborted then complete x (Done.plain stAborted) true s
    else
      let m := malformed s x
      if m ≠ 0 then stopRing x.part x.ring x.idx m (descOp x) s else updDesc (decodedOf s x) s

def descOk (x : Desc) : Bool := decide (x.d.length = 8) && ringOk x.part x.ring

def execDescriptorDecode (x : Desc) (s : State) : Host.Outcome State Fault Refusal := answer (descOk x) (descriptorDecode x s)

/-! ## Starting (R265, R266, R269) -/

/-- Whether an earlier descriptor of the ring is still there; `q` restricts which. -/
def earlier (s : State) (x : Desc) (q : DescState → Bool) : Bool :=
  s.hq.descs.any fun d => d.x.part == x.part && d.x.ring == x.ring && d.x.idx != x.idx && fromIdx d.x.idx x.idx && q d

/-- Whether a descriptor may start now: decoded, in index order, after FENCE's, and with an in-flight request where it needs one. -/
def startable (s : State) (d : DescState) : Bool :=
  d.decoded && !d.started && decide (d.readyAt ≤ s.clk.eclk) && hostRuns s d.x.part
    && !earlier s d.x (fun e => !e.started) && !(bitB (descWord d.x 0) 10 && earlier s d.x fun _ => true)
    && !(atHome d && decide (16 ≤ flyOf s d.x.part))

/-- The descriptor that starts next: round robin over partitions with work, then over their rings. -/
def nextStart_ (s : State) : Option DescState :=
  let l := s.hq.descs.filter (startable s)
  match turnOf s.hq.rrStart ((List.range 64).filter fun p => l.any fun d => d.x.part == p) with
  | none => none
  | some p =>
    match turnOf (Tbl.get 0 s.hq.rings (64 + p)) ((List.range 4).filter fun q => l.any fun d => d.x.part == p && d.x.ring == q) with
    | none => none
    | some q => l.find? fun d => d.x.part == p && d.x.ring == q

/-- The command by which a descriptor executes; none for CURTAIN, which Table OBS-7's rows carry out. -/
def startInstr (x : Desc) : Option Instr :=
  match descOp x with
  | 0 => some (.nop x)
  | 1 => some (match dAct x with | 0 => .hostCall x | 1 => .hostAbstain x | _ => .hostRejoin x)
  | 2 => some (.semOp x) | 3 => some (.tokenOp x) | 4 => some (.tallyOp x) | 5 => some (.stageConfig x)
  | 6 => some (.watchSet x) | 7 => some (.traceMark x) | 8 => some (.snapshot x) | 10 => some (.partQuiesce x)
  | _ => none

/-- Marks a descriptor started; one that the engine has not fetched joins the fetched ones as decoded now. -/
def begin_ (x : Desc) (s : State) : State :=
  match findDesc s x.part x.ring x.idx with
  | some d => updDesc { (if d.decoded then d else decodedOf s x) with started := true, parked := false } s
  | none => { s with hq := { s.hq with descs := s.hq.descs ++ [{ decodedOf s x with started := true }] } }

/-- Whether a descriptor waits at its unit under a curtain: CURTAIN, SNAPSHOT and NOP execute, and home requests wait at the
home itself (Table OBS-8, R163). -/
def waitsAtUnit (s : State) (x : Desc) : Bool :=
  covered s x.part && (descOp x == 1 || (4 ≤ descOp x && descOp x != 8 && descOp x != 9))

/-- Whether a descriptor has still to act: not started, or waiting at its unit. -/
def yetToRun (s : State) (x : Desc) : Bool :=
  match findDesc s x.part x.ring x.idx with | some d => !d.started || d.parked | none => true

/-- A refusal outside the home is charged to its partition's bucket and deficits like one at the home (R143, R244). -/
def chargeRefusal (p : Nat) (s : State) : State :=
  let s1 := if (part s p).rateEff = 0 then s else setBucket p (bucketOf s p - 1) s
  (List.range 4).foldl (fun a k => setDeficit k p (deficitOf a k p - (if k = p % 4 then 1 else 0)) a) s1

/-- A refused CURTAIN is answered once a lift or raise would be in force: crossings and 11 TCLK (R244, R288; log 37). -/
def refusedAt (s : State) (x : Desc) : Nat :=
  s.clk.eclk + 4 + (if descOp x = 9 then 13 * period s .tclk / period s .eclk else 0)

/-- Executes a descriptor once: it waits under a curtain, runs as a null operation where it is refused, or acts by `f`. -/
def runDesc (x : Desc) (f : DescState → State → State) (s : State) : State :=
  if !yetToRun s x then s
  else
    let s1 := begin_ x s
    match findDesc s1 x.part x.ring x.idx with
    | none => s1
    | some d =>
      if waitsAtUnit s1 x then updDesc { d with parked := true } s1
      else if d.refusal ≠ 0 then
        (if atHome d then hostPump d.x 16 (updDesc { d with left := d.ids.length, next := 0, worst := stOk } s1)
         else updDesc { d with endAt := refusedAt s1 x } s1)
      else f d s1

/-- The refused descriptors whose answer is due in this ECLK (R244). -/
def answerRefused (s : State) : State :=
  (s.hq.descs.filter fun d => d.endAt != 0 && decide (d.endAt ≤ s.clk.eclk)).foldl
    (fun a d => refuseDesc d.x d.refusal (chargeRefusal d.x.part a)) s

/-- A well-formed descriptor of operation `op`; one that passed its decode is not judged again (R241). -/
def descIs (s : State) (op : Nat) (x : Desc) : Bool :=
  descOp x == op && ((match findDesc s x.part x.ring x.idx with | some d => d.decoded | none => false) || malformed s x == 0)

/-- One descriptor row. -/
def descRow (op : Nat) (x : Desc) (f : DescState → State → State) (s : State) : Host.Outcome State Fault Refusal :=
  if !descIs s op x then .fault .notThisCommand else answer (descOk x) (runDesc x f s)

def completeOk (d : DescState) (s : State) : State := complete d.x (Done.plain stOk) false s

def execNop (x : Desc) (s : State) : Host.Outcome State Fault Refusal := descRow 0 x completeOk s

/-! ## HOST_CALL (R262) -/

/-- The partial of a host member's call, in the slot's form. -/
def hostPartial (s : State) (x : Desc) (slot : Nat) : Partial :=
  { slot := slot, gen := 0, op := slotOp s slot, fmt := slotFmt s slot, vote := BitVec.ofNat 2 (descBits x 1 13 12), count := 1,
    tag := BitVec.ofNat 20 (descBits x 1 51 32),
    data := widen (slotOp s slot) (slotFmt s slot) (isQuiesce s slot) (descWord x 3 ++ descWord x 2), child := hostChild, seq := 0,
    leftT := s.clk.tclk, firstAt := s.clk.tclk, lastAt := s.clk.tclk, lastVt := srcHost, word := 0 }

/-- TCLK for the conversion of the payload. -/
def convertT (s : State) (slot : Nat) : Nat := if isX (slotOp s slot) then 4 else 0

/-- A call is handed to the die root; a second one while the first is pending completes with BUSY. -/
def callHost (d : DescState) (s : State) : State :=
  let slot := d.ids.headD 0
  if s.hq.hostCall.any fun h => h.1 == slot then complete d.x (Done.plain stBusy) false s
  else
    let (t, s1) := crossDue s .eclk .tclk 2 3
    let at_ := t + convertT s slot
    let p := hostPartial s d.x slot
    schedule .tclk at_ (.partialArrival .die (.call { p with leftT := at_, firstAt := at_, lastAt := at_ }))
      (count d.x.part 0 1 { s1 with hq := { s1.hq with hostCall := s1.hq.hostCall ++ [(slot, d.x)] } })

def hostAct (act : Nat) (x : Desc) (f : DescState → State → State) (s : State) : Host.Outcome State Fault Refusal :=
  if dAct x ≠ act then .fault .notThisCommand else descRow 1 x f s

def execHostCall (x : Desc) (s : State) : Host.Outcome State Fault Refusal := hostAct 0 x callHost s

/-- ABSTAIN (0) or REJOIN (1) on its way to the die root. -/
def ctrlHost (op : Nat) (d : DescState) (s : State) : State :=
  let w : W32 := BitVec.ofNat 32 (4 * 2 ^ 28 + op * 2 ^ 23 + d.ids.headD 0)
  let c : CtrlPkt := { word := w, pay0 := BitVec.ofNat 32 (descBits d.x 1 31 16), src := srcHost, leftT := s.clk.tclk }
  across .eclk .tclk 2 3 (.partialArrival .die (.ctrl c)) s

def execHostAbstain (x : Desc) (s : State) : Host.Outcome State Fault Refusal := hostAct 1 x (ctrlHost 0) s
def execHostRejoin (x : Desc) (s : State) : Host.Outcome State Fault Refusal := hostAct 2 x (ctrlHost 1) s

/-! ## Home, tally, staging, trace (R261) -/

/-- Requests go to the home one after the other, as far as the in-flight limit allows. -/
def runHome (d : DescState) (s : State) : State :=
  hostPump d.x 16 (updDesc { d with left := d.ids.length, next := 0, worst := stOk } s)

def execSemOp (x : Desc) (s : State) : Host.Outcome State Fault Refusal := descRow 2 x runHome s
def execTokenOp (x : Desc) (s : State) : Host.Outcome State Fault Refusal := descRow 3 x runHome s

def runTally (d : DescState) (s : State) : State :=
  let (t, s1) := crossDue s .eclk .tclk 2 3
  tallyAt t (.cmd { tally := d.ids.headD 0, op := BitVec.ofNat 5 (dOp d.x), nohold := false, src := srcHost, part := d.x.part,
                    pay := ((descWord d.x 2).setWidth 32 : W32).setWidth 128, leftT := s.clk.tclk, ring := d.x.ring, didx := d.x.idx,
                    word := 0 }) s1

def execTallyOp (x : Desc) (s : State) : Host.Outcome State Fault Refusal := descRow 4 x runTally s

/-- The words a STAGE_CONFIG carries. -/
def stageValue (x : Desc) (w : Nat) : W32 :=
  match w with
  | 0 => (descWord x 2).setWidth 32
  | 1 => (descWord x 2 >>> 32).setWidth 32
  | _ => (descWord x 3).setWidth 32

/-- Stages a word as a register write would: reserved encodings keep their fields. -/
def stageDesc (k : Nat) (v : W32) (s : State) : State := stageWord k v (~~~ reservedBits k v) s

def runStage (d : DescState) (s : State) : State :=
  let i := d.ids.headD 0
  let put := fun (a : State) (w : Nat) =>
    match dKind d.x with
    | 0 => stageDesc (slotKey i (4 * w)) (stageValue d.x w) a
    | 1 => stageDesc (objCfgKey false i) (stageValue d.x w) a
    | _ => stageDesc (objCfgKey true i) (stageValue d.x w) a
  stageDone (((List.range 3).filter fun w => dWmask d.x / 2 ^ w % 2 == 1).foldl put s)

def execStageConfig (x : Desc) (s : State) : Host.Outcome State Fault Refusal := descRow 5 x runStage s

/-- WATCH_SET stages the whole watchpoint. -/
def runWatch (d : DescState) (s : State) : State :=
  let x := d.x
  let w := d.ids.headD 0
  let ctl : W32 := BitVec.ofNat 32 (descBits x 1 8 8 * 2 ^ 31 + descBits x 1 9 9 * 2 ^ 30 + descBits x 1 10 10 * 2 ^ 29
    + descBits x 1 11 11 * 2 ^ 28 + descBits x 1 12 12 * 2 ^ 27 + descBits x 3 32 32 * 2 ^ 26 + d.ids.getD 1 0)
  let all : W32 := 0xFFFF_FFFF
  let s1 := stageWord (wpKey w 4) ((descWord x 2).setWidth 32) all (stageWord (wpKey w 0) ctl all s)
  let s2 := stageWord (wpKey w 8) (BitVec.ofNat 32 (descBits x 2 51 32)) all s1
  let s3 := stageWord (wpKey w 0xC) (BitVec.ofNat 32 (descBits x 3 19 0)) all s2
  stageWord (wpKey w 0x10) (BitVec.ofNat 32 (d.ids.getD 2 0)) all s3

def execWatchSet (x : Desc) (s : State) : Host.Outcome State Fault Refusal := descRow 6 x runWatch s

def runMark (d : DescState) (s : State) : State :=
  let p := d.x.part
  completeOk d (if (part s p).shareEff = 0 then count p 11 1 s else traceMarkRec p srcHost 0 ((descWord d.x 1).setWidth 32) 1 s)

def execTraceMark (x : Desc) (s : State) : Host.Outcome State Fault Refusal := descRow 7 x runMark s

/-! ## CURTAIN descriptors (R261, R288, R292) -/

/-- A CURTAIN descriptor starts: its request crosses into TCLK. -/
def startCurtain (x : Desc) (s : State) : State :=
  runDesc x (fun d a =>
    let (t, a1) := crossDue a .eclk .tclk 1 2
    if descBits d.x 1 8 8 = 1 then askDie (dKind d.x) (t + 11) a1
    else
      let p := descTarget d.x 21 16
      let src := descSrc d.x
      schedule .tclk t (match dKind d.x with
        | 0 => .curtainRaise p src false | 1 => .curtainLift p src false | _ => .curtainLiftAbort p src false) a1) s

/-! ## Quiescing (R247, R269) -/

/-- PART_QUIESCE: ACTIVE becomes QUIESCING; a target QUIESCED already completes at once, one not there to quiesce is refused (log 38). -/
def runQuiesce (d : DescState) (s : State) : State :=
  let p := descBits d.x 1 5 0
  match (part s p).state with
  | .active => updPart p (fun x => { x with state := .quiescing }) s
  | .quiescing => s
  | .quiesced => completeOk d s
  | _ => refuseDesc d.x 9 s

def execPartQuiesce (x : Desc) (s : State) : Host.Outcome State Fault Refusal := descRow 10 x runQuiesce s

/-- The partition a request belongs to, before its stall has named it. -/
def reqPart (s : State) (r : HomeReq) : Nat := if r.src < nStirrup then stirPart (stir s r.src) else r.part

def slotIs (s : State) (p slot : Nat) : Bool := slotOwner s slot == some p
def stirIs (s : State) (p st : Nat) : Bool := stirPart (stir s st) == p

/-- Whether something under way is work of `p`. -/
def workOf (s : State) (p : Nat) (e : Instr) : Bool :=
  match treeSlot e, itemOf e with
  | some i, _ => slotIs s p i
  | none, some it => reqPart s it.req == p
  | none, none =>
    match e with
    | .partialArrival _ (.home r) => reqPart s r == p
    | .signalCombining _ r => reqPart s r == p
    | .partialArrival _ (.tally r) => if r.src < nStirrup then stirIs s p r.src else r.part == p
    | .partialArrival _ (.ctrl c) => c.src < nStirrup && stirIs s p c.src
    | .freezeOrder st _ _ _ => stirIs s p st
    | .homeRsp _ r => stirIs s p r.dest
    | .tallyResponse _ r => stirIs s p r.dest
    | .hostCallCompletion c => slotIs s p c.slot
    | .undo q _ => q == p
    | .undoComplete q => q == p
    | .wakePass tok i => passOwner s tok i == p
    | .curtainRaise q _ _ => q == p
    | .curtainLift q _ _ => q == p
    | .curtainLiftAbort q _ _ => q == p
    | _ => false

/-- Whether everything issued for `p` has come to its resting point. What a curtain holds still rests. -/
def atRest (s : State) (p : Nat) : Bool :=
  let cov := covered s p
  !(s.agenda.any fun t => workOf s p t.ev) && !(s.tree.links.any fun i => workOf s p i.ev)
    && (cov || !(s.tree.waves.any fun w => slotIs s p w.cue.slot))
    && (cov || !(s.home.crossing.any fun c => reqPart s c.req == p))
    && (cov || !(s.home.input.any fun q => q.2.any fun it => it.req.part == p))
    && !(s.tree.merges.any fun m => !m.sent && m.first.part == p)
    && !(s.tly.due.any fun d => match d.act with | .cmd r => r.part == p | .report _ _ _ _ => false)
    && !(s.tree.undos.any fun u => u.part == p) && !undoRuns s p && !(s.home.marks.any fun m => m.part == p)
    && !(s.fab.sched.any fun x => slotIs s p x.slot) && !(s.fab.reinQ.any fun o => o.part == some p)
    && !(s.hq.descs.any fun d => d.x.part == p && d.started && !d.parked && (4 ≤ descOp d.x && descOp d.x ≤ 9))

/-- `p` becomes QUIESCED: its event and the PART_QUIESCE completions are written. -/
def quiesced (p : Nat) (s : State) : State :=
  if (part s p).state ≠ .quiescing ∨ !atRest s p then s
  else
    let l := s.hq.descs.filter fun d => d.started && d.refusal == 0 && descOp d.x == 10 && descBits d.x 1 5 0 == p
    updPart p (fun x => { x with state := .quiesced }) (l.foldl (fun a d => completeOk d a) (event p 0x09 0 0 s))

def execQuiesced (p : Nat) (s : State) : Host.Outcome State Fault Refusal := answer (decide (p < 64)) (quiesced p s)

/-! ## DMA faults (R263) -/

/-- Ends a SNAPSHOT descriptor whose buffer faulted, without a completion. -/
def dropSnap (x : Desc) (s : State) : State :=
  dropSnaps (sameDesc x) { s with hq := { s.hq with descs := s.hq.descs.filter fun d => !sameDesc d.x x } }

def dmaFault (p : Nat) (k : DmaKind) (s : State) : State :=
  match k with
  | .descRead q =>
    (match s.hq.descs.find? fun d => d.x.part == p && d.x.ring == q && !d.decoded with
     | some d =>
       if d.aborted then { s with hq := { s.hq with descs := s.hq.descs.filter fun e => !sameDesc e.x d.x } }
       else stopRing p q d.x.idx 0x05 0xFF s
     | none => s)
  | .completion =>
    let s1 := setPage p 0x88 (pageReg s p 0x88 ||| 0x4000_0000#32) s
    report 0x0F 17 4 (some p) [2, 0xFF, 6]
      (event p 0x01 4 (BitVec.ofNat 128 ((pageReg s p 0x8C - 1).toNat + 6 * 2 ^ 32)) s1)
  | .event => report 0x0F 17 5 (some p) [2, 0xFF, 7] (setPage p 0xA8 (pageReg s p 0xA8 ||| 0x4000_0000#32) s)
  | .snapshot q =>
    (match s.obs.snaps.find? fun y => y.x.part == p && y.x.ring == q && y.stage == 4 with
     | some y => stopRing p q y.x.idx 0x08 8 (dropSnap y.x s)
     | none => s)

def dmaOk (k : DmaKind) : Bool := match k with | .descRead q => q < 4 | .snapshot q => q < 4 | _ => true

def execDmaFault (p : Nat) (k : DmaKind) (s : State) : Host.Outcome State Fault Refusal :=
  answer (decide (p < 64) && dmaOk k) (dmaFault p k s)

/-! ## Interrupts and write-backs (R254, R267) -/

/-- TIMER us have passed since the first completion not yet signalled; without IRQ_EN it waits for it. -/
def irqTimer (p : Nat) (s : State) : State :=
  if Tbl.get 0 s.hq.cqSince p = 0 ∨ !bitB (pageReg s p 0x88) 26 then s else signal_ p s

def execIrqTimer (p : Nat) (s : State) : Host.Outcome State Fault Refusal := answer (decide (p < 64)) (irqTimer p s)

/-- The host bridge takes the oldest interrupt request. -/
def execIrqAck (s : State) : Host.Outcome State Fault Refusal := .next { s with hq := { s.hq with irqs := s.hq.irqs.drop 1 } }

/-- The 64-byte index record. -/
def indexRecord (s : State) (p : Nat) : List W64 :=
  [sqCons s p 1 ++ sqCons s p 0, sqCons s p 3 ++ sqCons s p 2, pageReg s p 0xAC ++ pageReg s p 0x8C, 0, 0, 0, 0, 0]

def indexWriteback (p : Nat) (s : State) : State :=
  if !s.hq.wbDue.contains p then s
  else
    let s1 := unschedule (fun e => e == .indexWriteback p)
      { s with hq := { s.hq with wbDue := s.hq.wbDue.filter (· != p), wbAt := Tbl.set 0 p (houseNow s).toNat s.hq.wbAt } }
    let w := pageReg s p 0xC0
    if bitB w 0 then hostWrite p 3 (pageReg s p 0xC4 ++ (w &&& 0xFFFF_FFC0#32)) (indexRecord s p) s1 else s1

def execIndexWriteback (p : Nat) (s : State) : Host.Outcome State Fault Refusal := answer (decide (p < 64)) (indexWriteback p s)

end Sys2Proof.Machine
end

