-- ==== Sys2Proof/Machine/Snapshot.lean ====
section
/-! DEFINITION. SNAPSHOT (R293, Table OBS-9): the curtain it needs, the capture, and the write to host memory. -/

namespace Sys2Proof.Machine

/-! ## The buffer (Table OBS-9), in 64-bit words; words of zero are not listed -/

def putWord (k : Nat) (v : W64) (t : Tbl W64) : Tbl W64 := Tbl.set 0#64 k v t

/-- Writes words from word `k` on. -/
def putWords (k : Nat) (l : List W64) (t : Tbl W64) : Tbl W64 := (l.zipIdx).foldl (fun a x => putWord (k + x.2) x.1 a) t

/-- A journal entry in the bits of Table HOM-9: its two words. -/
def journalWords (j : JEntry) : List W64 :=
  let who := if j.type ≤ 4 then 0 else j.who
  let own := j.type ≤ 4
  [j.seq.zeroExtend 32 ++ j.data,
   BitVec.ofNat 64 (j.type * 2 ^ 60 + j.tok.toNat * 2 ^ 59 + j.obj * 2 ^ 46 + j.part * 2 ^ 40 + who * 2 ^ 29
     + (if own then 0 else j.entry) * 2 ^ 15)]

/-- The calls pending in a slot. -/
def arrivalsHeld (s : State) (slot : Nat) : Nat :=
  (s.stirs.filter fun x => match x.2.call with | some c => !c.boot && c.slot == slot | none => false).length
    + (s.hq.hostCall.filter fun h => h.1 == slot).length

/-- The slot's cue held at a root, scheduled, or waiting in a stall. -/
def waitingCue (s : State) (slot : Nat) : Option Cue :=
  match s.tree.held.find? (fun h => h.cue.slot == slot), s.fab.sched.find? (fun x => x.slot == slot),
        s.tree.waves.find? (fun w => w.cue.slot == slot) with
  | some h, _, _ => some h.cue
  | none, some x, _ => some x.cue
  | none, none, some w => some w.cue
  | none, none, none => none

/-- The code of UHK_PART_CTL's STATE. -/
def stateCode : PartState → Nat
  | .free => 0 | .active => 1 | .quiescing => 2 | .quiesced => 3 | .resetting => 4

/-- A slot's record: the four slot words in force, the last of which is the open epoch, then its arrivals and its cue (log 20). -/
def slotWords4 (s : State) (slot : Nat) : List W64 :=
  let x : SnapSlot := { epoch := epochOf s slot, arrivals := arrivalsHeld s slot, cue := waitingCue s slot }
  [reg s (slotKey slot 4) ++ reg s (slotKey slot 0), epochOf s slot ++ reg s (slotKey slot 8), Config.snapSlot x 0, Config.snapSlot x 1]

def tallyWords2 (s : State) (i : Nat) : List W64 :=
  let x := tally s i
  let flags : W32 := BitVec.ofNat 32 (x.compl.toNat * 2 ^ 16 + x.done.toNat * 2 + x.armed.toNat)
  [x.expect ++ x.count, BitVec.ofNat 32 x.flagseen.toNat ++ flags]

/-- Two 32-bit words to a 64-bit one. -/
def pairs32 : List W32 → List W64
  | [] => []
  | [a] => [(0#32) ++ a]
  | a :: b :: t => (b ++ a) :: pairs32 t

/-- `p`'s waiters, one record per link: by object, then in FIFO order. -/
def waiterRecords (s : State) (p : Nat) : List SnapWaiter :=
  let rec_ := fun (tok : Bool) (i : Nat) => (obj s tok i).fifo.map fun f =>
    let w := waiter s f.1
    { stirrup := w.req.src, rid := w.req.rid, space := tok, obj := i, count := w.count, seq := f.2, shadow := w.shadow,
      left := w.deadline.map fun d => (d.toNat - (houseNow s).toNat) / 256 : SnapWaiter }
  (owned s p 0x20 64 8192).flatMap (rec_ false) ++ (owned s p 0x30 32 2048).flatMap (rec_ true)

/-- The waiter records that the section holds. -/
def maxWaiters : Nat := 12800

/-- What the header says. -/
def snapHeader (s : State) (p : Nat) : SnapHead :=
  let n := (waiterRecords s p).length
  { die := dieId s, part := p, house := houseNow s, causes := (part s p).causes, state := stateCode (part s p).state,
    replays := (part s p).replays, written := min maxWaiters n, omitted := n - maxWaiters, trunc := decide (maxWaiters < n) }

/-- The captured state of `p`. STALE is for the manager alone (R245): a tenant's snapshot shows 0 there. -/
def captured (s : State) (p : Nat) (manager : Bool) : Tbl W64 :=
  let t0 := putWords 0 ((List.range 512).map (Config.snapHead (snapHeader s p))) []
  let t1 := (slotsOf s p).foldl (fun a i => putWords (0x200 + 4 * i) (slotWords4 s i) a) t0
  let t2 := (owned s p 0x20 64 8192).foldl (fun a i => putWord (0xA00 + i) (reg s (objCfgKey false i) ++ (obj s false i).val) a) t1
  let t3 := (owned s p 0x30 32 2048).foldl (fun a i => putWord (0x2A00 + i) (reg s (objCfgKey true i) ++ (obj s true i).val) a) t2
  let t4 := (owned s p 0x38 16 1024).foldl (fun a i => putWords (0x3200 + 2 * i) (tallyWords2 s i) a) t3
  let t5 := (List.range 16).foldl (fun a i => if i = 12 ∧ !manager then a else putWord (0x3A00 + i) (counter s p i) a) t4
  let t6 := putWords 0x3C00 ((journal s p).entries.flatMap journalWords) t5
  let t7 := putWords 0x5C00 (pairs32 ((owned s p 0x30 32 2048).flatMap fun i => (obj s true i).tags)) t6
  putWords 0x9C00 (((waiterRecords s p).take maxWaiters).flatMap fun w => [Config.snapWaiter w 0, Config.snapWaiter w 1]) t7

/-! ## The run -/

def snapTarget (x : Desc) : Nat := descTarget x 5 0

def setSnap (y : SnapRun) (s : State) : State :=
  { s with obs := { s.obs with snaps := s.obs.snaps.map fun z => if sameDesc z.x y.x then y else z } }

/-- A cause bit that the snapshot set, cleared again: the request, then its effect 11 TCLK later (R288). -/
def snapClear (p : Nat) (src : CurtainSrc) (s : State) : State :=
  let x := part s p
  let left := x.causes &&& ~~~ (1#6 <<< causeOf src)
  let s1 := setPart p { x with causes := left } s
  if x.causes ≠ 0 ∧ left = 0 then sendCurtain p 1 (causeOf src + 1) s1 else s1

def snapFall (p : Nat) (src : CurtainSrc) (s : State) : State :=
  let x := part s p
  let left := x.curtain &&& (x.causes ||| ~~~ (1#6 <<< causeOf src))
  let s1 := setPart p { x with curtain := left } s
  if x.curtain ≠ 0 ∧ left = 0 then resumePart p (event p 0x03 0 0 s1) else s1

/-- The 128 pages of the buffer, as DMA writes of `x`'s partition. -/
def snapPages (x : Desc) (s : State) : State :=
  let base := descWord x 4 &&& ~~~ 0xFFF#64
  (List.range 128).foldl (fun a i =>
    hostWrite x.part 4 (base + BitVec.ofNat 64 (4096 * i)) ((List.range 512).map fun k => Tbl.get 0#64 a.obs.snapBuf (512 * i + k)) a) s

/-- The request at the head of the queue moves on by one stage; the others wait for the buffer. -/
def snapAdvance (y : SnapRun) (s : State) : State :=
  let p := snapTarget y.x
  let src := descSrc y.x
  let again := Instr.snapshot y.x
  match y.stage with
  | 0 =>
    if (part s p).causes = 0 ∧ !s.cur.die then
      afterT 12 again (setSnap { y with stage := 1, raised := true } (curtainRaise p src false s))
    else afterT 1 again (setSnap { y with stage := 1 } s)
  | 1 =>
    if covered s p then
      (let (f, s1) := takeFree (5 * usTicks) s
       schedule .house ((houseNow s).toNat + f) again (setSnap { y with stage := 2 } s1))
    else if (part s p).causes = 0 ∧ !s.cur.die then afterT 1 again (setSnap { y with stage := 0 } s)
    else afterT 1 again s
  | 2 =>
    if !covered s p then afterT 1 again (setSnap { y with stage := 0 } s)
    else
      let s1 := { s with obs := { s.obs with snapBuf := captured s p (managerRing y.x), snapBad := false }, free := s.free + 1 }
      let s2 := setSnap { y with stage := 3 } s1
      afterT 11 again (if y.raised then snapClear p src s2 else s2)
  | 3 =>
    let s1 := snapPages y.x (if y.raised then snapFall p src s else s)
    let (f, s2) := takeFree 4096 s1
    afterE (1 + f) again (setSnap { y with stage := 4 } s2)
  | _ =>
    let s1 := complete y.x { Done.plain stOk with aux := 524288 } false
      { s with obs := { s.obs with snaps := s.obs.snaps.filter fun z => !sameDesc z.x y.x } }
    match s1.obs.snaps with
    | z :: _ => afterE 1 (.snapshot z.x) s1
    | [] => s1

/-- A SNAPSHOT request joins the queue when it starts. -/
def snapJoin (d : DescState) (s : State) : State :=
  let s1 := { s with obs := { s.obs with snaps := s.obs.snaps ++ [{ x := d.x, raised := false, stage := 0 }] } }
  if s.obs.snaps.isEmpty then afterE 1 (.snapshot d.x) s1 else s1

def runSnapshot (x : Desc) (s : State) : State :=
  match s.obs.snaps with
  | y :: _ => if sameDesc y.x x then snapAdvance y s else runDesc x snapJoin s
  | [] => runDesc x snapJoin s

def execSnapshot (x : Desc) (s : State) : Host.Outcome State Fault Refusal :=
  if !descIs s 8 x then .fault .notThisCommand else answer (descOk x) (runSnapshot x s)

/-! ## Power-down (R270, R326) -/

/-- The captured snapshot that has not been written yet is written. -/
def flushSnap (s : State) : State :=
  match s.obs.snaps.find? fun y => y.stage == 3 with
  | some y => snapPages y.x s
  | none => s

/-- Whether a fetched descriptor's words are still to come. -/
def awaiting (s : State) : Bool := s.hq.descs.any fun d => !d.decoded

/-- Fetching stops everywhere, the captured snapshot is written, fetched descriptors complete with ABORTED. -/
def hostOff (s : State) : State :=
  let s1 := flushSnap { s with hq := { s.hq with off := true } }
  (List.range 64).foldl (fun a p => abortDescs (fun _ => true) p a) s1

/-- Every pending write is issued, and a read follows that orders them. -/
def hostFlush (s : State) : State :=
  let s1 := s.hq.wbDue.foldl (fun a p => indexWriteback p a) s
  let s2 := (List.range 64).foldl (fun a p => issueKept p a) s1
  queueDma [.flush] { s2 with hq := { s2.hq with flushWait := true } }

/-- The mailbox operation POWER_DOWN, step by step: descriptors end, once no descriptor's words are awaited the writes and the read go
out, and when the read has come back the Manager cause rises on every partition and the request is acknowledged (R270, R326). -/
def powerDown (s : State) : State :=
  if s.agenda.any (fun t => t.ev == .powerDown) then s
  else
    let s0 := if s.hq.off then s else hostOff s
    if s0.hq.flushWait && s0.hq.dmaQ.contains .flush then afterE 1 .powerDown s0
    else if s0.hq.flushWait then
      mbFinish 1 ((List.range 64).foldl (fun a p => curtainRaise p .manager false a) { s0 with hq := { s0.hq with flushWait := false } })
    else if awaiting s0 then afterE 1 .powerDown s0
    else
      let (f, s1) := takeFree 80000 (hostFlush s0)
      afterE (1 + f) .powerDown s1

def execPowerDown (s : State) : Host.Outcome State Fault Refusal := .next (powerDown s)

end Sys2Proof.Machine
end

