-- ==== Sys2Proof/Machine/Boot.lean ====
section
/-! DEFINITION. Start-up (13_startup.md): reset, the fuse roster, the prompt book read, checked and staged, the first cue, the
stage-2 switch. -/

namespace Sys2Proof.Machine

abbrev Bytes := List (BitVec 8)

/-! ## The roster of a good-tile map (R299, R309, R320) -/

/-- Logical tiles of a grade; grade 3 is treated as 2 (Table INT-5). -/
def gradeTiles (g : Nat) : Nat := if g = 0 then 1536 else if g = 1 then 1408 else 1280

def goodTiles (good : BitVec 1728) : List Nat := (List.range nStirrup).filter good.getLsbD

/-- The largest grade, not above the fused one, that `n` good tiles allow; none below 1,280. -/
def gradeFor (fused n : Nat) : Option Nat := [0, 1, 2].find? fun g => min fused 2 ≤ g && gradeTiles g ≤ n

/-- The assigned stirrups with their entries: VTILE in ascending order, partition 0, epoch `e`. -/
def rosterOf (good : BitVec 1728) (logical e : Nat) : List (Nat × W32) :=
  ((goodTiles good).take logical).zipIdx.map fun x => (x.1, BitVec.ofNat 32 (2 ^ 31 + x.2 * 2 ^ 16 + e))

/-! ## Reset (R31, R297, R299, R314, R336) -/

/-- Stirrups whose tile is isolated: TILE_ISO is a level that reset does not change. -/
def isolatedStirs (s : State) : List Nat := (s.stirs.filter fun x => x.2.iso).map (·.1)

/-- The engine held in reset. The levels driven from outside, the queue and the counter of free values stay (log 40). -/
def resetAssert (pwrgd : Bool) (s : State) : State :=
  let r := State.reset
  { r with
    clk := { r.clk with mult := s.clk.mult },
    boot := { r.boot with pwrgd := pwrgd },
    pwr := { r.pwr with sleep := s.pwr.sleep, budget := s.pwr.budget },
    fab := { r.fab with reinUp := s.fab.reinUp,
                        ports := (s.fab.ports.filter fun x => x.2.phy).map fun x => (x.1, { FabPort.none with phy := true }) },
    stirs := (isolatedStirs s).map fun st => (st, { Stirrup.initial with iso := true }),
    free := s.free, pending := s.pending }

def execResetAssert (pwrgd : Bool) (s : State) : Host.Outcome State Fault Refusal := .next (resetAssert pwrgd s)

/-- The fuse roster in force. -/
def putFuseRoster (logical : Nat) (s : State) : State :=
  (rosterOf s.boot.fuses.goodMap logical 0).foldl (fun a x =>
    updStir x.1 (fun y => { y with role := x.2 }) (setReg (rosterKey x.1) x.2 a)) s

/-- The flash bus while SPIBUSY is 1 (R303, R322): in 1-1-1, 1-1-2 and 1-2-2 modes SPI_IO[2] and SPI_IO[3] are driven high, in 1-1-4 and
1-4-4 modes they are data lines. SPIMODE is that of the latest read, so a first read counts as 1-1-1 (log 133). -/
def spiPins (s : State) : SpiPins :=
  let side : Pin := if s.boot.spiMode.toNat ≤ 2 then .level true else .data
  if s.boot.spiBusy then { csN := .level false, clk := .clock, io0 := .data, io1 := .data, io2 := side, io3 := side } else .idle

def drivePins (s : State) : State := { s with out := { s.out with spi := spiPins s } }

/-- Stage 0 on the fuses: grade, roster, the good-tile map; the flash is read unless the die is unprovisioned (R299, R311, R320). -/
def stage0 (s : State) : State :=
  let f := s.boot.fuses
  match gradeFor f.grade.toNat (goodTiles f.goodMap).length with
  | none => dieError 18 0 s
  | some g =>
    let unprov := f.keyHash == 0
    drivePins <| putFuseRoster (gradeTiles g)
      { s with boot := { s.boot with
          stage := 1, grade := g, logical := gradeTiles g, unprov := unprov, halted := unprov, spiBusy := !unprov,
          resA := if unprov then 0xA else 0, resB := if unprov then 0xA else 0 } }

/-- TCLK edges from the release to the HREF edge with which frame 0 begins: the first at which a TCLK edge coincides, one in every
frame, or in every HREF cycle where n is a multiple of 5. Its phase to the release is open (R30, R31; log 2). -/
def frameWait (s : State) : Nat :=
  let n := s.clk.mult
  Config.freeNat s.free % (if n % 5 = 0 then n / 5 else n)

/-- The release of UHK_RST_N with UHK_PWRGD asserted: stage 0 (log 40). While UHK_PWRGD is deasserted the engine stays in reset (R297). -/
def resetRelease (f : Fuses) (s : State) : State :=
  if !s.boot.inReset || !s.boot.pwrgd then s
  else
    let s1 := { s with
      boot := { s.boot with inReset := false, fuses := f, good := f.goodMap, trims := f.trim },
      dbg := { s.dbg with disabled := f.debugDis },
      house := { s.house with lead := 1 + frameWait s, fresh := true, len := s.clk.mult },
      free := s.free + 1,
      home := { s.home with bucket := [(0, 256)] } }
    (isolatedStirs s1).foldl (fun a st => isoOn st (updStir st (fun x => { x with iso := false }) a)) (stage0 s1)

def execResetRelease (f : Fuses) (s : State) : Host.Outcome State Fault Refusal := .next (resetRelease f s)

/-! ## Bytes of a copy (R307) -/

def cut (b : Bytes) (off n : Nat) : Bytes := (b.drop off).take n
def leAt (b : Bytes) (off n : Nat) : Nat := bytesNat (cut b off n)

/-- CRC-32 of IEEE 802.3: the reflected polynomial, register and result inverted. -/
def crcBit (c : W32) : W32 := if bitB c 0 then (c >>> 1) ^^^ 0xEDB8_8320#32 else c >>> 1
def crcByte (c : W32) (x : BitVec 8) : W32 :=
  crcBit (crcBit (crcBit (crcBit (crcBit (crcBit (crcBit (crcBit (c ^^^ x.setWidth 32))))))))
def crc32 (b : Bytes) : W32 := ~~~ (b.foldl crcByte 0xFFFF_FFFF#32)

def bodyLen (b : Bytes) : Nat := leAt b 0x08 4
def nrec (b : Bytes) : Nat := leAt b 0x0C 4
def bookSeqOf (b : Bytes) : Nat := leAt b 0x10 4
def bookEnd (b : Bytes) : Nat := 0x100 + bodyLen b
def signedBytes (b : Bytes) : Bytes := cut b 0 0x80 ++ cut b 0xE0 (bookEnd b - 0xE0)

/-- Rows 1 to 4 of Table BOO-6: the code of the first that fails, 0 for none. -/
def rows14 (c : FlashCopy) : Nat :=
  let b := c.bytes
  if !c.complete || decide (b.length < 0x100) then 2
  else if cut b 0 4 ≠ [0x55#8, 0x48#8, 0x4B#8, 0x50#8] ∨ leAt b 4 2 ≠ 1 then 3
  else if bodyLen b % 4 ≠ 0 ∨ bodyLen b < 4 ∨ 0x000F_FF00 < bodyLen b ∨ nrec b = 0 then 4
  else if b.length < bookEnd b then 2
  else if leAt b 0x14 4 ≠ (crc32 (cut b 0x18 (bookEnd b - 0x18))).toNat then 5
  else 0

/-- Rows 5 to 7. -/
def rows57 (s : State) (c : FlashCopy) : Nat :=
  let b := c.bytes
  if Config.sha384 (cut b 0x18 97) ≠ s.boot.fuses.keyHash then 6
  else if !Config.ecdsaHolds (cut b 0x18 97) (signedBytes b) (cut b 0x80 96) then 7
  else if bookSeqOf b < s.boot.fuses.minBook.toNat then 8
  else 0

/-! ## Records (R308, R309, Table BOO-5) -/

/-- The records of a body, and the type at which it stops filling, if it does. -/
def parseRecs : Nat → Bytes → List BookRec × Option Nat
  | 0, [] => ([], none)
  | 0, _ :: _ => ([], some 0)
  | n + 1, b =>
    let t := leAt b 0 2
    let l := leAt b 2 2
    let padded := 4 + (l + 3) / 4 * 4
    if b.length < padded then ([], some t)
    else if (cut b (4 + l) (padded - 4 - l)).any (· != 0) then ([], some t)
    else
      let (rs, e) := parseRecs n (b.drop padded)
      ({ type := t, value := cut b 4 l } :: rs, e)

/-- Items of `w` bytes. -/
def chunks (w : Nat) : Nat → Bytes → List Nat
  | 0, _ => []
  | n + 1, b => if b.isEmpty then [] else bytesNat (b.take w) :: chunks w n (b.drop w)

def items (w : Nat) (b : Bytes) : List Nat := chunks w b.length b

/-- Links of each trim class and the place of its first code (Table INT-5). -/
def trimCount (c : Nat) : Nat :=
  match c with | 0 => 1728 | 1 => 108 | 2 => 18 | 3 => 2 | 4 => 1728 | 5 => 18 | _ => 0
def trimBase (c : Nat) : Nat :=
  match c with | 0 => 0 | 1 => 1728 | 2 => 1836 | 3 => 1854 | 4 => 1856 | _ => 3584

def trimOk (w : Nat) : Bool := decide (w / 2 ^ 12 % 2 ^ 12 < trimCount (w / 2 ^ 24))

/-- The good-tile map without the stirrups that a supplement names. -/
def supplement (good : BitVec 1728) (l : List Nat) : BitVec 1728 := l.foldl (fun a st => a &&& ~~~ (1#1728 <<< st)) good

/-- Whether a word written to a register would carry a reserved encoding. -/
def cleanFor (k : Nat) (v : Nat) : Bool := reservedBits k (BitVec.ofNat 32 v) == 0

/-- A FIELD_SIG item. -/
def fieldSigOk (x : Nat) : Bool :=
  attrOk (x % 2 ^ 16) && decide (x / 2 ^ 16 % 256 ≤ 8) && decide (x / 2 ^ 24 % 256 ≤ 1) && decide (x / 2 ^ 48 = 0)

/-- Whether a record is in order: length, range, reserved encodings (R308). -/
def recOk (s : State) (r : BookRec) : Bool :=
  let v := r.value
  let n := v.length
  match r.type with
  | 1 => decide (4 ≤ n) && n % 4 == 0 && (items 4 v).all trimOk
  | 2 => n % 2 == 0 && (items 2 v).all (fun x => decide (x < nStirrup))
           && decide (1280 ≤ (goodTiles (supplement s.boot.fuses.goodMap (items 2 v))).length)
  | 3 => n == 8 && cleanFor 0x4844 (leAt v 0 1 + 16 * leAt v 1 1) && decide (leAt v 0 1 < 16 ∧ leAt v 1 1 < 16 ∧ leAt v 2 1 < 4)
           && leAt v 3 1 == 0 && cleanFor 0x4848 (leAt v 4 4)
  | 4 => n % 8 == 0 && (items 8 v).all fieldSigOk
  | 5 => n == 4 && decide (leAt v 0 4 ≤ 55)
  | 6 => n == 68 && decide (1 ≤ leAt v 0 4 ∧ leAt v 0 4 ≤ 7)
  | 7 => n == 101
  | 8 => n == 97
  | 9 => n == 8 && cleanFor 0x7004 (leAt v 3 1 + leAt v 4 1 * 2 ^ 16) && decide (leAt v 4 1 < 128) && leAt v 5 3 == 0
  | 10 => decide (10 ≤ n ∧ leAt v 8 2 ≤ 16) && n == 10 + 2 * leAt v 8 2 && cleanFor 0x0100 (leAt v 2 4)
  | t => decide (0x8000 ≤ t)

/-- Whether a record may follow those before it: one instance of each type, one GAIT record of each profile. -/
def recNew (before : List BookRec) (r : BookRec) : Bool :=
  decide (0x8000 ≤ r.type) ||
    before.all fun q => q.type != r.type || (r.type == 6 && leAt q.value 0 4 != leAt r.value 0 4)

/-- The first failing record: its index and type. -/
def badRecord (s : State) (before : List BookRec) : List BookRec → Option (Nat × Nat)
  | [] => none
  | r :: t => if recOk s r && recNew before r then badRecord s (before ++ [r]) t else some (before.length, r.type)

def recordsOf (b : Bytes) : List BookRec × Option Nat := parseRecs (nrec b) (cut b 0x100 (bodyLen b))

/-- Row 8. -/
def row8 (s : State) (b : Bytes) : Option (Nat × Nat) :=
  let (rs, e) := recordsOf b
  match badRecord s [] rs with
  | some x => some x
  | none => e.map fun t => (rs.length, t)

/-! ## Reading and checking (R304 to R306, R310, R311) -/

/-- Microseconds since the release, saturating at 16 bits. -/
def sinceRelease (s : State) : BitVec 16 := BitVec.ofNat 16 (min 0xFFFF (s.clk.eclk / 1000))

/-- The reader has finished a copy. -/
def flashRead (c : FlashCopy) (s : State) : State :=
  let again := s.boot.phase == 3
  if !s.boot.spiBusy || c.copyB != (s.boot.resA != 0) || c.again != again then s
  else
    let b := { s.boot with spiBusy := false, sfdpOk := c.sfdp, spiMode := if c.sfdp then BitVec.ofNat 3 c.spiMode else 0,
                           addr4 := c.sfdp && c.addr4, phase := if again then 4 else 1 }
    schedule .mclk s.clk.mclk (.bookCheck c) (drivePins { s with boot := b })

def flashOk (c : FlashCopy) : Bool := decide (c.spiMode < 5)

def execFlashRead (c : FlashCopy) (s : State) : Host.Outcome State Fault Refusal := answer (flashOk c) (flashRead c s)

/-- A copy fails with a code: copy B is tried after copy A, and after both the die halts. -/
def copyFails (copyB : Bool) (code : Nat) (s : State) : State :=
  let b := { s.boot with phase := 0, sha := none }
  if copyB then { s with boot := { b with resB := BitVec.ofNat 4 code, halted := true, stage := 1 } }
  else drivePins { s with boot := { b with resA := BitVec.ofNat 4 code, spiBusy := true } }

/-- GAIT records stage their profiles: acknowledged WB words. -/
def stageGait (r : BookRec) (s : State) : State :=
  (List.range 16).foldl (fun a i =>
    let k := gaitKey (leAt r.value 0 4) (4 * i)
    let m := wbMask k
    if m = 0 then a
    else { a with staged := Tbl.set noStage k { val := BitVec.ofNat 32 (leAt r.value (4 + 4 * i) 4) &&& m, mask := m, pend := [] } a.staged }) s

/-- An accepted copy is staged; the switch waits for partition 0's apply point (R302). -/
def stageBook (c : FlashCopy) (s : State) : State :=
  let rs := (recordsOf c.bytes).1
  let one : BitVec 4 := 1
  let b := { s.boot with phase := 5, sha := none, resA := if c.copyB then s.boot.resA else one, resB := if c.copyB then one else s.boot.resB,
                         book := some { copyB := c.copyB, seq := BitVec.ofNat 32 (bookSeqOf c.bytes), recs := rs } }
  let s1 := (rs.filter fun r => r.type == 6).foldl (fun a r => stageGait r a) { s with boot := b }
  { s1 with su := { s1.su with dwPending := true, dwWait := setBit64 s1.su.dwWait 0 } }

/-- Row 8, then acceptance. -/
def judgeRecords (c : FlashCopy) (s : State) : State :=
  match row8 s c.bytes with
  | some (i, t) => copyFails c.copyB 9 { s with boot := { s.boot with badIdx := BitVec.ofNat 16 i, badType := BitVec.ofNat 16 t } }
  | none => stageBook c s

/-- The checks in the order of Table BOO-6: rows 1 to 4 as the copy is read; the others within 8 ms; a copy above 768 KiB is read
a second time before its records are taken. -/
def bookCheck (c : FlashCopy) (s : State) : State :=
  match s.boot.phase with
  | 1 =>
    let code := rows14 c
    if code ≠ 0 then copyFails c.copyB code s
    else
      let t1 := if s.boot.stage = 1 then sinceRelease s else s.boot.t1
      let (f, s1) := takeFree (8000 * usTicks) { s with boot := { s.boot with phase := 2, stage := 2, t1 := t1 } }
      schedule .house ((houseNow s).toNat + f) (.bookCheck c) s1
  | 2 =>
    let code := rows57 s c
    if code ≠ 0 then copyFails c.copyB code s
    else if 786432 < bookEnd c.bytes then
      drivePins { s with boot := { s.boot with phase := 3, spiBusy := true, sha := some (Config.sha384 (signedBytes c.bytes)) } }
    else judgeRecords c s
  | 4 =>
    if !c.complete || s.boot.sha != some (Config.sha384 (signedBytes c.bytes)) then copyFails c.copyB 7 s else judgeRecords c s
  | _ => s

def execBookCheck (c : FlashCopy) (s : State) : Host.Outcome State Fault Refusal := answer (flashOk c) (bookCheck c s)

/-! ## Requests of firmware (R301, R311) -/

/-- FIRSTCUE: the decision follows its crossing. -/
def firstcue (s : State) : State :=
  if s.boot.stage = 0 ∨ s.boot.firstDone then mgrAccess 0x040C 0x8000_0000 0x301 s
  else across .mclk .tclk 2 3 (.rootDecision .die 0) { s with boot := { s.boot with firstReq := epochOf s 0 == 0 } }

def execFirstcue (s : State) : Host.Outcome State Fault Refusal := .next (regWrite firstcue s)

def retry (s : State) : State :=
  if !s.boot.halted || s.boot.unprov then s
  else drivePins { s with boot := { s.boot with halted := false, resA := 0, resB := 0, spiBusy := true, phase := 0 } }

def execRetry (s : State) : Host.Outcome State Fault Refusal := .next (regWrite retry s)

/-! ## The stage-2 switch (R302, Table BOO-5) -/

/-- What travels on tree links. -/
def onTree (e : Instr) : Bool :=
  match e with
  | .partialArrival _ _ => true | .freezeOrder _ _ _ _ => true | .idle _ _ _ _ => true | .active _ _ _ _ => true
  | .activeAcknowledgement _ _ _ => true | .rearm _ _ _ _ => true | .cueArrival _ _ => true | .cueDelivery _ _ => true
  | .signalCombining _ _ => true | .homeRsp _ _ => true | .tallyResponse _ _ => true
  | _ => false

/-- The conditions of R136 with every node affected, and a staged book. -/
def switchWaits (s : State) : Bool :=
  let every := (List.range 108).map Place.stall ++ (List.range 18).map Place.barn ++ (List.range 2).map Place.half ++ [Place.die]
  s.boot.book.isSome && s.boot.phase == 5 && s.boot.reduced && s.su.dwPending
    && (s.staged.all fun x => x.2.pend.isEmpty) && (!s.su.dwWait.getLsbD 0 || memberless s 0)
    && !dwPartial s every && !dwCue s && !usBusy s

/-- The links have drained. -/
def linksClear (s : State) : Bool := !(s.agenda.any fun t => t.clk == .tclk && onTree t.ev)

def switchReady (s : State) : Bool := s.boot.draining && switchWaits s && linksClear s

def setTrim (l : List (BitVec 12)) (w : Nat) : List (BitVec 12) :=
  l.set (trimBase (w / 2 ^ 24) + w / 2 ^ 12 % 2 ^ 12) (BitVec.ofNat 12 w)

/-- The rebuilt roster, epoch 1: entries that change are put in force as a roster change is. -/
def putSupplement (l : List Nat) (s : State) : State :=
  let good := supplement s.boot.good l
  match gradeFor s.boot.fuses.grade.toNat (goodTiles good).length with
  | none => s
  | some g =>
    let new := rosterOf good (gradeTiles g) 1
    let word := fun st => (new.lookup st).getD 0
    let s1 := { s with boot := { s.boot with good := good, grade := g, logical := gradeTiles g } }
    ((List.range nStirrup).filter fun st => word st != rosterWord s st).foldl (fun a st =>
      tryRole st (updStir st (fun x => { x with newRole := some (word st) }) (setReg (rosterKey st) (word st) a))) s1

def putFieldSig (x : Nat) (s : State) : State :=
  setAttr (x % 2 ^ 16)
    { stamps := List.replicate (x / 2 ^ 16 % 256) 0, scount := BitVec.ofNat 16 (x / 2 ^ 32), retire := x / 2 ^ 24 % 2 == 1, margined := false } s

def lockBits (s : State) (b : W32) : State := setReg 0x0010 (reg s 0x0010 ||| b) s

/-- A record's word: what the manager has locked keeps its value until UHK_RST_N (R19, R331). -/
def putLocked (k : Nat) (v : W32) (s : State) : State :=
  let m := if bitB (reg s 0x0010) (lockOf k) then rwlMask k else 0
  setReg k ((reg s k &&& m) ||| (v &&& ~~~ m)) s

/-- The FABRIC record: DIEID, the house clock, ASYM and the peers. -/
def putFabric (v : Bytes) (s : State) : State :=
  let s1 := setReg 0x0118 (BitVec.ofNat 32 (leAt v 6 2))
    (setReg 0x0100 (BitVec.ofNat 32 (leAt v 2 4) &&& rwMask 0x0100) (putLocked 0x6018 (BitVec.ofNat 32 (leAt v 0 2)) s))
  let s2 := (List.range (leAt v 8 2)).foldl (fun a i => setReg (0x6040 + 4 * i) (BitVec.ofNat 32 (2 ^ 31 + leAt v (10 + 2 * i) 2)) a) s1
  restartLocking (lockBits s2 0x40)

/-- A record lands where Table BOO-5 says; GAIT has been staged. -/
def putRecord (s : State) (r : BookRec) : State :=
  let v := r.value
  match r.type with
  | 1 => { s with boot := { s.boot with trims := (items 4 v).foldl setTrim s.boot.trims } }
  | 2 => putSupplement (items 2 v) s
  | 3 => setReg 0x4848 (BitVec.ofNat 32 (leAt v 4 4)) (setReg 0x4800 (BitVec.ofNat 32 (leAt v 2 1))
           (setReg 0x4844 (BitVec.ofNat 32 (leAt v 0 1 + 16 * leAt v 1 1)) s))
  | 4 => (items 8 v).foldl (fun a x => putFieldSig x a) s
  | 5 => if leAt v 0 4 = 0 then s else splitAll (leAt v 0 4) s
  | 7 => { s with boot := { s.boot with recipeKey := some (cut v 0 97) }, flt := { s.flt with rcpSeq := BitVec.ofNat 32 (leAt v 97 4) } }
  | 8 => { s with boot := { s.boot with debugKey := some v } }
  | 9 => lockBits (setReg 0x7004 (BitVec.ofNat 32 (leAt v 3 1 + leAt v 4 1 * 2 ^ 16))
           (putLocked 0x7000 (BitVec.ofNat 32 (leAt v 0 2 + leAt v 2 1 * 2 ^ 24)) s)) 0x80
  | 10 => putFabric v s
  | _ => s

/-- The switch: full service, the book's records, then every staged value; what the stirrups held issues in the next TCLK. -/
def stage2Switch (s : State) : State :=
  match s.boot.book with
  | none => s
  | some b =>
    let s1 := { s with boot := { s.boot with
      reduced := false, draining := false, stage := 3, t2 := sinceRelease s, copy := if b.copyB then 2 else 1, bookSeq := b.seq } }
    let s2 := dieWideApply (b.recs.foldl putRecord s1)
    let s3 := (livePartitions s2).foldl (fun a p => applyPoint p a) s2
    (s3.stirs.map (·.1)).foldl (fun a st => wake st a) s3

def execStage2Switch (s : State) : Host.Outcome State Fault Refusal := .next (if switchReady s then stage2Switch s else s)

/-- Whether STAGE reads FABRIC (R312). -/
def fabricUp (s : State) : Bool :=
  s.boot.stage == 3 && (List.range 4).all (fun p => !(fabPort s p).phy || (fabPort s p).up) && s.house.state == .locked

end Sys2Proof.Machine
end

