-- ==== Sys2Proof/Machine/Observe.lean ====
section
/-! DEFINITION. Observation (12_observation.md): reads with an effect, collecting counters (R274, R275), the trace lane (R276,
R280 to R283) and a watchpoint's owner (R284). -/

namespace Sys2Proof.Machine

/-! ## Accesses while the engine is held in reset (R297, R324) -/

/-- A register read that presents `v` and then has the effect `f`; it reads 0, without effect, while the engine is in reset. -/
def regRead (v : W32) (f : State → State) (s : State) : State :=
  if s.boot.inReset then present 0 s else f (present (v.setWidth 64) s)

def lowWord (v : W64) : W32 := v.setWidth 32
def highWord (v : W64) : W32 := (v >>> 32).setWidth 32

/-! ## Reads that latch (R31, R47, R272) -/

/-- What page `p` shows of counter `i`: the frozen value in FROZEN mode, 0 at index 12. -/
def pageCounter (s : State) (p i : Nat) : W64 :=
  if i = 12 then 0 else if (part s p).frozenMode then Tbl.get 0#64 (part s p).bank i else counter s p i

def execPctrLowRead (p i : Nat) (s : State) : Host.Outcome State Fault Refusal :=
  answer (decide (p < 64 ∧ i < 16))
    (regRead (lowWord (pageCounter s p i)) (updPart p fun x => { x with pctrHi := highWord (pageCounter s p i) }) s)

/-- The counter that UHK_CTR_SEL selects. -/
def selCounter (s : State) : W64 :=
  let p := fld s 0x5028 21 16
  let i := fld s 0x5028 3 0
  if bitB (reg s 0x5028) 4 then Tbl.get 0#64 (part s p).bank i else counter s p i

def execCtrDataLowRead (s : State) : Host.Outcome State Fault Refusal :=
  .next (regRead (lowWord (selCounter s)) (fun a => { a with obs := { a.obs with ctrHi := highWord (selCounter s) } }) s)

/-- UHK_HC_TIME_LO, or UHK_PP_HOUSE_LO of a page. -/
def execHcTimeLoRead (page : Option Nat) (s : State) : Host.Outcome State Fault Refusal :=
  let t := houseNow s
  match page with
  | none => .next (regRead (lowWord t) (fun a => { a with house := { a.house with mgrLatch := highWord t } }) s)
  | some p => answer (decide (p < 64)) (regRead (lowWord t) (updPart p fun x => { x with houseHi := highWord t }) s)

/-! ## RC counters (R15, R17) -/

/-- An RC register of the manager window: its value, and the state with `v` in it. -/
def rcManager (s : State) (off : Nat) : Option (W32 × (W32 → State)) :=
  if 0x4A00 ≤ off ∧ off < 0x4A80 ∧ off % 4 = 0 then
    let t := (off - 0x4A00) / 4
    some (Tbl.get 0 s.flt.cnt t, fun v => { s with flt := { s.flt with cnt := Tbl.set 0 t v s.flt.cnt } })
  else if 0x4400 ≤ off ∧ off < 0x4600 ∧ off % 32 = 0x14 then
    let w := (off - 0x4400) / 32
    some (Tbl.get 0 s.obs.wpHits w, fun v => { s with obs := { s.obs with wpHits := Tbl.set 0 w v s.obs.wpHits } })
  else match off with
    | 0x011C => some (s.house.excur, fun v => { s with house := { s.house with excur := v } })
    | 0x4810 => some (s.flt.lost, fun v => { s with flt := { s.flt with lost := v } })
    | 0x5008 => some (s.obs.dropped, fun v => { s with obs := { s.obs with dropped := v } })
    | 0x600C => some (s.fab.late, fun v => { s with fab := { s.fab with late := v } })
    | 0x6010 => some (s.fab.latemax.setWidth 32, fun _ => { s with fab := { s.fab with latemax := s.cyc.latemax } })
    | 0x6014 => some (s.fab.retry, fun v => { s with fab := { s.fab with retry := v } })
    | 0x700C => some (s.pwr.holds, fun v => { s with pwr := { s.pwr with holds := v } })
    | 0x7010 => some (s.pwr.expired, fun v => { s with pwr := { s.pwr with expired := v } })
    | _ => none

/-- The RC register at a path's offset, with the number by which a cycle keeps it. -/
def rcRead (s : State) : Path → Nat → Option (Nat × W32 × (W32 → State))
  | .tile _, _ => none
  | .manager, off => (rcManager s off).map fun x => (off, x)
  | .mgmt, off =>
    if off = 0x1_0014 then some (off, s.flt.expLost, fun v => { s with flt := { s.flt with expLost := v } })
    else (rcManager s off).map fun x => (off, x)
  | .page p, off => if p < 64 ∧ off = 0xB4 then some (0x100000 + p, pageReg s p 0xB4, fun v => setPage p 0xB4 v s) else none

/-- The value a read of an RC register returns, and what it leaves: an increment of the same cycle is not returned and is kept
(R17). -/
def rcTake (s : State) (path : Path) (off : Nat) : Option (W32 × State) :=
  (rcRead s path off).map fun x => ((rcSplit s x.1 x.2.1).1, rcTaken x.1 (x.2.2 (rcSplit s x.1 x.2.1).2))

/-! ## Collecting counters together (R274, R275) -/

/-- UHK_CTR_FRZT. -/
def freezeTime (s : State) : W64 := reg s 0x5024 ++ reg s 0x5020

/-- Writing ARM: a freeze at the edge mapped from FRZT, or in the coming TCLK where that time has passed; without SRC 2 there is
no such freeze edge. -/
def armFreeze (s : State) : State :=
  if fld s 0x5018 31 30 ≠ 2 then s
  else
    let s1 := { s with obs := { s.obs with frzArmed := true } }
    if edgeReached s (freezeTime s) then
      afterT 1 (.freeze none) { s1 with obs := { s1.obs with frzLate := true }, cyc := { s1.cyc with frzLate := true } } else s1

def execFreezeArm (s : State) : Host.Outcome State Fault Refusal := .next (regWrite armFreeze s)

/-- Whether an armed freeze falls in this TCLK. -/
def freezeDue (s : State) : Bool :=
  s.obs.frzArmed && edgeReached s (freezeTime s) && !(s.agenda.any fun t => t.ev == .freeze none)

/-- Bit p of UHK_CTR_MODE. -/
def frozenBit (s : State) (p : Nat) : Bool := bitB (reg s (if p < 32 then 0x5010 else 0x5014)) (p % 32)

/-- The counters copied in the freeze TCLK itself; the home's follow (R275). -/
def freezeSet : List Nat := [0, 1, 2, 3, 4, 12, 13, 14, 15]

def bankCopy (s : State) (p : Nat) (b : Tbl W64) : Tbl W64 := freezeSet.foldl (fun a i => Tbl.set 0#64 i (counter s p i) a) b

/-- One partition's part of a freeze: its mode changes now, and in FROZEN mode its bank is filled. -/
def freezePart (seq : BitVec 8) (p : Nat) (s : State) : State :=
  if frozenBit s p then
    mark p .counters (updPart p (fun x =>
      { x with frozenMode := true, bank := bankCopy s p x.bank, frzSeq := seq, frzTime := houseNow s, frzValid := true })
      { s with obs := { s.obs with frzNow := s.obs.frzNow ++ [p] } })
  else updPart p (fun x => { x with frozenMode := false }) s

/-- A freeze edge; `timed` for one made by house time. -/
def freeze (timed : Bool) (s : State) : State :=
  let seq := s.obs.frzSeq + 1
  let s1 := { s with obs := { s.obs with frzSeq := seq, frzArmed := s.obs.frzArmed && !timed },
                     out := { s.out with ctrFreeze := true, ctrSnap := seq } }
  (livePartitions s1).foldl (fun a p => freezePart seq p a) s1

/-- The freeze TCLK ends: what was counted in it after the freeze is in the bank too (R275). -/
def freezeEnd (s : State) : State :=
  s.obs.frzNow.foldl (fun a p => updPart p (fun x => { x with bank := bankCopy a p x.bank }) a) { s with obs := { s.obs with frzNow := [] } }

def execFreeze (slot : Option Nat) (s : State) : Host.Outcome State Fault Refusal :=
  match slot with
  | some i => answer (decide (i < 512)) (freeze false s)
  | none => .next (freeze true s)

/-! ## Trace (R276, R280 to R283) -/

def execTimebase (s : State) : Host.Outcome State Fault Refusal := .next (traceTimebase s)

/-- A window ends: a LOSS record for each partition that dropped records in it by its share. -/
def windowEnd (s : State) : State :=
  let l := (List.range 64).filter s.obs.winDropped.contains
  let s1 := l.foldl (fun a p => lossRecord p a) s
  { s1 with obs := { s1.obs with winLeft := 0, winStart := (houseNow s).toNat, entered := [], winDropped := [] } }

def execTraceWindowEnd (s : State) : Host.Outcome State Fault Refusal := .next (windowEnd s)

/-- A drop phase ends once occupancy has fallen to 12,288. -/
def dropPhaseEnd (s : State) : State :=
  if !s.obs.dropPhase || decide (12288 < s.obs.spill.length) then s
  else
    let s1 := (List.range 64).foldl (fun a p => lossRecord p a) s
    { s1 with obs := { s1.obs with dropPhase := false } }

def execDropPhaseEnd (s : State) : Host.Outcome State Fault Refusal := .next (dropPhaseEnd s)

/-- The two words of a record, the low one first and marked (R276). -/
def laneWords (r : W128) : List (W64 × Bool) := [(r.setWidth 64, true), ((r >>> 64).setWidth 64, false)]

/-- One place of the lane: the oldest record leaves, or a pair of zero words. -/
def traceOut (s : State) : State :=
  match s.obs.spill with
  | [] => { s with out := { s.out with trace := laneWords 0, traceBad := false } }
  | r :: t =>
    let s1 := { s with out := { s.out with trace := laneWords r.bits, traceBad := r.bad }, obs := { s.obs with spill := t, winLeft := s.obs.winLeft + 1 } }
    let s2 := if s1.obs.dropPhase && decide (t.length ≤ 12288) then afterT 0 .dropPhaseEnd s1 else s1
    if s1.obs.winLeft = 4096 then afterT 0 (.accountingWindow .trace) (afterT 0 .traceWindowEnd s2) else s2

def execTraceOut (s : State) : Host.Outcome State Fault Refusal := .next (traceOut s)

/-- PC sampling runs in SMALL mode with PCEN 1. -/
def sampling (s : State) : Bool := traceMode s == 2 && bitB (reg s 0x5000) 25

/-- Whether a pass visits a tile: assigned, its partition's TRACE_SHARE not 0. -/
def sampled (s : State) (st : Nat) : Bool := wAssigned (rosterWord s st) && (part s (wPart (rosterWord s st))).shareEff != 0

/-- TILE_CURTAIN of a partition's tiles (Table OBS-8, R287). -/
def tileCurtain (s : State) (p : Nat) : Bool := covered s p || (part s p).state == .quiescing || (part s p).state == .quiesced

/-- A tile without a strobe: asleep, or its rail off. -/
def unstrobed (s : State) (st : Nat) : Bool := (stir s st).iso || s.pwr.sleep.getLsbD (barnOfStirrup st)

/-- The state a sample carries: the engine's own where it has one (Table OBS-5). -/
def sampleState (s : State) (st : Nat) (own : BitVec 4) : BitVec 4 :=
  let x := stir s st
  if x.iso then 0xC
  else if s.pwr.sleep.getLsbD (barnOfStirrup st) then 0xB
  else if x.frozen then 0xA
  else if tileCurtain s (stirPart x) then 0x9
  else if x.hold then 0x8
  else own

def pcSample (st : Nat) (pc : BitVec 24) (own : BitVec 4) (s : State) : State :=
  if !sampling s || !sampled s st then s
  else
    let v := if unstrobed s st then (stir s st).lastPc else pc
    let p := wPart (rosterWord s st)
    traceOffer false p (traceWord 3 p (wVtile (rosterWord s st) * 2 ^ 107 + v.toNat * 2 ^ 83 + (sampleState s st own).toNat * 2 ^ 79
      + traceTime (houseNow s))) (updStir st (fun x => { x with lastPc := v }) s)

def execPcSample (st : Nat) (pc : BitVec 24) (tileState : BitVec 4) (s : State) : Host.Outcome State Fault Refusal :=
  answer (decide (st < nStirrup)) (pcSample st pc tileState s)

/-! ## Watchpoint ownership (R284) -/

/-- OWNER and GRANT change at once; EN is cleared in force and staged. -/
def wpOwnerWrite (w : Nat) (v : W32) (s : State) : State :=
  let k := wpKey w 0
  let m : W32 := bitsMask 25 19
  let new := ((reg s k &&& ~~~ m) ||| (v &&& m)) &&& 0x7FFF_FFFF#32
  let g := stagedAt s k
  setStage k { g with val := g.val &&& 0x7FFF_FFFF#32, pend := g.pend.map fun x => (x.1 &&& 0x7FFF_FFFF#32, x.2) } (setReg k new s)

def execWpOwnerWrite (w : Nat) (v : W32) (s : State) : Host.Outcome State Fault Refusal :=
  answer (decide (w < 16)) (regWrite (wpOwnerWrite w v) s)

end Sys2Proof.Machine
end

