-- ==== Sys2Proof/Machine/Regs.lean ====
section
/-! DEFINITION. The register map (14_integration.md): what every register reads, and writes by their access codes with bad
accesses, reserved encodings and locks handled (R13, R14, R18, R19, R324 to R335). -/

namespace Sys2Proof.Machine

/-- A word of fields: (value, lowest bit). -/
def fieldsW (l : List (Nat × Nat)) : W32 := BitVec.ofNat 32 (l.foldl (fun a f => a + f.1 * 2 ^ f.2) 0)

/-! ## Which offsets hold a register (Tables INT-6, INT-7, INT-11) -/

def inSpan (o lo n : Nat) : Bool := decide (lo ≤ o ∧ o < lo + n)

/-- The registers of the manager window. -/
def managerHas (o : Nat) : Bool :=
  o % 4 == 0 &&
  (inSpan o 0x0000 0x14 || inSpan o 0x0020 0x10 || inSpan o 0x0100 0x24 || inSpan o 0x0400 0x14 || inSpan o 0x0800 0x18
    || inSpan o 0x0880 8 || o == 0x0890 || inSpan o 0x0898 8 || inSpan o 0x08C0 0x10 || inSpan o 0x08E0 8
    || inSpan o 0x08F0 0x18 || inSpan o 0x0A00 0xD8 || inSpan o 0x1000 0x3200 || (inSpan o 0x4400 0x200 && o % 32 < 0x18)
    || inSpan o 0x4800 0x18 || inSpan o 0x4820 0x48 || inSpan o 0x4870 8 || inSpan o 0x4880 0x40 || inSpan o 0x4900 0x180
    || inSpan o 0x5000 0xC || inSpan o 0x5010 0x1C || inSpan o 0x5030 8 || inSpan o 0x5040 0x40 || inSpan o 0x5100 0x50
    || inSpan o 0x5180 0x14 || inSpan o 0x6000 0x1C || inSpan o 0x6040 0x40 || inSpan o 0x6100 0x800 || inSpan o 0x7000 0x14
    || inSpan o 0x8000 0x48 || inSpan o 0x8100 8 || inSpan o 0x8200 0x10)

/-- The registers of the mailbox page. -/
def mailboxHas (o : Nat) : Bool :=
  o % 4 == 0 && (inSpan o 0x1_0000 8 || inSpan o 0x1_0010 0xC || inSpan o 0x1_0080 0x60 || inSpan o 0x1_0400 0x400)

/-- The registers of a partition page. -/
def pageHas (o : Nat) : Bool :=
  o % 4 == 0 &&
  ((inSpan o 0 0x80 && o % 32 < 0x14) || inSpan o 0x80 0x14 || inSpan o 0xA0 0x18 || inSpan o 0xC0 8 || inSpan o 0x100 0x14
    || inSpan o 0x118 8 || inSpan o 0x200 0x84 || inSpan o 0x288 8)

/-! ## Indirect ports -/

def rosterSel (s : State) : Nat := fld s 0x0800 10 0

/-- The member word selected; values 54 to 63 of WORD select nothing. -/
def memberSel (s : State) : Option Nat :=
  if fld s 0x0880 5 0 < 54 then some (memberKey (fld s 0x0880 24 16) (fld s 0x0880 5 0)) else none

/-- The object selected: none where INDEX lies outside its SPACE (R165). -/
def objectOf (w : W32) : Option (Bool × Nat) :=
  if bitsN w 31 30 = 1 then (if bitsN w 12 0 < 2048 then some (true, bitsN w 12 0) else none) else some (false, bitsN w 12 0)

def objectSel (s : State) : Option (Bool × Nat) := objectOf (reg s 0x08C0)

/-- In reduced service an access to any object but SEM 0 to 63 is ignored (Table BOO-3). -/
def portGrants (s : State) (x : Bool × Nat) : Bool := !s.boot.reduced || (!x.1 && decide (x.2 < 64))

/-! ## Reads: what a read returns, its effect apart -/

/-- WB fields as staged, the others as in force. -/
def wbRead (s : State) (k : Nat) : W32 := stagedWord s k

/-- MAXWAVE of profile `p` under the roster in force (R126). -/
def maxWave (s : State) (p : Nat) : Nat :=
  let tiles := (List.range nStirrup).filter fun st => wAssigned (rosterWord s st)
  (List.range 16).foldl (fun a w => max a ((tiles.filter fun st => waveOf s p (stallOf st) == w).length)) 0

/-- RAMP and STEP. -/
def gaitBound (s : State) (p : Nat) : W32 :=
  fieldsW [(wavesOf s p * gapOf s p, 16), (min 0xFFFF ((maxWave s p * fld s 0x7000 15 0 + 99) / 100), 0)]

def stageField (s : State) : Nat :=
  if s.boot.halted then 1 else if fabricUp s then 4 else s.boot.stage.toNat

/-- A fault record as Table FLT-10 lays it out. -/
def recordBits (x : FaultRec) : BitVec 256 :=
  BitVec.ofNat 256 ((Config.detailBits x.rep.type x.rep.detail).toNat * 2 ^ 160 + x.rep.unit % 256 * 2 ^ 152
    + x.rep.index % 4096 * 2 ^ 128 + x.rep.house.toNat * 2 ^ 64 + x.seq.toNat * 2 ^ 32 + x.rep.type % 256 * 2 ^ 24
    + x.sev % 4 * 2 ^ 22 + (match x.rep.part with | some p => 2 ^ 21 + p % 64 * 2 ^ 15 | none => 0))

/-- A last-gasp entry (R232). -/
def gaspBits (x : FaultRec) : W128 :=
  BitVec.ofNat 128 (x.rep.type % 256 * 2 ^ 120 + x.rep.unit % 256 * 2 ^ 112 + x.rep.index % 4096 * 2 ^ 100
    + x.rep.house.toNat * 2 ^ 32 + (Config.detailBits x.rep.type x.rep.detail).toNat % 2 ^ 32)

def word32 {w : Nat} (x : BitVec w) (i : Nat) : W32 := (x >>> (32 * i)).setWidth 32

/-- The selected object's words (R165); before a first selection nothing is selected (log 124). -/
def objectWord (s : State) (o : Nat) : W32 :=
  match objectSel s with
  | none => 0
  | some (tok, i) =>
    let g := stagedAt s (objCfgKey tok i)
    let own := if !s.su.objSeen then none else if tok then ownerOf s 0x30 (i / 32) else ownerOf s 0x20 (i / 64)
    match o with
    | 0x08C4 => s.su.objValue
    | 0x08C8 => (s.su.objCfg &&& ~~~ g.mask) ||| (g.val &&& g.mask)
    | _ => fieldsW [(s.su.objBusy.toNat, 31), (own.getD 0, 25), (own.isSome.toNat, 24), (s.su.objWaiters.toNat, 0)]

def goodWord (s : State) (w : Nat) : W32 := word32 s.boot.good w

/-- The words of the identity, clock and boot blocks. -/
def headWord (s : State) (o : Nat) : W32 :=
  match o with
  | 0x0000 => 0x574E_5548
  | 0x0004 => 0x0100_0000
  | 0x0008 => fieldsW [(s.boot.halted.toNat, 9), (s.boot.firstDone.toNat, 8), (stageField s, 0)]
  | 0x000C => fieldsW [(0xF, 28), (1, 27), (s.boot.grade % 4, 25), (s.boot.logical % 2048, 0)]
  | 0x0020 => word32 s.boot.fuses.serial 0
  | 0x0024 => word32 s.boot.fuses.serial 1
  | 0x0028 => word32 s.boot.fuses.serial 2
  | 0x002C => word32 s.boot.fuses.serial 3
  | 0x0104 => fieldsW [(hcCode (hcReported s), 30), (s.house.offset.toNat, 0)]
  | 0x0108 => lowWord (houseNow s)
  | 0x010C => s.house.mgrLatch
  | 0x0110 => 0
  | 0x0114 => 0
  | 0x011C => s.house.excur
  | 0x0120 => fieldsW [(s.house.badLast.toNat, 31), (s.house.nStat % 64, 0)]
  | 0x0400 => fieldsW [(s.boot.copy.toNat, 30), (s.boot.unprov.toNat, 29), (s.boot.sfdpOk.toNat, 28), (s.boot.resA.toNat, 24),
                       (s.boot.resB.toNat, 20), (s.boot.spiMode.toNat, 17), (s.boot.addr4.toNat, 16), (s.boot.spiBusy.toNat, 15)]
  | 0x0404 => s.boot.bookSeq
  | 0x0408 => s.boot.t1 ++ s.boot.t2
  | 0x040C => 0
  | 0x0410 => s.boot.badIdx ++ s.boot.badType
  | _ => reg s o

/-- The words of the roster block. -/
def rosterBlock (s : State) (o : Nat) : W32 :=
  let st := rosterSel s
  let has := decide (st < nStirrup)
  let d := (part s (dirtyPart s)).dirty
  match o with
  | 0x0804 => if has then wbRead s (rosterKey st) else 0
  | 0x0808 => if has then rosterWord s st else 0
  | 0x080C =>
    let row := Tbl.get 0 s.tree.stageErr 0x080C
    fieldsW [((row != 0).toNat, 31), (row, 27), (((List.range nStirrup).filter fun i => wAssigned (rosterWord s i)).length, 0)]
  | 0x0810 => 0
  | 0x0814 => if has then fieldsW [((stir s st).frozen.toNat, 31), ((stir s st).iso.toNat, 30), ((stir s st).cause.toNat, 0)] else 0
  | 0x0884 => (match memberSel s with | some k => wbRead s k | none => 0)
  | 0x0890 => fieldsW [(s.su.dwPending.toNat, 31)]
  | 0x0898 => word32 ((dwMissing s).foldl setBit64 0) 0
  | 0x089C => word32 ((dwMissing s).foldl setBit64 0) 1
  | 0x08C4 => objectWord s o
  | 0x08C8 => objectWord s o
  | 0x08CC => objectWord s o
  | 0x08E4 => fieldsW [(s.su.pcBusy.toNat, 31), (s.su.pcResult.toNat, 28), (s.su.pcCause.toNat, 24)]
  | 0x08F4 => fieldsW [(d.en.toNat, 31), (d.ovf.toNat, 29), (d.log2, 0)]
  | 0x08F8 => d.baseLo
  | 0x08FC => d.baseHi
  | 0x0900 => d.prod.setWidth 32
  | 0x0904 => d.cons.setWidth 32
  | _ => if 0x0A00 ≤ o then goodWord s ((o - 0x0A00) / 4) else reg s o

/-- The words of the partition, slot, gait and watchpoint tables. -/
def tableWord (s : State) (o : Nat) : W32 :=
  if isPartKey o then
    (if o % 64 = 0 then wbRead s o ||| fieldsW [(stateCode (part s ((o - 0x1000) / 64)).state, 29)] else wbRead s o)
  else if isSlotKey o then
    (let slot := (o - 0x2000) / 16
     if o % 16 = 8 then wbRead s o ||| fieldsW [((stageErr s o).toNat, 31), (effRoot s slot, 28)]
     else if o % 16 = 12 then epochOf s slot else wbRead s o)
  else if o < 0x4200 then
    (let p := (o - 0x4000) / 64
     if o % 64 = 0 then wbRead s o ||| fieldsW [((stageErr s o).toNat, 31), (maxWave s p, 12)]
     else if o % 64 = 0x3C then gaitBound s p else wbRead s o)
  else
    (let w := (o - 0x4400) / 32
     if o % 32 = 0 then wbRead s o ||| fieldsW [((stageErr s o).toNat, 18)]
     else if o % 32 = 0x14 then Tbl.get 0 s.obs.wpHits w else wbRead s o)

/-- The words of the fault manager. -/
def faultWord (s : State) (o : Nat) : W32 :=
  let a := attr s (fld s 0x484C 11 0)
  if isVerdKey o then wbRead s o
  else if 0x4A00 ≤ o then Tbl.get 0 s.flt.cnt ((o - 0x4A00) / 4)
  else if 0x4880 ≤ o then (match s.flt.gasp[(o - 0x4880) / 16]? with | some x => word32 (gaspBits x) (o % 16 / 4) | none => 0)
  else if inSpan o 0x4820 0x20 then
    (match s.flt.log.lookup (fld s 0x4814 10 0) with | some x => word32 (recordBits x) ((o - 0x4820) / 4) | none => 0)
  else match o with
    | 0x4804 => fieldsW [(s.flt.dieErr.toNat, 31), (s.flt.logMem.toNat, 30), ((logFull s).toNat, 29), (s.flt.gasp.length, 0)]
    | 0x4808 => s.flt.head.setWidth 32
    | 0x480C => s.flt.tail.setWidth 32
    | 0x4810 => s.flt.lost
    | 0x4840 => s.flt.steps
    | 0x4844 => reg s o ||| fieldsW [(s.flt.mreq.toNat, 31), (s.flt.msrc.toNat, 19)]
    | 0x4850 => fieldsW [(a.retire.toNat, 31), (a.margined.toNat, 30), (stampsIn s a, 26), (a.scount.toNat, 0)]
    | 0x4854 => fieldsW [(s.flt.seedpol, 30), (s.flt.floor, 27), (s.flt.tfrac, 24)]
    | 0x485C => if fld s 0x4858 5 0 < 54 then word32 s.flt.target (fld s 0x4858 5 0) else 0
    | 0x4860 => s.flt.rcpSeq
    | 0x4864 => s.flt.rcpResult.setWidth 32
    | 0x4870 => word32 s.flt.pperr 0
    | 0x4874 => word32 s.flt.pperr 1
    | _ => reg s o

/-- Bit p: p's curtain is up. -/
def curtainsUp (s : State) : W64 :=
  (List.range 64).foldl (fun a p => if (part s p).causes = 0 then a else setBit64 a p) 0

/-- The words of the observation block. -/
def observeWord (s : State) (o : Nat) : W32 :=
  if inSpan o 0x5100 0x50 then word32 (Tbl.get 0#64 s.fab.bytes ((o - 0x5100) / 8)) ((o - 0x5100) / 4 % 2)
  else if inSpan o 0x5040 0x40 then wbRead s o
  else match o with
    | 0x5000 => wbRead s o ||| fieldsW [((stageErr s o).toNat, 26)]
    | 0x5004 => fieldsW [(s.obs.dropPhase.toNat, 31), (s.obs.spill.length, 0)]
    | 0x5008 => s.obs.dropped
    | 0x5018 => reg s o ||| fieldsW [(s.obs.frzArmed.toNat, 28), (s.obs.frzLate.toNat, 27), (s.obs.frzSeq.toNat, 19)]
    | 0x5030 => lowWord (selCounter s)
    | 0x5034 => s.obs.ctrHi
    | 0x5184 => fieldsW [(s.cur.raw.toNat, 31), (s.cur.scanOk.toNat, 30)]
    | 0x5188 => word32 (curtainsUp s) 0
    | 0x518C => word32 (curtainsUp s) 1
    | 0x5190 => reg s o ||| fieldsW [((part s (fld s 0x5190 21 16)).causes.toNat, 0)]
    | _ => reg s o

/-- The words of the fabric, power, test and debug blocks. -/
def tailWord (s : State) (o : Nat) : W32 :=
  if isSpanKey o then
    (let e := (o - 0x6100) / 16
     if o % 16 = 12 then fieldsW [((spanState s e).broken.toNat, 31), ((spanState s e).lastDies % 2 ^ 17, 0)] else wbRead s o)
  else if isUsKey o then
    (let w := reg s o
     let use := bitB w 3
     wbRead s o ||| fieldsW [((stageErr s o).toNat, 31), (use.toNat, 7), (if use then bitsN w 2 0 else 7, 4)])
  else match o with
    | 0x6008 => fieldsW [(s.fab.reinUp.toNat, 31), ((fabPort s 0).up.toNat, 30), ((fabPort s 1).up.toNat, 29), ((fabPort s 2).up.toNat, 28),
                         ((fabPort s 3).up.toNat, 27)]
    | 0x600C => s.fab.late
    | 0x6010 => s.fab.latemax.setWidth 32
    | 0x6014 => s.fab.retry
    | 0x7008 => fieldsW [(s.pwr.budget.toNat, 30), (s.tree.held.length, 0)]
    | 0x700C => s.pwr.holds
    | 0x7010 => s.pwr.expired
    | 0x8104 => fieldsW [(s.bist.busy.toNat, 31), (s.bist.result.toNat, 29), (s.bist.fails.toNat, 0)]
    | 0x8200 => lowWord s.dbg.nonce
    | 0x8204 => highWord s.dbg.nonce
    | 0x8208 => fieldsW [(s.dbg.auth.toNat, 30), (s.dbg.disabled.toNat, 29), (s.dbg.result.toNat, 0)]
    | 0x820C => 0
    | _ => reg s o

/-- The head signature's bytes. -/
def headSignature (s : State) : List (BitVec 8) :=
  match s.flt.exports with
  | [] => []
  | g :: _ => Config.cborSignature [g.dieId, g.serial.toNat, g.house.toNat, g.type, g.unit, g.index, g.steps, g.stamps, g.n, g.budget]

/-- The words of the mailbox page (Table INT-6). -/
def mailboxWord (s : State) (o : Nat) : W32 :=
  if inSpan o 0x1_0080 0x60 then BitVec.ofNat 32 (bytesNat (((headSignature s).drop (o - 0x1_0080)).take 4))
  else match o with
    | 0x1_0004 => fieldsW [(s.su.mbBusy.toNat, 31), (s.su.mbResult.toNat, 0)]
    | 0x1_0010 => fieldsW [(s.flt.exports.length, 8), ((headSignature s).length % 128, 0)]
    | 0x1_0014 => s.flt.expLost
    | 0x1_0018 => 0
    | _ => reg s o

def managerWord (s : State) (o : Nat) : W32 :=
  if !managerHas o then 0
  else if o < 0x0800 then headWord s o
  else if o < 0x1000 then rosterBlock s o
  else if o < 0x4800 then tableWord s o
  else if o < 0x5000 then faultWord s o
  else if o < 0x6000 then observeWord s o
  else tailWord s o

/-- The words of page `p` (Tables HST-1, INT-11, OBS-2). -/
def pageWord (s : State) (p o : Nat) : W32 :=
  let x := part s p
  let ctl := reg s (partKey p 0)
  if !pageHas o then 0
  else if o < 0x100 then pageReg s p o
  else if inSpan o 0x200 0x80 then (if o % 8 = 0 then lowWord (pageCounter s p ((o - 0x200) / 8)) else x.pctrHi)
  else match o with
    | 0x100 => fieldsW [(stateCode x.state, 29), ((x.causes != 0).toNat, 28), (x.causes.toNat, 22), (bitsN ctl 23 23, 21),
                        (bitsN ctl 22 22, 20), (bitsN ctl 21 21, 19)]
    | 0x104 => reg s (partKey p 8)
    | 0x108 => fieldsW [((owned s p 0x20 64 8192).length, 16), ((owned s p 0x18 8 512).length, 0)]
    | 0x10C => fieldsW [((owned s p 0x30 32 2048).length, 16), ((owned s p 0x38 16 1024).length, 0)]
    | 0x110 => fieldsW [((granted s p).length, 0)]
    | 0x118 => lowWord (houseNow s)
    | 0x11C => x.houseHi
    | 0x280 => fieldsW [(x.frzSeq.toNat, 24), (x.frzValid.toNat, 0)]
    | 0x288 => word32 x.frzTime 0
    | 0x28C => word32 x.frzTime 1
    | _ => 0

/-- What a read of a 32-bit word returns on each path; 0 while the engine is held in reset (R297, R324). -/
def readWord (s : State) (path : Path) (o : Nat) : W32 :=
  match path with
  | .tile st => readWindow s st o
  | .manager => if s.boot.inReset then 0 else managerWord s o
  | .mgmt => if s.boot.inReset then 0 else if o < 0x1_0000 then managerWord s o else if mailboxHas o then mailboxWord s o else 0
  | .page p => if s.boot.inReset then 0 else pageWord s p o

/-! ## Reads with a size (R13, R15, R17, R324) -/

/-- The cause code of a bad size or alignment in a manager-access record (log 8). -/
def causeSize : Nat := 13

/-- Naturally aligned, of 32 or 64 bits. -/
def aligned (off size : Nat) : Bool := (size == 4 || size == 8) && off % size == 0

def pathOk (path : Path) (off : Nat) : Bool :=
  match path with
  | .tile st => decide (st < nStirrup ∧ off < 64)
  | .manager => decide (off < 0x1_0000)
  | .mgmt => decide (off < 0x2_0000)
  | .page p => decide (p < 64 ∧ off < 0x1000)

/-- The word a read of offset `o` returns and what it leaves: an RC register is cleared (R17), a low word latches its high word (R31,
R47, R272), a nonce is drawn (R251), and an offset of a page that holds no register is counted (R335). -/
def readStep (path : Path) (o : Nat) (s : State) : W32 × State :=
  match rcTake s path o with
  | some x => x
  | none =>
    (readWord s path o, match path with
      | .tile st =>
        if o = 0x18 then updStir st (fun x => { x with posterr := false }) s
        else if o = 0x38 then updStir st (fun x => { x with houseHi := highWord (houseNow s) }) s
        else s
      | .page p =>
        if !pageHas o then ppErr p s
        else if o = 0x118 then updPart p (fun x => { x with houseHi := highWord (houseNow s) }) s
        else if inSpan o 0x200 0x80 ∧ o % 8 = 0 then
          updPart p (fun x => { x with pctrHi := highWord (pageCounter s p ((o - 0x200) / 8)) }) s
        else s
      | _ =>
        if o = 0x108 then { s with house := { s.house with mgrLatch := highWord (houseNow s) } }
        else if o = 0x5030 then { s with obs := { s.obs with ctrHi := highWord (selCounter s) } }
        else if o = 0x8200 then nonceRead s
        else s)

/-- The words of a read, the low one first. -/
def readWords (path : Path) (off size : Nat) (s : State) : State :=
  let a := readStep path off s
  if size = 8 then
    let b := readStep path (off + 4) a.2
    present (b.1 ++ a.1) b.2
  else present (a.1.setWidth 64) a.2

/-- A read of another size or alignment returns zero: recorded in the manager window, counted on a page (R13, R335). -/
def badRead (path : Path) (off : Nat) (s : State) : State :=
  present 0 (match path with
    | .tile _ => s
    | .page p => ppErr p s
    | _ => mgrAccess off 0 causeSize s)

/-- A register read (R13, R15, R17, R43): zero, without effect, while the engine is in reset (R297, R324); a stirrup is read in words. -/
def registerRead (path : Path) (off size : Nat) (s : State) : State :=
  match path with
  | .tile _ => if size = 4 ∧ off % 4 = 0 then readWords path off 4 s else present 0 s
  | _ => if s.boot.inReset then present 0 s else if aligned off size then readWords path off size s else badRead path off s

def execRcCounterRead (path : Path) (off size : Nat) (s : State) : Host.Outcome State Fault Refusal :=
  answer (pathOk path off) (registerRead path off size s)

end Sys2Proof.Machine
end

