-- ==== Sys2Proof/Machine/Writes.lean ====
section
/-! DEFINITION. Register writes: the ports with acts of their own, and REGISTER_WRITE over the whole map (R13 to R19, R324 to
R335). -/

namespace Sys2Proof.Machine

/-! ## The access codes (R14, R15, R18, R19) -/

def causeReserved : Nat := 14
def causeLocked : Nat := 19
def causeOffset : Nat := 0x328
def causePort : Nat := 0x165
def causeBusy : Nat := 0x238

/-- The bits a write may put in force at once: RW, and RWL while unlocked or repeated, without reserved encodings. -/
def directMask (s : State) (k : Nat) (v : W32) : W32 :=
  let rwl := rwlMask k
  let open_ := !bitB (reg s 0x0010) (lockOf k)
  (rwMask k ||| (if open_ then rwl else 0)) &&& ~~~ reservedBits k v

/-- Whether a write would change a locked field. -/
def lockedChange (s : State) (k : Nat) (v : W32) : Bool :=
  rwlMask k != 0 && bitB (reg s 0x0010) (lockOf k) && (v ^^^ reg s k) &&& rwlMask k != 0

/-- A write, at offset `off`, of word `k` by its access codes. -/
def writeWord (off k : Nat) (v : W32) (s : State) : State :=
  let bad := reservedBits k v
  let m := directMask s k v
  let s1 := if bad = 0 then s else mgrAccess off v.toNat causeReserved s
  let s2 := if lockedChange s k v then mgrAccess off v.toNat causeLocked s1 else s1
  let s3 := if m = 0 then s2 else setReg k ((reg s k &&& ~~~ m) ||| (v &&& m)) s2
  stageWord k v (~~~ bad) s3

/-- A word that stands at its own offset. -/
def writeFields (k : Nat) (v : W32) (s : State) : State := writeWord k k v s

/-! ## Lock bits (R331) -/

/-- A lock bit once set stays set. -/
def lockWrite (v : W32) (s : State) : State :=
  let cur := reg s 0x0010
  let s1 := if cur &&& ~~~ v &&& rwlMask 0x0010 = 0 then s else mgrAccess 0x0010 v.toNat causeLocked s
  setReg 0x0010 (cur ||| (v &&& rwlMask 0x0010)) s1

def execLockWrite (v : W32) (s : State) : Host.Outcome State Fault Refusal := .next (regWrite (lockWrite v) s)

/-! ## The house clock (R31, R205) -/

def hcSeedWrite (hi : W32) (s : State) : State :=
  if hcSrc s = 0 then seedHouse hi s else mgrAccess 0x0114 hi.toNat 0x031 s

def execHcSeedWrite (hi : W32) (s : State) : Host.Outcome State Fault Refusal := .next (regWrite (hcSeedWrite hi) s)

/-- A write of UHK_HC_CTL; a reference that ceases to be one no longer carries the fabric spans (R206). -/
def hcCtlWrite (v : W32) (s : State) : State :=
  let t := restartLocking (writeFields 0x0100 v s)
  if clockHolds s && !clockHolds t then clockLost t else t

def execHcCtlWrite (v : W32) (s : State) : Host.Outcome State Fault Refusal := .next (regWrite (hcCtlWrite v) s)

/-! ## The roster port and thaws (R332, R334) -/

/-- An entry is staged; a number of 1,728 or more selects nothing. -/
def rosterStage (st : Nat) (v : W32) (s : State) : State :=
  if st < nStirrup then writeWord 0x0804 (rosterKey st) v s else s

def execRosterStage (st : Nat) (v : W32) (s : State) : Host.Outcome State Fault Refusal :=
  answer (decide (st < 2048)) (regWrite (rosterStage st v) s)

/-- A thaw takes effect 2 MCLK + 3 TCLK after the write. -/
def thawWrite (v : W32) (s : State) : State :=
  let st := bitsN v 10 0
  if st < nStirrup then schedule .tclk (mclkThen s 2 3) (.thaw st) s else s

/-! ## The object port (R165) -/

/-- A set-up access on its way to its home. -/
def setupRequest (tok : Bool) (i : Nat) (op : BitVec 5) (v : W32) (s : State) : State :=
  let r : HomeReq :=
    { tok := tok, obj := i, op := op, nohold := false, rid := 0, src := srcSetup, merged := false, mlevel := false, mrec := 0,
      poll := false, part := 0, pay := v.setWidth 128, leftT := s.clk.tclk, ring := 0, didx := 0, sub := 0, word := 0 }
  let (d, s1) := crossDue s .mclk .eclk 2 3
  schedule .eclk d .homeReqEntry
    { s1 with su := { s1.su with objBusy := true },
              home := { s1.home with crossing := s1.home.crossing ++ [{ due := d, req := r, entry := none }] } }

/-- The selection a write of UHK_OBJ_SEL makes: a reserved SPACE keeps its value. -/
def selAfter (s : State) (v : W32) : W32 :=
  let m := directMask s 0x08C0 v
  (reg s 0x08C0 &&& ~~~ m) ||| (v &&& m)

/-- A write of UHK_OBJ_SEL fetches the object selected. -/
def objSelWrite (v : W32) (s : State) : State :=
  let sel := { s with su := { s.su with objSeen := true } }
  if s.su.objBusy then mgrAccess 0x08C0 v.toNat causePort s
  else match objectOf (selAfter s v) with
    | none => writeFields 0x08C0 v sel
    | some x =>
      if !portGrants s x then mgrAccess 0x08C0 v.toNat causePort s
      else setupRequest x.1 x.2 (if x.1 then 0x16 else 4) 0 (writeFields 0x08C0 v sel)

def execObjSelWrite (v : W32) (s : State) : Host.Outcome State Fault Refusal := .next (regWrite (objSelWrite v) s)

/-- A write of UHK_OBJ_VALUE sets V or C at the home. -/
def objValueWrite (v : W32) (s : State) : State :=
  match objectSel s with
  | none => mgrAccess 0x08C4 v.toNat causePort s
  | some (tok, i) =>
    if s.su.objBusy || !portGrants s (tok, i) || (tok && tagged s i) then mgrAccess 0x08C4 v.toNat causePort s
    else setupRequest tok i 5 v s

def execObjValueWrite (v : W32) (s : State) : Host.Outcome State Fault Refusal := .next (regWrite (objValueWrite v) s)

/-- A write of UHK_OBJ_CFG stages the selected object's configuration word. -/
def objCfgWrite (v : W32) (s : State) : State :=
  match objectSel s with
  | none => mgrAccess 0x08C8 v.toNat causePort s
  | some (tok, i) =>
    if s.su.objBusy || !portGrants s (tok, i) then mgrAccess 0x08C8 v.toNat causePort s else writeWord 0x08C8 (objCfgKey tok i) v s

/-- The result crosses back: the port's values are loaded, and BUSY clears. -/
def objBusyClear (value cfg : W32) (waiters : Nat) (s : State) : State :=
  { s with su := { s.su with objValue := value, objCfg := cfg, objWaiters := BitVec.ofNat 16 waiters, objBusy := false } }

def execObjBusyClear (value cfg : W32) (waiters : Nat) (s : State) : Host.Outcome State Fault Refusal :=
  .next (objBusyClear value cfg waiters s)

/-! ## Partition commands (R238) -/

/-- The command a GO starts: its row, which acts after the crossing; none for a reserved CMD or a SPLIT argument not valid. -/
def partCommand (w : W32) : Option Instr :=
  let p := bitsN w 5 0
  let k := bitsN w 13 8
  match bitsN w 30 27 with
  | 1 => some (.create p)
  | 2 => some (.destroy p)
  | 3 => some (.reset p)
  | 4 => some (.revoke p)
  | 5 => some (.resume p)
  | 6 => if k = 0 ∨ 55 < k then none else some (.split k)
  | _ => none

def partCmdWrite (v : W32) (s : State) : State :=
  if s.su.pcBusy then mgrAccess 0x08E0 v.toNat causeBusy s
  else
    let s1 := writeFields 0x08E0 v s
    if !bitB v 31 then s1
    else if s1.boot.reduced then reject 1 s1
    else if reservedBits 0x08E0 v ≠ 0 then reject 4 s1
    else match partCommand (reg s1 0x08E0) with
      | none => reject 4 s1
      | some c => across .mclk .tclk 2 3 c (cmdBusy s1)

/-! ## The dirty-page log (Table PAR-8) -/

def updDirty (f : Dirty → Dirty) (s : State) : State := updPart (dirtyPart s) (fun x => { x with dirty := f x.dirty }) s

def dirtyCtlWrite (v : W32) (s : State) : State :=
  let bad := reservedBits 0x08F4 v
  let s1 := if bad = 0 then s else mgrAccess 0x08F4 v.toNat causeReserved s
  let s2 := updDirty (fun d => { d with en := bitB v 31, log2 := if bad = 0 then bitsN v 4 0 else d.log2 }) s1
  if bitB v 30 then dirtyClear s2 else s2

/-! ## The curtain port (Table OBS-10, R252, R289) -/

/-- The request of a word of UHK_CUR_CTL. -/
def curtainOf (w : W32) : Instr :=
  let p := bitsN w 5 0
  if bitB w 28 then .dieCurtain (bitsN w 30 29) (bitB w 27)
  else match bitsN w 30 29 with
    | 0 => .curtainRaise p .manager false
    | 1 => .curtainLift p .manager false
    | _ => .curtainLiftAbort p .manager false

def curCtlWrite (v : W32) (s : State) : State :=
  let s1 := writeFields 0x5180 v s
  if bitB v 31 then across .mclk .tclk 1 2 (curtainOf (reg s1 0x5180)) s1 else s1

/-- Whether a curtain request is one that AUTH allows and R289 does not refuse. -/
def curtainAllowed (s : State) (w : W32) : Bool :=
  if bitB w 28 then authDie s
  else bitsN w 30 29 != 2 || (part s (bitsN w 5 0)).causes == 0 || entitled s (bitsN w 5 0) .manager

/-! ## The mailbox (R325, R326) -/

/-- The first `n` bytes of the message. -/
def messageBytes (s : State) (n : Nat) : List (BitVec 8) :=
  (List.range n).map fun i => ((reg s (0x1_0400 + 4 * (i / 4))) >>> (8 * (i % 4))).setWidth 8

/-- An operation that ends, in a free MCLK within `n` of them, as the row `c`. -/
def mailboxRun (n : Nat) (c : Instr) (s : State) : State :=
  let (f, s1) := takeFree n { s with su := { s.su with mbBusy := true } }
  schedule .mclk (s1.clk.mclk + 1 + f) c s1

/-- GO: RESULT 0x4 for a reserved OP, 0x3 for LEN out of range, else the operation. -/
def mailboxGo (s : State) : State :=
  let w := reg s 0x1_0000
  let n := bitsN w 10 0
  let op := bitsN w 27 24
  let curtain := (reg s 0x1_0400) ||| 0x8000_0000#32
  if op = 0 ∨ 4 < op then mbFinish 4 s
  else if 1024 < n ∨ (op = 2 ∧ 512 < n) ∨ (op = 4 ∧ n ≠ 4) then mbFinish 3 s
  else match op with
    | 1 => mailboxRun 1999999 (.recipe (messageBytes s n)) s
    | 2 => mailboxRun 1999999 (.debugToken (messageBytes s n)) s
    | 3 => mailboxRun 1000 .powerDown s
    | _ => mbFinish (if curtainAllowed s curtain then 1 else 2) (curCtlWrite curtain s)

def mailboxCmdWrite (v : W32) (s : State) : State :=
  let s1 := writeFields 0x1_0000 v s
  if !bitB v 31 then s1 else if s.su.mbBusy then mgrAccess 0x1_0000 v.toNat causeBusy s1 else mailboxGo s1

/-- A message word; while an operation reads the buffer it is ignored and logged. -/
def messageWrite (o : Nat) (v : W32) (s : State) : State :=
  if s.su.mbBusy then mgrAccess o v.toNat causeBusy s else setReg o v s

/-! ## Further ports -/

/-- UHK_WP_CTL: a write that changes OWNER or GRANT also clears EN (R284). -/
def wpCtlWrite (k : Nat) (v : W32) (s : State) : State :=
  let s1 := writeFields k v s
  if (v ^^^ reg s k) &&& bitsMask 25 19 = 0 then s1 else wpOwnerWrite ((k - 0x4400) / 32) v s1

/-- UHK_REIN_PEER: a peer whose VALID is cleared is lost to the spans that name it; a rewrite ends its being cut off (R208,
Table PAR-7). -/
def peerWrite (o : Nat) (v : W32) (s : State) : State :=
  let port := 8 + (o - 0x6040) / 4
  let was := bitB (reg s o) 31
  let s1 := writeFields o v s
  let x := fabPort s1 port
  let s2 := setFabPort port { x with cut := false, bads := [], lost := x.lost && was, lastRx := (houseNow s).toNat } s1
  if was && !bitB v 31 && !(spansOn s port).isEmpty then portLost port s2 else s2

/-- A write of UHK_PP_ERR clears the bits written 1; a bit set in the same cycle stays set (R16). -/
def clearPpErr (v : W64) (s : State) : State :=
  { s with flt := { s.flt with pperr := (s.flt.pperr &&& ~~~ v) ||| s.cyc.pperr } }

/-- A write of a word of the manager window. -/
def writeManager (o : Nat) (v : W32) (s : State) : State :=
  if !managerHas o then mgrAccess o v.toNat causeOffset s
  else if inSpan o 0x4400 0x200 ∧ o % 32 = 0 then wpCtlWrite o v s
  else if inSpan o 0x6040 0x40 then peerWrite o v s
  else match o with
    | 0x0010 => lockWrite v s
    | 0x0100 => hcCtlWrite v s
    | 0x0110 => { s with house := { s.house with seedLo := v } }
    | 0x0114 => hcSeedWrite v s
    | 0x040C =>
      let s1 := if bitB v 31 then firstcue s else s
      if bitB v 30 then retry s1 else s1
    | 0x0804 => rosterStage (rosterSel s) v s
    | 0x0810 => thawWrite v s
    | 0x0884 => (match memberSel s with | some k => writeWord 0x0884 k v s | none => s)
    | 0x0890 => if bitB v 30 then cancelDw s else s
    | 0x08C0 => objSelWrite v s
    | 0x08C4 => objValueWrite v s
    | 0x08C8 => objCfgWrite v s
    | 0x08E0 => partCmdWrite v s
    | 0x08F4 => dirtyCtlWrite v s
    | 0x08F8 => updDirty (fun d => { d with baseLo := v }) s
    | 0x08FC => updDirty (fun d => { d with baseHi := v }) s
    | 0x0904 => updDirty (fun d => { d with cons := v.setWidth 16, full := false }) s
    | 0x4800 =>
      let s1 := writeFields o v s
      if bitB v 31 then { s1 with flt := { s1.flt with gasp := [] } } else s1
    | 0x480C => fltTailWrite v s
    | 0x4844 =>
      let s1 := rejudge (writeFields o v) s
      if bitB v 31 then { s1 with flt := { s1.flt with mreq := s1.cyc.mreq } } else s1
    | 0x4848 => rejudge (writeFields o v) s
    | 0x484C =>
      let s1 := writeFields o v s
      if bitB v 31 then attrClear (fld s1 0x484C 11 0) s1 else s1
    | 0x4870 => clearPpErr ((0#32) ++ v) s
    | 0x4874 => clearPpErr (v ++ (0#32)) s
    | 0x5018 =>
      let s1 := writeFields o v s
      let s2 := if bitB v 27 then { s1 with obs := { s1.obs with frzLate := s1.cyc.frzLate } } else s1
      if bitB v 29 then armFreeze s2 else s2
    | 0x5180 => curCtlWrite v s
    | 0x5184 => if bitB v 29 then scan s else s
    | 0x8100 =>
      let s1 := writeFields o v s
      if bitB v 31 then bistStart (fld s1 0x8100 18 16) (fld s1 0x8100 7 0) s1 else s1
    | 0x820C => if bitB v 31 then endAuth s else s
    | _ => writeFields o v s

/-- A write of a word of the mailbox page. -/
def writeMailbox (o : Nat) (v : W32) (s : State) : State :=
  if !mailboxHas o then mgrAccess o v.toNat causeOffset s
  else if inSpan o 0x1_0400 0x400 then messageWrite o v s
  else if o = 0x1_0000 then mailboxCmdWrite v s
  else if o = 0x1_0018 ∧ bitB v 31 then exportPop s
  else s

/-! ## Partition pages (R254, R335, Table HST-1) -/

/-- A base word of a ring whose control word stands at `ctl`: ignored while EN is 1. -/
def ringBaseWrite (p ctl o : Nat) (v : W32) (s : State) : State :=
  if ringEn (pageReg s p ctl) then ppErr p s else setPage p o v s

def writeRing (p q o : Nat) (v : W32) (s : State) : State :=
  match o with
  | 0x0 => ringBaseWrite p (sqOff q 8) (sqOff q 0) (v &&& 0xFFFF_F000) s
  | 0x4 => ringBaseWrite p (sqOff q 8) (sqOff q 4) v s
  | 0x8 => writeSqCtl p q v s
  | 0xC => doorbell p q v s
  | _ => s

/-- A write of a word of page `p`. -/
def writePage (p o : Nat) (v : W32) (s : State) : State :=
  if !pageHas o then ppErr p s
  else if o < 0x80 then writeRing p (o / 32) (o % 32) v s
  else match o with
    | 0x80 => ringBaseWrite p 0x88 0x80 (v &&& 0xFFFF_F000) s
    | 0x84 => ringBaseWrite p 0x88 0x84 v s
    | 0x88 => writeOutCtl p 0x88 v s
    | 0x90 => setPage p 0x90 v s
    | 0xA0 => ringBaseWrite p 0xA8 0xA0 (v &&& 0xFFFF_F000) s
    | 0xA4 => ringBaseWrite p 0xA8 0xA4 v s
    | 0xA8 => writeOutCtl p 0xA8 v s
    | 0xB0 => setPage p 0xB0 v s
    | 0xC0 => setPage p 0xC0 (v &&& 0xFFFF_FFC1) s
    | 0xC4 => setPage p 0xC4 v s
    | _ => s

/-! ## The sync window (R43, Table STR-1) -/

def writeTile (st o : Nat) (v : W32) (s : State) : State :=
  match o with
  | 0x00 => writePay st 0 v s
  | 0x04 => writePay st 1 v s
  | 0x08 => writePay st 2 v s
  | 0x0C => writePay st 3 v s
  | 0x10 => updStir st (fun x => { x with tag := v.setWidth 20 }) s
  | 0x14 => writeCmd st v s
  | _ => s

/-! ## REGISTER_WRITE (R13, R15, R43, R324) -/

/-- The words of an access, by their offsets. -/
def eachWord (f : Nat → W32 → State → State) (off size : Nat) (v : W64) (s : State) : State :=
  if size = 8 then f (off + 4) (highWord v) (f off (lowWord v) s) else f off (lowWord v) s

def writeMgmt (o : Nat) (v : W32) (s : State) : State := if o < 0x1_0000 then writeManager o v s else writeMailbox o v s

def registerWrite (path : Path) (off size : Nat) (v : W64) (s : State) : State :=
  match path with
  | .tile st => if size = 4 ∧ off % 4 = 0 then writeTile st off (lowWord v) s else s
  | .manager => regWrite (fun a => if aligned off size then eachWord writeManager off size v a else mgrAccess off v.toNat causeSize a) s
  | .mgmt => regWrite (fun a => if aligned off size then eachWord writeMgmt off size v a else mgrAccess off v.toNat causeSize a) s
  | .page p => regWrite (fun a => if aligned off size then eachWord (writePage p) off size v a else ppErr p a) s

def execRegisterWrite (path : Path) (off size : Nat) (v : W64) (s : State) : Host.Outcome State Fault Refusal :=
  answer (pathOk path off) (registerWrite path off size v s)

end Sys2Proof.Machine
end

