-- ==== Sys2Proof/Machine/Dispatch.lean ====
section
/-! DEFINITION. The dispatch: one arm for each command. -/

namespace Sys2Proof.Machine

/-- The effect of a command on everything but the queue. -/
def exec (i : Instr) (s : State) : Host.Outcome State Fault Refusal :=
  match i with
  | .call st w => Sys2Proof.Machine.execCall st w s
  | .signal x => Sys2Proof.Machine.execSignal x s
  | .wait x => Sys2Proof.Machine.execWait x s
  | .trywait x => Sys2Proof.Machine.execTrywait x s
  | .waitTo x => Sys2Proof.Machine.execWaitTo x s
  | .semRead x => Sys2Proof.Machine.execSemRead x s
  | .set x => Sys2Proof.Machine.execSet x s
  | .fetchAdd x => Sys2Proof.Machine.execFetchAdd x s
  | .cas x => Sys2Proof.Machine.execCas x s
  | .fetchMax x => Sys2Proof.Machine.execFetchMax x s
  | .fetchOr x => Sys2Proof.Machine.execFetchOr x s
  | .post x => Sys2Proof.Machine.execPost x s
  | .acquire x => Sys2Proof.Machine.execAcquire x s
  | .tryacquire x => Sys2Proof.Machine.execTryacquire x s
  | .acquirePri x => Sys2Proof.Machine.execAcquirePri x s
  | .acquirePriForward r entry => Sys2Proof.Machine.execAcquirePriForward r entry s
  | .postTag x => Sys2Proof.Machine.execPostTag x s
  | .acquireTag x => Sys2Proof.Machine.execAcquireTag x s
  | .level x => Sys2Proof.Machine.execLevel x s
  | .arm st w => Sys2Proof.Machine.execArm st w s
  | .flagPost st w => Sys2Proof.Machine.execFlagPost st w s
  | .tallyRead st w => Sys2Proof.Machine.execTallyRead st w s
  | .fence st w => Sys2Proof.Machine.execFence st w s
  | .abstain x => Sys2Proof.Machine.execAbstain x s
  | .rejoin x => Sys2Proof.Machine.execRejoin x s
  | .ctrlCurtain x => Sys2Proof.Machine.execCtrlCurtain x s
  | .mark x => Sys2Proof.Machine.execMark x s
  | .queuedCommandIssue st => Sys2Proof.Machine.execQueuedCommandIssue st s
  | .payloadCommit st v => Sys2Proof.Machine.execPayloadCommit st v s
  | .stirStatRead st => Sys2Proof.Machine.execStirStatRead st s
  | .houseLoRead st => Sys2Proof.Machine.execHouseLoRead st s
  | .remoteWriteReport st scope => Sys2Proof.Machine.execRemoteWriteReport st scope s
  | .landAck st scope effect => Sys2Proof.Machine.execLandAck st scope effect s
  | .partialArrival at0 pkt => Sys2Proof.Machine.execPartialArrival at0 pkt s
  | .freezeOrder st cause fromT w => Sys2Proof.Machine.execFreezeOrder st cause fromT w s
  | .rootDecision at0 slot => Sys2Proof.Machine.execRootDecision at0 slot s
  | .emptyBoundaryApply p => Sys2Proof.Machine.execEmptyBoundaryApply p s
  | .wbAcknowledge key => Sys2Proof.Machine.execWbAcknowledge key s
  | .dieWideApply => Sys2Proof.Machine.execDieWideApply s
  | .roleStampWrite st => Sys2Proof.Machine.execRoleStampWrite st s
  | .idle at0 slot child gen => Sys2Proof.Machine.execIdle at0 slot child gen s
  | .active at0 slot child gen => Sys2Proof.Machine.execActive at0 slot child gen s
  | .activeAcknowledgement at0 slot epoch => Sys2Proof.Machine.execActiveAcknowledgement at0 slot epoch s
  | .rearm at0 slot gen stalls => Sys2Proof.Machine.execRearm at0 slot gen stalls s
  | .cueArrival at0 c => Sys2Proof.Machine.execCueArrival at0 c s
  | .waveRelease stall c => Sys2Proof.Machine.execWaveRelease stall c s
  | .cueDelivery st c => Sys2Proof.Machine.execCueDelivery st c s
  | .auditPush p draw => Sys2Proof.Machine.execAuditPush p draw s
  | .signalCombining at0 r => Sys2Proof.Machine.execSignalCombining at0 r s
  | .mergeWindowClose at0 rec => Sys2Proof.Machine.execMergeWindowClose at0 rec s
  | .homeReqEntry => Sys2Proof.Machine.execHomeReqEntry s
  | .homePick pipe => Sys2Proof.Machine.execHomePick pipe s
  | .wakePass tok obj => Sys2Proof.Machine.execWakePass tok obj s
  | .bucketRefill => Sys2Proof.Machine.execBucketRefill s
  | .waiterExpiry entry => Sys2Proof.Machine.execWaiterExpiry entry s
  | .pollResend r => Sys2Proof.Machine.execPollResend r s
  | .waiterRemoval st answer => Sys2Proof.Machine.execWaiterRemoval st answer s
  | .homeRsp at0 r => Sys2Proof.Machine.execHomeRsp at0 r s
  | .undo p pipe => Sys2Proof.Machine.execUndo p pipe s
  | .undoComplete p => Sys2Proof.Machine.execUndoComplete p s
  | .tallyReqArrival => Sys2Proof.Machine.execTallyReqArrival s
  | .tallyResponse at0 r => Sys2Proof.Machine.execTallyResponse at0 r s
  | .landReport half lane tally units => Sys2Proof.Machine.execLandReport half lane tally units s
  | .budgetChange b => Sys2Proof.Machine.execBudgetChange b s
  | .holdExpiry slot => Sys2Proof.Machine.execHoldExpiry slot s
  | .spacedRelease slot => Sys2Proof.Machine.execSpacedRelease slot s
  | .scheduledRelease slot => Sys2Proof.Machine.execScheduledRelease slot s
  | .houseFrame edges href => Sys2Proof.Machine.execHouseFrame edges href s
  | .spanPartial port p taken => Sys2Proof.Machine.execSpanPartial port p taken s
  | .spanCue port p taken => Sys2Proof.Machine.execSpanCue port p taken s
  | .spanIdle port p taken => Sys2Proof.Machine.execSpanIdle port p taken s
  | .spanActive port p taken => Sys2Proof.Machine.execSpanActive port p taken s
  | .spanAbort port p taken => Sys2Proof.Machine.execSpanAbort port p taken s
  | .fabricPacketDiscard port p => Sys2Proof.Machine.execFabricPacketDiscard port p s
  | .heartbeat port => Sys2Proof.Machine.execHeartbeat port s
  | .portTimeout port => Sys2Proof.Machine.execPortTimeout port s
  | .tugTrained port up => Sys2Proof.Machine.execTugTrained port up s
  | .tugTraining port transit peerN => Sys2Proof.Machine.execTugTraining port transit peerN s
  | .tugResend port => Sys2Proof.Machine.execTugResend port s
  | .reinUp up => Sys2Proof.Machine.execReinUp up s
  | .reinUnreach die => Sys2Proof.Machine.execReinUnreach die s
  | .reinFlitSend bulk => Sys2Proof.Machine.execReinFlitSend bulk s
  | .house port start state kind value frame => Sys2Proof.Machine.execHouse port start state kind value frame s
  | .houseExchange => Sys2Proof.Machine.execHouseExchange s
  | .holdoverLimit => Sys2Proof.Machine.execHoldoverLimit s
  | .curtainPacket port p => Sys2Proof.Machine.execCurtainPacket port p s
  | .curtainRaise p src inForce => Sys2Proof.Machine.execCurtainRaise p src inForce s
  | .curtainLift p src inForce => Sys2Proof.Machine.execCurtainLift p src inForce s
  | .curtainLiftAbort p src inForce => Sys2Proof.Machine.execCurtainLiftAbort p src inForce s
  | .dieCurtain raise propagate => Sys2Proof.Machine.execDieCurtain raise propagate s
  | .partReset p cause ends => Sys2Proof.Machine.execPartReset p cause ends s
  | .dieError unit addr => Sys2Proof.Machine.execDieError unit addr s
  | .faultReport r => Sys2Proof.Machine.execFaultReport r s
  | .patrolScrub e => Sys2Proof.Machine.execPatrolScrub e s
  | .bistStart kind index => Sys2Proof.Machine.execBistStart kind index s
  | .bistDone pass fails => Sys2Proof.Machine.execBistDone pass fails s
  | .fltTailWrite v => Sys2Proof.Machine.execFltTailWrite v s
  | .lgclr => Sys2Proof.Machine.execLgclr s
  | .attrClear index => Sys2Proof.Machine.execAttrClear index s
  | .recipe msg => Sys2Proof.Machine.execRecipe msg s
  | .debugToken msg => Sys2Proof.Machine.execDebugToken msg s
  | .nonceRead => Sys2Proof.Machine.execNonceRead s
  | .drop => Sys2Proof.Machine.execDrop s
  | .authExpiry => Sys2Proof.Machine.execAuthExpiry s
  | .powerDown => Sys2Proof.Machine.execPowerDown s
  | .exportPop => Sys2Proof.Machine.execExportPop s
  | .create p => Sys2Proof.Machine.execCreate p s
  | .destroy p => Sys2Proof.Machine.execDestroy p s
  | .reset p => Sys2Proof.Machine.execReset p s
  | .revoke p => Sys2Proof.Machine.execRevoke p s
  | .doneForced p => Sys2Proof.Machine.execDoneForced p s
  | .resume p => Sys2Proof.Machine.execResume p s
  | .split k => Sys2Proof.Machine.execSplit k s
  | .partQuiesce x => Sys2Proof.Machine.execPartQuiesce x s
  | .quiesced p => Sys2Proof.Machine.execQuiesced p s
  | .accountingWindow w => Sys2Proof.Machine.execAccountingWindow w s
  | .dirtyClear => Sys2Proof.Machine.execDirtyClear s
  | .sqDoorbell p q v => Sys2Proof.Machine.execSqDoorbell p q v s
  | .sqEnable p q v => Sys2Proof.Machine.execSqEnable p q v s
  | .sqReset p q => Sys2Proof.Machine.execSqReset p q s
  | .cqReset p => Sys2Proof.Machine.execCqReset p s
  | .eqReset p => Sys2Proof.Machine.execEqReset p s
  | .cqDoorbell p v => Sys2Proof.Machine.execCqDoorbell p v s
  | .descriptorFetch => Sys2Proof.Machine.execDescriptorFetch s
  | .descriptorDecode x => Sys2Proof.Machine.execDescriptorDecode x s
  | .nop x => Sys2Proof.Machine.execNop x s
  | .hostCall x => Sys2Proof.Machine.execHostCall x s
  | .hostAbstain x => Sys2Proof.Machine.execHostAbstain x s
  | .hostRejoin x => Sys2Proof.Machine.execHostRejoin x s
  | .hostCallCompletion c => Sys2Proof.Machine.execHostCallCompletion c s
  | .semOp x => Sys2Proof.Machine.execSemOp x s
  | .tokenOp x => Sys2Proof.Machine.execTokenOp x s
  | .tallyOp x => Sys2Proof.Machine.execTallyOp x s
  | .stageConfig x => Sys2Proof.Machine.execStageConfig x s
  | .watchSet x => Sys2Proof.Machine.execWatchSet x s
  | .traceMark x => Sys2Proof.Machine.execTraceMark x s
  | .snapshot x => Sys2Proof.Machine.execSnapshot x s
  | .dmaFault p k => Sys2Proof.Machine.execDmaFault p k s
  | .irqTimer p => Sys2Proof.Machine.execIrqTimer p s
  | .irqAck => Sys2Proof.Machine.execIrqAck s
  | .indexWriteback p => Sys2Proof.Machine.execIndexWriteback p s
  | .pctrLowRead p k => Sys2Proof.Machine.execPctrLowRead p k s
  | .ctrDataLowRead => Sys2Proof.Machine.execCtrDataLowRead s
  | .hcTimeLoRead page => Sys2Proof.Machine.execHcTimeLoRead page s
  | .rcCounterRead path off size => Sys2Proof.Machine.execRcCounterRead path off size s
  | .freezeArm => Sys2Proof.Machine.execFreezeArm s
  | .freeze slot => Sys2Proof.Machine.execFreeze slot s
  | .timebase => Sys2Proof.Machine.execTimebase s
  | .traceWindowEnd => Sys2Proof.Machine.execTraceWindowEnd s
  | .dropPhaseEnd => Sys2Proof.Machine.execDropPhaseEnd s
  | .pcSample st pc tileState => Sys2Proof.Machine.execPcSample st pc tileState s
  | .wpOwnerWrite w v => Sys2Proof.Machine.execWpOwnerWrite w v s
  | .scan => Sys2Proof.Machine.execScan s
  | .resetRelease f => Sys2Proof.Machine.execResetRelease f s
  | .resetAssert pwrgd => Sys2Proof.Machine.execResetAssert pwrgd s
  | .flashRead c => Sys2Proof.Machine.execFlashRead c s
  | .bookCheck c => Sys2Proof.Machine.execBookCheck c s
  | .firstcue => Sys2Proof.Machine.execFirstcue s
  | .retry => Sys2Proof.Machine.execRetry s
  | .stage2Switch => Sys2Proof.Machine.execStage2Switch s
  | .tileIso st on => Sys2Proof.Machine.execTileIso st on s
  | .regionSleep line on => Sys2Proof.Machine.execRegionSleep line on s
  | .thaw st => Sys2Proof.Machine.execThaw st s
  | .rosterStage st v => Sys2Proof.Machine.execRosterStage st v s
  | .objSelWrite v => Sys2Proof.Machine.execObjSelWrite v s
  | .objValueWrite v => Sys2Proof.Machine.execObjValueWrite v s
  | .hcSeedWrite hi => Sys2Proof.Machine.execHcSeedWrite hi s
  | .hcCtlWrite v => Sys2Proof.Machine.execHcCtlWrite v s
  | .cancel => Sys2Proof.Machine.execCancel s
  | .lockWrite v => Sys2Proof.Machine.execLockWrite v s
  | .registerWrite path off size v => Sys2Proof.Machine.execRegisterWrite path off size v s
  | .malformedCommand st w => Sys2Proof.Machine.execMalformedCommand st w s
  | .traceOut => Sys2Proof.Machine.execTraceOut s
  | .heartbeatArrival port => Sys2Proof.Machine.execHeartbeatArrival port s
  | .exchangeReply port t1 t2 t3 asPeer => Sys2Proof.Machine.execExchangeReply port t1 t2 t3 asPeer s
  | .objBusyClear value cfg waiters => Sys2Proof.Machine.execObjBusyClear value cfg waiters s

end Sys2Proof.Machine
end

