-- ==== Sys2Proof/Machine/Tick.lean ====
section
/-! DEFINITION. What happens as time passes (log 1): the events due, then the ECLK and MCLK edges before the next TCLK edge, then
that edge. One call does one of these. -/

namespace Sys2Proof.Machine

/-! ## Events due (log 11) -/

def isDue (s : State) (t : Timed) : Bool := decide (t.due ≤ clkNow s t.clk)

/-- The order of events of one moment: thaws; curtains in effect and resets (R182); what stages and applies, and merge windows that are over
(R158); the others; root decisions; a freeze of counters last. -/
def evRank : Instr → Nat
  | .thaw _ => 0
  | .curtainRaise _ _ true => 1
  | .curtainLift _ _ true => 1
  | .curtainLiftAbort _ _ true => 1
  | .partReset _ _ _ => 1
  | .reset _ => 1
  | .destroy _ => 1
  | .wbAcknowledge _ => 2
  | .emptyBoundaryApply _ => 2
  | .dieWideApply => 2
  | .stage2Switch => 2
  | .mergeWindowClose _ _ => 2
  | .wakePass _ _ => 4
  | .rootDecision _ _ => 5
  | .freeze _ => 6
  | _ => 3

/-- Wake passes of one ECLK by object, so that TOKEN goes before TOKEN + 1 (R154); root decisions of one TCLK by slot (R217). -/
def passKey : Instr → Nat
  | .wakePass tok i => objIx tok i
  | .rootDecision _ slot => slot
  | _ => 0

def insertPass (e : Instr) : List Instr → List Instr
  | [] => [e]
  | a :: t => if passKey e < passKey a then e :: a :: t else a :: insertPass e t

/-- The events in that order, those of one rank in the order in which they were set. -/
def inOrder (l : List Instr) : List Instr :=
  (List.range 7).flatMap fun r =>
    let m := l.filter fun e => evRank e == r
    if r = 4 ∨ r = 5 then m.foldl (fun a e => insertPass e a) [] else m

/-- Moves the events due to the queue, in front of `more` by rank. -/
def takeDue (more : List Instr) (s : State) : State :=
  let due := (s.agenda.filter (isDue s)).map (·.ev)
  { s with agenda := s.agenda.filter (fun t => !isDue s t), pending := inOrder (due ++ more) }

/-! ## An ECLK edge -/

/-- Descriptors that waited at their unit under a curtain that has lifted (Table OBS-8). -/
def unparked (s : State) : List Instr :=
  (s.hq.descs.filter fun d => d.parked && !covered s d.x.part).filterMap fun d => startInstr d.x

/-- The descriptor that starts in this ECLK: a CURTAIN at once, another by its row. -/
def startNext (s : State) : List Instr × State :=
  match nextStart_ s with
  | none => ([], s)
  | some d =>
    let x := d.x
    let s1 := { s with hq := { s.hq with rrStart := (x.part + 1) % 64, rings := Tbl.set 0 (64 + x.part) ((x.ring + 1) % 4) s.hq.rings } }
    match startInstr x with
    | some e => ([e], s1)
    | none => ([], startCurtain x s1)

/-- What the block does by itself in an ECLK: a refill every 256 (R142), picks, a fetch and a start (R266), quiescing. -/
def eclkWork (s : State) : List Instr × State :=
  let refill := if s.clk.eclk % 256 = 0 then [.accountingWindow .refill, .bucketRefill] else []
  let enters := s.home.crossing.any fun c => decide (c.due ≤ s.clk.eclk)
  let picks := ((List.range 4).filter fun k => enters || pipeBusy s k).map Instr.homePick
  let fetch := if (nextFetch s).isSome then [Instr.descriptorFetch] else []
  let rest := ((s.parts.filter fun q => q.2.state == .quiescing).map (·.1)).filter (atRest s)
  let (starts, s1) := startNext s
  (refill ++ picks ++ fetch ++ starts ++ unparked s ++ rest.map Instr.quiesced, s1)

/-- An ECLK edge: the next DMA request goes out, verdict markers arrive, and the engines of ECLK work. -/
def eclkEdge (s : State) : State :=
  let s1 := dmaTurn { s with clk := { s.clk with eclk := s.clk.eclk + 1, eclkAcc := s.clk.eclkAcc + 4 * s.clk.mult } }
  let (l, s2) := eclkWork (answerRefused (runMarks (captureIn (newCycle .eclk s1))))
  takeDue l s2

def mclkEdge (s : State) : State :=
  takeDue [] { newCycle .mclk s with clk := { s.clk with mclk := s.clk.mclk + 1, mclkAcc := s.clk.mclkAcc + 20 * s.clk.mult } }

/-! ## The end of a TCLK -/

/-- FENCEs whose wait is over, with the commands behind them for the next TCLK (R50); role stamps that can now be written (R61); and
TILE_HOLD of the coming TCLK (R49). -/
def settleStirrups (s : State) : State :=
  let s0 := ((s.stirs.filter fun x => x.2.fence.isSome && (settleFence x.2).fence.isNone).map (·.1)).foldl
    (fun a st => wake st (updStir st settleFence a)) s
  let s1 := ((s0.stirs.filter fun x => x.2.newRole.isSome).map (·.1)).foldl (fun a st => tryRole st a) s0
  { s1 with stirs := (s1.stirs.map fun x => (x.1, endStirrup s1 x.2)).filter fun x => x.2 != Stirrup.initial }

/-- Wave countdowns, suspended under a curtain (R122, R124). -/
def countWaves (s : State) : State :=
  let waves := s.tree.waves.map fun w =>
    if covered s ((slotOwner s w.cue.slot).getD 0) then w else { w with left := w.left - 1 }
  { s with tree := { s.tree with waves := waves } }

/-- The barns whose WAKE_REQ line is asserted (R88 item 2). -/
def wakeWanted (s : State) (b : Nat) : Bool :=
  s.pwr.sleep.getLsbD b && (List.range 512).any fun i =>
    bitB (slotCfg s i) 31 && !bitB (slotCfg s i) 27 && holdsArrival s i && !(membersIn s b i).isEmpty

def wakeLines (s : State) : State :=
  if s.pwr.sleep = 0 then s
  else { s with pwr := { s.pwr with wake := (List.range 18).foldl (fun a b => if wakeWanted s b then a ||| (1#18 <<< b) else a) s.pwr.wake } }

/-- The tile whose turn it is in a sampling pass, which starts every 2^PCSHIFT TCLK and takes 8 TCLK a tile (R280). -/
def sampleTurn (s : State) : Option Nat :=
  if !sampling s then none
  else
    let k := s.clk.tclk % 2 ^ fld s 0x5000 24 20
    if k % 8 ≠ 0 then none else ((List.range nStirrup).filter (sampled s))[k / 8]?

/-- The outputs of a TCLK. -/
def drive (s : State) : State :=
  let t := sampleTurn s
  let up := (s.parts.filter fun q => tileCurtain s q.1).foldl (fun a q => setBit64 a q.1) 0
  { s with out := { s.out with ctrFreeze := false, sample := t.filter fun st => !unstrobed s st, tileCurtain := up } }

/-- What leaves in a TCLK, and what is settled at its end. -/
def endTclk (s : State) : State :=
  let s1 := departAll { s with fab := { s.fab with sent := [] } }
  let s2 := (List.range 4).foldl (fun a p => tugOut p a) s1
  wakeLines (countWaves (settleStirrups (freezeEnd s2)))

/-! ## The coming TCLK edge -/

/-- After the frame's last edge the next house frame begins by itself, in which TCLK makes as many edges (R31; log 2). -/
def frameTurn (s : State) : State :=
  let h := s.house
  if h.lead = 0 && !h.fresh && decide (h.len ≤ h.edge + 1) then houseFrame h.len (nextHref s) s else s

/-- A PERIOD without a HOUSE packet from the source tug (R205). -/
def tugMissed (s : State) : State :=
  if hcSrc s = 1 ∧ s.house.lastExch + hcPeriod s < (houseNow s).toNat then missed s else s

/-- Slots with a span cue whose edge has come, held cues at their limit, due or placed, and waves whose count is 0. -/
def cueWork (s : State) : List Instr :=
  (((s.fab.sched.filter fun x => edgeReached s x.t).map (·.slot)).eraseDups.map Instr.scheduledRelease)
    ++ ((s.tree.held.filter (holdOver s)).map fun h => Instr.holdExpiry h.cue.slot)
    ++ ((s.tree.held.filter fun h => h.due).map fun h => Instr.spacedRelease h.cue.slot)
    ++ (match nextTurn s with | some h => [Instr.spacedRelease h.cue.slot] | none => [])
    ++ ((s.tree.waves.filter fun w => w.left == 0).map fun w => Instr.waveRelease w.stall w.cue)

/-- What the ports and clocks ask for. -/
def clockWork (s : State) : List Instr :=
  (if s.fab.reinUp || s.fab.ports.any (fun x => x.2.up) then
      (ports.filter (heartbeatDue s)).map Instr.heartbeat ++ (ports.filter (timedOut s)).map Instr.portTimeout else [])
    ++ (if limitPassed s then [.holdoverLimit] else [])
    ++ (if authOver s then [.authExpiry] else [])
    ++ (if s.obs.winStart + 64 * usTicks ≤ (houseNow s).toNat then [.traceWindowEnd, .accountingWindow .trace] else [])
    ++ (match sampleTurn s with | some st => if unstrobed s st then [.pcSample st 0 0] else [] | none => [])

/-- What applies at the start of a TCLK (R136, R302). -/
def applyWork (s : State) : List Instr :=
  (if dwReady s then [.dieWideApply] else []) ++ (if switchReady s then [.stage2Switch] else [])

/-- TIMEBASE every 2^30 ns of house time. -/
def timebaseWork (before s : State) : List Instr :=
  if (houseNow before).toNat / 2 ^ 32 = (houseNow s).toNat / 2 ^ 32 then [] else [.timebase]

/-- The TCLK count advances, and with it the house edge and the HREF counter (R31). -/
def nextEdge (s : State) : State :=
  hrefTurn (houseEdge { s with clk := { s.clk with tclk := s.clk.tclk + 1, eclkAcc := s.clk.eclkAcc - 128, mclkAcc := s.clk.mclkAcc - 128 } })

/-- What the first edge of a frame brings besides. -/
def frameEdge (before s : State) : State := if before.house.lead ≤ 1 && before.house.fresh then frameSends s else s

/-- One TCLK edge. -/
def tclkEdge (s : State) : State :=
  let s0 := frameTurn (newCycle .tclk (endTclk s))
  let s2 := tugMissed (frameEdge s0 (nextEdge s0))
  let s3 := drive (drainStrobes <| dieEffect { s2 with boot := { s2.boot with draining := switchWaits s2 } })
  takeDue (applyWork s3 ++ cueWork s3 ++ clockWork s3 ++ timebaseWork s s3) s3

/-! ## One call -/

/-- TCLK is stopped: the present frame has no edge (R138). -/
def stopped (s : State) : Bool := s.house.fresh && s.house.len == 0 && s.house.lead == 0

/-- A frame of the gap has passed: ECLK and MCLK have gone as far. -/
def gapOver (s : State) : Bool := decide (128 * s.clk.mult < s.clk.eclkAcc ∧ 128 * s.clk.mult < s.clk.mclkAcc)

/-- The gap goes on with the next frame. -/
def gapFrame (s : State) : State := houseFrame 0 (nextHref s) s

/-- Time passes on an empty queue; a block held in reset idles. -/
def tick (s : State) : State :=
  if s.boot.inReset then s
  else if s.agenda.any (isDue s) then takeDue [] s
  else if freezeDue s then { s with pending := [.freeze none] }
  else if stopped s then (if gapOver s then gapFrame s else if s.clk.eclkAcc ≤ s.clk.mclkAcc then eclkEdge s else mclkEdge s)
  else if s.clk.eclkAcc ≤ 128 ∧ s.clk.eclkAcc ≤ s.clk.mclkAcc then eclkEdge s
  else if s.clk.mclkAcc ≤ 128 then mclkEdge s
  else tclkEdge s

end Sys2Proof.Machine
end

