-- ==== Sys2Proof/WellFormed.lean ====
section
/-! DEFINITION. Well-formed commands: the parts an operand names exist (R21, R23, Table ARC-1, Table INT-1) and a tile's command
word is one of its row (Table STR-9). The machine answers an ill-formed command with a fault. -/

namespace Sys2Proof

/-- A stirrup of the die. -/
def wfTile (st : Nat) : Bool := decide (st < 1728)

/-- A partition. -/
def wfPart (p : Nat) : Bool := decide (p < 64)

/-- A reduction slot. -/
def wfSlot (i : Nat) : Bool := decide (i < 512)

/-- A place of the tree (Table ARC-1). -/
def wfPlace : Place → Bool
  | .stirrup n => wfTile n
  | .stall n => decide (n < 108)
  | .barn n => decide (n < 18)
  | .half n => decide (n < 2)
  | .die => true

/-- A semaphore or a token pool. -/
def wfObj (tok : Bool) (i : Nat) : Bool := if tok then decide (i < 2048) else decide (i < 8192)

/-- A port: tugs 0 to 3, rein peers 8 to 23. -/
def wfPort (n : Nat) : Bool := decide (n < 4) || (decide (8 ≤ n) && decide (n < 24))

/-- A host submission ring. -/
def wfRing (p q : Nat) : Bool := wfPart p && decide (q < 4)

/-- The class and OP of a tile's command word (Table STR-8). -/
def wfWord (cls op : Nat) (w : W32) : Bool := bitsN w 31 28 == cls && bitsN w 27 23 == op

/-- A command word whose CLASS and OP have a row of their own (Table STR-9). -/
def wfListed (w : W32) : Bool :=
  let n := bitsN w 27 23
  match bitsN w 31 28 with
  | 0 => decide (n ≤ 0x0D)
  | 1 => decide (n ≤ 0x09) || (decide (0x10 ≤ n) && decide (n ≤ 0x16))
  | 2 => decide (0x18 ≤ n) && decide (n ≤ 0x1A)
  | 3 => n == 0
  | 4 => decide (n ≤ 3)
  | _ => false

/-- A home request for a row of OP `op`. -/
def wfHome (op : Nat) : HomeSite → Bool
  | .tile st w => wfTile st && wfWord 1 op w
  | .unit r => r.op.toNat == op && wfPart r.part && wfObj r.tok r.obj

/-- A CTRL command of OP `op`. -/
def wfCtrl (op : Nat) : CtrlSite → Bool
  | .tile st w => wfTile st && wfWord 4 op w
  | .unit c => wfTile c.src && wfWord 4 op c.word

/-- A descriptor of OP `op` (Table HST-2). -/
def wfDesc (op : Nat) (x : Desc) : Bool :=
  wfRing x.part x.ring && decide (x.d.length = 8) && ((x.d.headD 0).toNat % 256 == op)

/-- A HOST_CALL descriptor of action `act`: call, abstain, rejoin (R262). -/
def wfCallDesc (act : Nat) (x : Desc) : Bool := wfDesc 1 x && bitsN (x.d.getD 1 0) 11 10 == act

def wfUp : UpPkt → Bool
  | .call p => wfSlot p.slot
  | .home r => decide (r.obj < 8192) && wfPart r.part
  | .tally r => decide (r.tally < 1024) && wfPart r.part
  | .ctrl c => wfTile c.src || c.src == 0x7FF

def wfReport (r : Report) : Bool :=
  decide (r.index < 4096) && decide (r.unit < 256) && r.part.all wfPart
    && (if r.type = 64 then decide (r.index < 108) || r.index == 147 else decide (r.type < 32))

def wfScrub : MemError → Bool
  | .corrected unit i _ => decide (unit < 256) && decide (i < 4096)
  | .slot (.stirrup _) _ _ _ => false
  | .slot a i _ _ => wfPlace a && wfSlot i
  | .lockstep (.half h) i _ => wfPlace (.half h) && wfSlot i
  | .lockstep .die i _ => wfSlot i
  | .lockstep _ _ _ => false
  | .packet .die _ => false
  | .packet a _ => wfPlace a
  | .state p unit _ _ => wfPart p && decide (unit < 256)
  | .spill _ => true
  | .snapshot => true
  | .journal p => wfPart p
  | .retention st => wfTile st
  | .die unit _ => decide (unit < 256)
  | .logMemory _ => true

def wfDma : DmaKind → Bool
  | .descRead q => decide (q < 4)
  | .snapshot q => decide (q < 4)
  | _ => true

def wfPath (path : Path) (off : Nat) : Bool :=
  match path with
  | .tile st => wfTile st && decide (off < 64)
  | .manager => decide (off < 0x1_0000)
  | .mgmt => decide (off < 0x2_0000)
  | .page p => wfPart p && decide (off < 0x1000)

/-- A packet on a port with its FKIND (Table FAB-6). -/
def wfSpan (k port : Nat) (p : SpanPkt) : Bool := wfPort port && p.fkind.toNat == k

/-- Whether a command is well formed. -/
def Instr.wf : Instr → Bool
  | .call st w => wfTile st && bitsN w 31 28 == 0 && decide (bitsN w 27 23 ≤ 0x0D)
  | .signal x => wfHome 0x00 x
  | .wait x => wfHome 0x01 x
  | .trywait x => wfHome 0x02 x
  | .waitTo x => wfHome 0x03 x
  | .semRead x => wfHome 0x04 x
  | .set x => wfHome 0x05 x
  | .fetchAdd x => wfHome 0x06 x
  | .cas x => wfHome 0x07 x
  | .fetchMax x => wfHome 0x08 x
  | .fetchOr x => wfHome 0x09 x
  | .post x => wfHome 0x10 x
  | .acquire x => wfHome 0x11 x
  | .tryacquire x => wfHome 0x12 x
  | .acquirePri x => wfHome 0x13 x
  | .acquirePriForward r e => r.tok && decide (r.obj < 2047) && wfPart r.part && decide (e < 16384)
  | .postTag x => wfHome 0x14 x
  | .acquireTag x => wfHome 0x15 x
  | .level x => wfHome 0x16 x
  | .arm st w => wfTile st && wfWord 2 0x18 w
  | .flagPost st w => wfTile st && wfWord 2 0x19 w
  | .tallyRead st w => wfTile st && wfWord 2 0x1A w
  | .fence st w => wfTile st && wfWord 3 0 w
  | .abstain x => wfCtrl 0 x
  | .rejoin x => wfCtrl 1 x
  | .ctrlCurtain x => wfCtrl 2 x
  | .mark x => wfCtrl 3 x
  | .queuedCommandIssue st => wfTile st
  | .payloadCommit st _ => wfTile st
  | .stirStatRead st => wfTile st
  | .houseLoRead st => wfTile st
  | .remoteWriteReport st _ => wfTile st
  | .landAck st _ _ => wfTile st
  | .partialArrival a u => wfPlace a && wfUp u
  | .freezeOrder st _ _ _ => wfTile st
  | .rootDecision a i => wfPlace a && wfSlot i
  | .emptyBoundaryApply p => wfPart p
  | .wbAcknowledge _ => true
  | .dieWideApply => true
  | .roleStampWrite st => wfTile st
  | .idle a i _ _ => wfPlace a && wfSlot i
  | .active a i _ _ => wfPlace a && wfSlot i
  | .activeAcknowledgement a i _ => wfPlace a && wfSlot i
  | .rearm a i _ _ => wfPlace a && wfSlot i
  | .cueArrival a c => wfPlace a && wfSlot c.slot && decide (c.profile < 8)
  | .waveRelease k c => decide (k < 108) && wfSlot c.slot
  | .cueDelivery st _ => wfTile st
  | .auditPush p _ => wfPart p
  | .signalCombining a r => wfPlace a && decide (r.obj < 8192)
  | .mergeWindowClose a _ => wfPlace a
  | .homeReqEntry => true
  | .homePick k => decide (k < 4)
  | .wakePass tok i => wfObj tok i
  | .bucketRefill => true
  | .waiterExpiry e => decide (e < 16384)
  | .pollResend r => wfPart r.part && wfObj r.tok r.obj
  | .waiterRemoval st _ => wfTile st
  | .homeRsp a r => wfPlace a && wfTile r.dest
  | .undo p k => wfPart p && decide (k < 4)
  | .undoComplete p => wfPart p
  | .tallyReqArrival => true
  | .tallyResponse a r => wfPlace a && wfTile r.dest
  | .landReport h lane t _ => decide (h < 2) && decide (lane < 4) && decide (t < 1024)
  | .budgetChange _ => true
  | .holdExpiry i => wfSlot i
  | .spacedRelease i => wfSlot i
  | .scheduledRelease i => wfSlot i
  | .houseFrame _ _ => true
  | .spanPartial port p _ => wfSpan 1 port p
  | .spanCue port p _ => wfSpan 2 port p
  | .spanIdle port p _ => wfSpan 3 port p
  | .spanActive port p _ => wfSpan 4 port p
  | .spanAbort port p _ => wfSpan 5 port p
  | .fabricPacketDiscard port p => wfPort port && (p.fkind == 0 || decide (9 ≤ p.fkind.toNat))
  | .heartbeat port => wfPort port
  | .portTimeout port => wfPort port
  | .tugTrained port _ => decide (port < 4)
  | .tugTraining port _ _ => decide (port < 4)
  | .tugResend port => decide (port < 4)
  | .reinUp _ => true
  | .reinUnreach _ => true
  | .reinFlitSend _ => true
  | .house port _ _ _ _ _ => decide (port < 4)
  | .houseExchange => true
  | .holdoverLimit => true
  | .curtainPacket port p => wfSpan 8 port p
  | .curtainRaise p _ _ => wfPart p
  | .curtainLift p _ _ => wfPart p
  | .curtainLiftAbort p _ _ => wfPart p
  | .dieCurtain _ _ => true
  | .partReset p _ _ => wfPart p
  | .dieError _ _ => true
  | .faultReport r => wfReport r
  | .patrolScrub e => e.all wfScrub
  | .bistStart kind i => decide (kind < 8) && decide (i < 256)
  | .bistDone _ _ => true
  | .fltTailWrite _ => true
  | .lgclr => true
  | .attrClear i => decide (i < 4096)
  | .recipe _ => true
  | .debugToken _ => true
  | .nonceRead => true
  | .drop => true
  | .authExpiry => true
  | .powerDown => true
  | .exportPop => true
  | .create p => wfPart p
  | .destroy p => wfPart p
  | .reset p => wfPart p
  | .revoke p => wfPart p
  | .doneForced p => wfPart p
  | .resume p => wfPart p
  | .split k => wfPart k
  | .partQuiesce x => wfDesc 10 x
  | .quiesced p => wfPart p
  | .accountingWindow _ => true
  | .dirtyClear => true
  | .sqDoorbell p q _ => wfRing p q
  | .sqEnable p q _ => wfRing p q
  | .sqReset p q => wfRing p q
  | .cqReset p => wfPart p
  | .eqReset p => wfPart p
  | .cqDoorbell p _ => wfPart p
  | .descriptorFetch => true
  | .descriptorDecode x => wfRing x.part x.ring && decide (x.d.length = 8)
  | .nop x => wfDesc 0 x
  | .hostCall x => wfCallDesc 0 x
  | .hostAbstain x => wfCallDesc 1 x
  | .hostRejoin x => wfCallDesc 2 x
  | .hostCallCompletion c => wfSlot c.slot
  | .semOp x => wfDesc 2 x
  | .tokenOp x => wfDesc 3 x
  | .tallyOp x => wfDesc 4 x
  | .stageConfig x => wfDesc 5 x
  | .watchSet x => wfDesc 6 x
  | .traceMark x => wfDesc 7 x
  | .snapshot x => wfDesc 8 x
  | .dmaFault p k => wfPart p && wfDma k
  | .irqTimer p => wfPart p
  | .irqAck => true
  | .indexWriteback p => wfPart p
  | .pctrLowRead p i => wfPart p && decide (i < 16)
  | .ctrDataLowRead => true
  | .hcTimeLoRead page => page.all wfPart
  | .rcCounterRead path off _ => wfPath path off
  | .freezeArm => true
  | .freeze i => i.all wfSlot
  | .timebase => true
  | .traceWindowEnd => true
  | .dropPhaseEnd => true
  | .pcSample st _ _ => wfTile st
  | .wpOwnerWrite w _ => decide (w < 16)
  | .scan => true
  | .resetRelease _ => true
  | .resetAssert _ => true
  | .flashRead c => decide (c.spiMode < 5)
  | .bookCheck c => decide (c.spiMode < 5)
  | .firstcue => true
  | .retry => true
  | .stage2Switch => true
  | .tileIso st _ => wfTile st
  | .regionSleep l _ => decide (l < 18)
  | .thaw st => wfTile st
  | .rosterStage st _ => decide (st < 2048)
  | .objSelWrite _ => true
  | .objValueWrite _ => true
  | .hcSeedWrite _ => true
  | .hcCtlWrite _ => true
  | .cancel => true
  | .lockWrite _ => true
  | .registerWrite path off _ _ => wfPath path off
  | .malformedCommand st w => wfTile st && !wfListed w
  | .traceOut => true
  | .heartbeatArrival port => wfPort port
  | .exchangeReply port _ _ _ _ => decide (8 ≤ port) && decide (port < 24)
  | .objBusyClear _ _ _ => true

end Sys2Proof
end

