-- ==== Sys2Proof/Safety.lean ====
section
/-! DEFINITION. What a safe run is, and the forms in which the statements speak of one command. -/

namespace Sys2Proof.Machine

/-- The command completes: the outcome is a next state, of which `P` holds. -/
def Completes (o : Host.Outcome State Fault Refusal) (P : State → Prop) : Prop := ∃ t, o = .next t ∧ P t

/-- The outcome is a next state. -/
def Goes (o : Host.Outcome State Fault Refusal) : Prop := ∃ t, o = .next t

/-- Every waiting command is well formed: what a sender that keeps the forms of the tables puts into the queue. -/
def queueWf (s : State) : Bool := s.pending.all Instr.wf

/-- A descriptor row is given a descriptor that its decoding accepted (R258, R259). -/
def accepted (s : State) : Instr → Bool
  | .nop x | .hostCall x | .hostAbstain x | .hostRejoin x | .semOp x | .tokenOp x | .tallyOp x | .stageConfig x | .watchSet x
  | .traceMark x | .snapshot x | .partQuiesce x => malformed s x == 0
  | _ => true

/-- The promise of R251: with the debug fuse blown no authorisation stands. -/
def debugShut (s : State) : Prop := s.dbg.disabled = true → s.dbg.auth = 0#2

/-- A step is safe where it stops at no fault and keeps the debug fuse's promise. -/
def SafeStep (s : State) : Prop := Completes (step s) debugShut

/-- The home's answer to a tile's request is on its way: it crosses to the die root with the request's RID and the stirrup's stamp
(R145, R146). -/
def Answers (t : State) (r : HomeReq) (status : BitVec 5) (pay : W128) : Prop :=
  let rsp : HomeRsp :=
    { tok := r.tok, obj := r.obj, op := r.op, status := status, rid := r.rid, dest := r.src, merged := r.merged,
      mlevel := r.mlevel, mrec := r.mrec, poll := false, role := wStamp (stir t r.src).role, pay := pay }
  ∃ d, { clk := .tclk, due := d, ev := .homeRsp .die rsp } ∈ t.agenda

/-- What a home operation leaves: everything but objects, waiters, journals, passes, counters, the agenda and what a journal that
overflows tells (R161). -/
def HomeFrame (t s : State) : Prop :=
  t = { s with objs := t.objs, waiters := t.waiters, journals := t.journals, home := t.home, parts := t.parts,
               agenda := t.agenda, free := t.free, hq := t.hq, page := t.page, cyc := t.cyc }

/-- A store of objects after an operation has left value `v` in one; a value that does not change writes nothing. -/
def objsWith (s : State) (r : HomeReq) (v : W32) : Tbl Obj :=
  let o := obj s r.tok r.obj
  if v = o.val then s.objs else Tbl.set Obj.none (objIx r.tok r.obj) { o with val := v } s.objs

/-- A fetched descriptor has completed with `status` (R257, R263, R264): it is fetched no longer, and one entry is written to the
completion ring of its partition, except of a QUIET descriptor that completes OK and while the ring is disabled or stopped. -/
def Completed (t s : State) (x : Desc) (status : BitVec 5) : Prop :=
  let ctl := pageReg s x.part 0x88
  let silent := (bitB (descWord x 0) 8 && status == stOk) || !bitB ctl 31 || bitB ctl 30
  t.hq.descs = s.hq.descs.filter (fun d => !sameDesc d.x x)
    ∧ t.page = if silent then s.page else (setPage x.part 0x8C (pageReg s x.part 0x8C + 1) s).page

/-- A slot of partition `p` that is not its boundary slot: no staged value applies as its cue leaves (R95, R134). -/
def PlainSlot (s : State) (slot p : Nat) : Prop := slotOwner s slot = some p ∧ boundary s p ≠ slot

/-- A fault record of the present TCLK is on its way to the fault manager (R230). UNIT and INDEX follow Tables ARC-2 and FLT-10; cause
numbers, the order within DETAIL and an INDEX that Table FLT-10 leaves open are the model's (log 8). -/
def Told (t s : State) (type unit index : Nat) (p : Option Nat) (detail : List Nat) : Prop :=
  ∃ d, { clk := .mclk, due := d,
         ev := .faultReport { type := type, unit := unit, index := index, part := p, house := houseNow s, detail := detail } } ∈ t.agenda

/-- Something is due `n` TCLK from now. -/
def DueT (t s : State) (n : Nat) (c : Instr) : Prop := { clk := .tclk, due := s.clk.tclk + n, ev := c } ∈ t.agenda

/-- The stirrup issues a tile's command word in the TCLK of its write: the tile is in service and not frozen, the word gives no
cause to freeze (Table STR-14), nothing waits before it, and no curtain, quiesce, role change, drain or queue limit holds it back
(R48, R51, R52, R61, R63, Table OBS-8). -/
def IssuesAtOnce (s : State) (st : Nat) (w : W32) : Prop :=
  st < nStirrup ∧ (stir s st).frozen = false ∧ (stir s st).iso = false ∧ stirrupCause (wAssigned (stir s st).role) w = 0
    ∧ (stir s st).cmdQ = [] ∧ mustQueue s (stir s st) = false ∧ limited (stir s st) w = false
    ∧ busyRefused (stir s st) w = false

end Sys2Proof.Machine
end

