-- ==== Sys2Proof/Certificates/Slice0/Obligations.lean ====
section
/-! DEFINITION. The statements for the provers. -/

open Sys2Proof Sys2Proof.Machine

/-! ## The stirrup: a tile's commands -/

/-- CALL and BUSY (R53, R58, Table STR-12): a call that nothing holds back becomes the stirrup's pending call, held unless NOHOLD is 1, is
counted in its partition's CALLS counter, and its packet waits for the link to the stall; while a CALL is pending, a further CALL and a HOME
or TALLY command with NOHOLD 0 are not issued: STATUS becomes BUSY. Nothing else changes. -/
def Obligations.CallBecomesPendingAndLeaves : Prop :=
  ∀ (s : State) (st : Nat) (w : W32),
    let x := stir s st
    let c := sample s x w
    let busy := Host.Outcome.next (φ := Fault) (ρ := Refusal)
      { s with stirs := Tbl.set Stirrup.initial st { x with status := stBusy } s.stirs }
    let pending := st < nStirrup ∧ x.frozen = false ∧ x.iso = false ∧ x.cmdQ = [] ∧ mustQueue s x = false ∧ x.call.isSome = true
      ∧ stirrupCause (wAssigned x.role) w = 0
    (cClass w = 0 → opListed 0 (cOp w) = true → IssuesAtOnce s st w → Completes (exec (.call st w) s) fun t =>
      t.stirs = Tbl.set Stirrup.initial st
          { x with call := some { slot := cId w, hold := !cNohold w, boot := false, cmd := c, commit := x.pay } } s.stirs
        ∧ t.tree = { s.tree with links := s.tree.links ++
            [{ link := st, prio := prioIssue, ready := s.clk.tclk, beats := 1, hop := scaled s 3,
               ev := .partialArrival (.stall (stallOf st)) (.call (callPacket st c x.pay notLeft)) }] }
        ∧ t.parts = (count (stirPart x) 0 1 s).parts
        ∧ t = { s with stirs := t.stirs, tree := t.tree, parts := t.parts })
    ∧ (pending → cClass w = 0 → exec (.call st w) s = busy)
    ∧ (pending → wordIs 2 0x1A w = true → cNohold w = false → exec (.tallyRead st w) s = busy)
    ∧ (pending → wordIs 1 0x01 w = true → cNohold w = false → exec (.wait (.tile st w)) s = busy)
    ∧ (pending → wordIs 1 0x06 w = true → cNohold w = false → exec (.fetchAdd (.tile st w)) s = busy)

/-- The seventeen HOME commands at the stirrup (R51, R141): one that nothing holds back takes a request number in flight and its request
waits for the link to the stall; a held one is marked so; nothing else changes. -/
def Obligations.HomeCommandsTakeARequestNumber : Prop :=
  ∀ (s : State) (st rid : Nat) (w : W32), IssuesAtOnce s st w → (stir s st).homeQ = [] → freeRid (stir s st) = some rid →
    let x := stir s st
    let r := homePacket st rid (sample s x w) notLeft
    let goes := fun (o : Host.Outcome State Fault Refusal) => Completes o fun t =>
      t.stirs = Tbl.set Stirrup.initial st { x with homeFly := x.homeFly ++ [{ rid := rid, held := !cNohold w, req := r }] } s.stirs
        ∧ t.tree = { s.tree with links := s.tree.links ++
            [{ link := st, prio := prioHome s.clk.tclk st, ready := s.clk.tclk, beats := 1, hop := scaled s 3,
               ev := homeArrival (.stall (stallOf st)) r }] }
        ∧ t = { s with stirs := t.stirs, tree := t.tree }
    (wordIs 1 0x00 w = true → goes (exec (.signal (.tile st w)) s))
    ∧ (wordIs 1 0x01 w = true → goes (exec (.wait (.tile st w)) s))
    ∧ (wordIs 1 0x02 w = true → goes (exec (.trywait (.tile st w)) s))
    ∧ (wordIs 1 0x03 w = true → goes (exec (.waitTo (.tile st w)) s))
    ∧ (wordIs 1 0x04 w = true → goes (exec (.semRead (.tile st w)) s))
    ∧ (wordIs 1 0x05 w = true → goes (exec (.set (.tile st w)) s))
    ∧ (wordIs 1 0x06 w = true → goes (exec (.fetchAdd (.tile st w)) s))
    ∧ (wordIs 1 0x07 w = true → goes (exec (.cas (.tile st w)) s))
    ∧ (wordIs 1 0x08 w = true → goes (exec (.fetchMax (.tile st w)) s))
    ∧ (wordIs 1 0x09 w = true → goes (exec (.fetchOr (.tile st w)) s))
    ∧ (wordIs 1 0x10 w = true → goes (exec (.post (.tile st w)) s))
    ∧ (wordIs 1 0x11 w = true → goes (exec (.acquire (.tile st w)) s))
    ∧ (wordIs 1 0x12 w = true → goes (exec (.tryacquire (.tile st w)) s))
    ∧ (wordIs 1 0x13 w = true → goes (exec (.acquirePri (.tile st w)) s))
    ∧ (wordIs 1 0x14 w = true → goes (exec (.postTag (.tile st w)) s))
    ∧ (wordIs 1 0x15 w = true → goes (exec (.acquireTag (.tile st w)) s))
    ∧ (wordIs 1 0x16 w = true → goes (exec (.level (.tile st w)) s))

/-- ARM, FLAG_POST and TALLY_READ (R52), and ABSTAIN, REJOIN, CURTAIN and MARK at the stirrup (R50, R52): one that nothing holds back is in
flight from now on, the second group posted, and its packet waits for the link to the stall, behind those that its tile gave before (R55);
nothing else changes. -/
def Obligations.ExactCommandsGoInFlight : Prop :=
  ∀ (s : State) (st : Nat) (w : W32), IssuesAtOnce s st w →
    let x := stir s st
    let c := sample s x w
    let goes := fun (f : ExactFly) (pkt : UpPkt) (o : Host.Outcome State Fault Refusal) => Completes o fun t =>
      t.stirs = Tbl.set Stirrup.initial st { x with exactFly := x.exactFly ++ [f] } s.stirs
        ∧ t.tree = { s.tree with links := s.tree.links ++
            [{ link := st, prio := prioIssue, ready := s.clk.tclk, beats := 1, hop := scaled s 3,
               ev := .partialArrival (.stall (stallOf st)) pkt }] }
        ∧ t = { s with stirs := t.stirs, tree := t.tree }
    let tally := goes { cmd := c, tally := true, held := !cNohold w, leftT := notLeft } (.tally (tallyPacket st c notLeft))
    let ctrl := goes { cmd := c, tally := false, held := false, leftT := notLeft } (.ctrl (ctrlPacket st c notLeft))
    (wordIs 2 0x18 w = true → tally (exec (.arm st w) s))
    ∧ (wordIs 2 0x19 w = true → tally (exec (.flagPost st w) s))
    ∧ (wordIs 2 0x1A w = true → tally (exec (.tallyRead st w) s))
    ∧ (wordIs 4 0 w = true → ctrl (exec (.abstain (.tile st w)) s))
    ∧ (wordIs 4 1 w = true → ctrl (exec (.rejoin (.tile st w)) s))
    ∧ (wordIs 4 2 w = true → ctrl (exec (.ctrlCurtain (.tile st w)) s))
    ∧ (wordIs 4 3 w = true → ctrl (exec (.mark (.tile st w)) s))

/-- FENCE (R50) is remembered with its SCOPE, and its tile is held until its condition holds, which is looked at when the reports of the
TCLK have been counted (R169); it writes no status and no result. QUEUED_COMMAND_ISSUE (R51, R52): a command that waited alone leaves as a
command written now would; with none waiting, nothing changes; while a curtain, a quiesce, a role change, the drain or a FENCE holds the
stirrup back, all stay queued. -/
def Obligations.FencesAndQueuedCommandsIssueInTurn : Prop :=
  ∀ (s : State) (st : Nat) (w : W32) (c : StirCmd), st < nStirrup →
    let x := stir s st
    let k := BitVec.ofNat 3 (cScope w)
    (wordIs 3 0 w = true → IssuesAtOnce s st w →
        exec (.fence st w) s = .next { s with stirs := Tbl.set Stirrup.initial st { x with fence := some k } s.stirs })
    ∧ holdCause s { x with fence := some k } = true
    ∧ settleFence { x with fence := some k } = (if fenceMet x k = true then { x with fence := none } else { x with fence := some k })
    ∧ (x.homeQ = [] → x.cmdQ = [] → exec (.queuedCommandIssue st) s = .next s)
    ∧ (x.homeQ = [] → mustQueue s x = true → exec (.queuedCommandIssue st) s = .next s)
    ∧ (x.homeQ = [] → x.cmdQ = [c] → cClass c.word = 2 → x.frozen = false → mustQueue s x = false → x.call = none →
        x.exactFly.length < 2 → stirrupCause (wAssigned x.role) c.word = 0 →
        Completes (exec (.queuedCommandIssue st) s) fun t =>
          t.tree = { s.tree with links := s.tree.links ++
            [{ link := st, prio := prioIssue, ready := s.clk.tclk, beats := 1, hop := scaled s 3,
               ev := .partialArrival (.stall (stallOf st)) (.tally (tallyPacket st c notLeft)) }] }
          ∧ (stir t st).exactFly = x.exactFly ++ [{ cmd := c, tally := true, held := cHeld c.word, leftT := notLeft }]
          ∧ (stir t st).cmdQ = []
          ∧ t = { s with stirs := t.stirs, tree := t.tree })

/-- MALFORMED_COMMAND and FREEZE_ORDER (R63, R64, R65): a word with a reserved CLASS freezes the tile with BAD_CLASS, one with an unlisted
OP with BAD_OP, whatever other cause the word shows; what waited in the stirrup is discarded, and nothing is sent. A frozen stirrup takes no
command: a write of any command word changes nothing. A freeze order freezes its stirrup with the named cause, discards the stirrup's own
queues, and every home or tally request that left it from the named TCLK on drops from its counts; nothing else changes. -/
def Obligations.FrozenTilesTakeNoCommand : Prop :=
  ∀ (s : State) (st cause fromT : Nat) (w : W32), st < nStirrup →
    let x := stir s st
    (x.frozen = false → x.iso = false → opListed (cClass w) (cOp w) = false → Completes (exec (.malformedCommand st w) s) fun t =>
      t.stirs = Tbl.set Stirrup.initial st
          { x with frozen := true, cause := if 5 ≤ cClass w then 1#4 else 2#4, homeQ := [], cmdQ := [] } s.stirs
        ∧ t.tree = s.tree
        ∧ t = { s with stirs := t.stirs, agenda := t.agenda, free := t.free })
    ∧ (x.frozen = true →
      (cClass w = 0 → opListed 0 (cOp w) = true → exec (.call st w) s = .next s)
      ∧ (wordIs 2 0x18 w = true → exec (.arm st w) s = .next s)
      ∧ (wordIs 3 0 w = true → exec (.fence st w) s = .next s)
      ∧ (wordIs 4 3 w = true → exec (.mark (.tile st w)) s = .next s)
      ∧ (wordIs 1 0 w = true → exec (.signal (.tile st w)) s = .next s)
      ∧ (opListed (cClass w) (cOp w) = false → exec (.malformedCommand st w) s = .next s))
    ∧ exec (.freezeOrder st cause fromT w) s = .next { s with
      stirs := Tbl.set Stirrup.initial st
        { x with frozen := true, cause := BitVec.ofNat 4 cause, homeQ := [], cmdQ := [],
                 homeFly := x.homeFly.filter fun f => f.req.leftT < fromT,
                 exactFly := x.exactFly.filter fun f => f.leftT < fromT } s.stirs }

/-- STIR_STAT, HOUSE_LO and STIR_PAY3 (R17, R47, R92, Tables STR-1 and STR-4): a read of STIR_STAT presents the status with POSTERR and
clears POSTERR; a read of HOUSE_LO presents the low word of house time and latches the high word; a write of STIR_PAY3 replaces payload word
3 and, while a quiescence call is pending, commits the set. Nothing else changes. -/
def Obligations.SyncWindowAccessesTakeEffect : Prop :=
  ∀ (s : State) (st : Nat) (v : W32) (c : PendCall), st < nStirrup →
    let x := stir s st
    exec (.stirStatRead st) s = .next { s with
        su := { s.su with rdata := (statWord x).setWidth 64 },
        stirs := Tbl.set Stirrup.initial st { x with posterr := false } s.stirs }
    ∧ exec (.houseLoRead st) s = .next { s with
        su := { s.su with rdata := ((houseNow s).setWidth 32).setWidth 64 },
        stirs := Tbl.set Stirrup.initial st { x with houseHi := (houseNow s >>> 32).setWidth 32 } s.stirs }
    ∧ (quiesceCall s x = false →
        exec (.payloadCommit st v) s = .next { s with
          stirs := Tbl.set Stirrup.initial st { x with pay := setPay x.pay 3 v } s.stirs })
    ∧ (x.call = some c → quiesceCall s x = true →
        exec (.payloadCommit st v) s = .next { s with
          stirs := Tbl.set Stirrup.initial st
            { x with pay := setPay x.pay 3 v, call := some { c with commit := setPay x.pay 3 v } } s.stirs })

/-- STIR_OUT (R46, Table STR-6): a remote write of scope 1, 2 or 3 adds one to its counter and a landing acknowledgement takes one off 5
TCLK after it is presented; scope 0 is ignored; an increment at 1,023 freezes the tile with FENCE_OVERFLOW (cause 5); an acknowledgement at
0 leaves the counter, is recorded as STRAY_ACK, and freezes nothing. -/
def Obligations.RemoteWriteCountersCount : Prop :=
  ∀ (s : State) (st : Nat) (k : BitVec 2), st < nStirrup →
    let x := stir s st
    (k = 0#2 → exec (.remoteWriteReport st k) s = .next s ∧ ∀ e, exec (.landAck st k e) s = .next s)
    ∧ (k ≠ 0#2 → (outOf k x).toNat ≠ 1023 →
        exec (.remoteWriteReport st k) s = .next { s with stirs := Tbl.set Stirrup.initial st (incOut k x) s.stirs })
    ∧ (k ≠ 0#2 → (outOf k x).toNat = 1023 → x.frozen = false →
        Completes (exec (.remoteWriteReport st k) s) fun t =>
          t.stirs = Tbl.set Stirrup.initial st { x with frozen := true, cause := 5#4, homeQ := [], cmdQ := [] } s.stirs)
    ∧ (k ≠ 0#2 → exec (.landAck st k false) s = .next { s with
          agenda := s.agenda ++ [{ clk := .tclk, due := s.clk.tclk + 5, ev := .landAck st k true }] })
    ∧ (k ≠ 0#2 → outOf k x ≠ 0 →
        exec (.landAck st k true) s = .next { s with stirs := Tbl.set Stirrup.initial st (decOut k x) s.stirs })
    ∧ (k ≠ 0#2 → outOf k x = 0 →
        Completes (exec (.landAck st k true) s) fun t =>
          Told t s 0x04 1 st (some (wPart x.role)) [k.toNat] ∧ t = { s with agenda := t.agenda, free := t.free })

/-- ROLE_STAMP_WRITE (R61): the waiting stamp is written once no call but a boot call is pending, no fence waits, HOMEOUT is 0 and no
exact-class command is in flight; before that nothing changes. -/
def Obligations.RoleStampWaitsForQuiet : Prop :=
  ∀ (s : State) (st : Nat) (r : W32), st < nStirrup → (stir s st).newRole = some r →
    let x := stir s st
    (roleReady x = true → Completes (exec (.roleStampWrite st) s) fun t =>
        t.stirs = Tbl.set Stirrup.initial st { x with role := r, newRole := none, roleAt := some s.clk.tclk } s.stirs
          ∧ t = { s with stirs := t.stirs, agenda := t.agenda })
    ∧ ((x.call.any fun c => !c.boot) = true ∨ x.fence.isSome = true ∨ homeout x ≠ 0 ∨ x.exactFly ≠ [] →
        exec (.roleStampWrite st) s = .next s)

/-! ## The tree: packets on their way up -/

/-- PARTIAL_ARRIVAL (R77, R81) of a combined partial at a barn or half root in service: one whose GEN names the open epoch, of which nothing
has been forwarded and from whose child nothing has come, joins what the node holds of that epoch, and the node's epoch stays; one whose GEN
matches neither the open epoch nor the next is discarded: no node changes, nothing is sent, and it counts as a stale drop of the partition
that owns the slot. No object, stirrup or tally changes. -/
def Obligations.PartialsJoinOrAreStale : Prop :=
  ∀ (s : State) (at_ : Place) (p : Partial), at_ ∈ (List.range 18).map Place.barn ++ [.half 0, .half 1] →
    p.slot < 512 → outOfService s at_ = false → isCount s p.slot = false →
    let ns := node s at_ p.slot
    (p.gen = ns.epoch.setWidth 6 → ns.sent = false → p.child ∉ ns.cur.kids → Completes (exec (.partialArrival at_ (.call p)) s) fun t =>
        (node t at_ p.slot).cur = ns.cur.add (isQuiesce s p.slot) s.clk.tclk p.child p
          ∧ (node t at_ p.slot).nxt = ns.nxt
          ∧ (node t at_ p.slot).epoch = ns.epoch
          ∧ t = { s with tree := t.tree, agenda := t.agenda, fab := t.fab })
    ∧ (p.gen ≠ ns.epoch.setWidth 6 → p.gen ≠ (ns.epoch + 1).setWidth 6 → Completes (exec (.partialArrival at_ (.call p)) s) fun t =>
        t.tree = s.tree ∧ t.parts = (count ((slotOwner s p.slot).getD 0) 12 1 s).parts
          ∧ t = { s with parts := t.parts, agenda := t.agenda, free := t.free })

/-- Home and tally requests on their way (R145, R158, R178): above a barn without an open window for its semaphore a home request waits for
the barn's link; from a half root it takes the home port's link; at the die root it crosses into ECLK, usable at the second edge at the
earliest; a tally request at a barn waits for the barn's link. -/
def Obligations.RequestsRiseToTheirUnits : Prop :=
  ∀ (s : State) (r : HomeReq) (y : TallyReq) (b h : Nat), b < 18 → h < 2 → r.obj < 8192 → r.part < 64 → y.tally < 1024 → y.part < 64 →
    outOfService s (.barn b) = false →
    ((r.tok = true ∨ findWindow s (.barn b) r.obj = none) →
      exec (.partialArrival (.barn b) (.home r)) s = .next { s with tree := { s.tree with links := s.tree.links ++
        [{ link := 2200 + b, prio := prioHome s.clk.tclk r.src, ready := s.clk.tclk, beats := 1, hop := scaled s 7,
           ev := homeArrival (.half (halfOf b)) r }] } })
    ∧ exec (.partialArrival (.barn b) (.tally y)) s = .next { s with tree := { s.tree with links := s.tree.links ++
        [{ link := 2200 + b, prio := prioTally y.tally y.src, ready := s.clk.tclk, beats := 1, hop := scaled s 7,
           ev := .partialArrival (.half (halfOf b)) (.tally y) }] } }
    ∧ ((r.tok = true ∨ findWindow s (.half h) r.obj = none) →
      exec (.partialArrival (.half h) (.home r)) s = .next { s with tree := { s.tree with links := s.tree.links ++
        [{ link := 8000 + h, prio := prioHome s.clk.tclk r.src, ready := s.clk.tclk, beats := 1, hop := scaled s 4,
           ev := .partialArrival .die (.home r) }] } })
    ∧ Completes (exec (.partialArrival .die (.home r)) s) fun t =>
        (∃ c ∈ t.home.crossing, s.clk.eclk + 2 ≤ c.due ∧ t.home = { s.home with
            crossing := s.home.crossing ++ [{ due := c.due, req := r, entry := none }] })
          ∧ t = { s with home := t.home, agenda := t.agenda, free := t.free }

/-- SIGNAL_COMBINING and MERGE_WINDOW_CLOSE (R158): the first SIGNAL for a semaphore opens a window of 4 TCLK in a free record; a further
one adds its count; without a free record it goes on unmerged; a window that took one SIGNAL sends it unmerged and frees its record, one
that took more sends one merged SIGNAL of their sum. -/
def Obligations.SignalsMergeInAWindow : Prop :=
  ∀ (s : State) (b i : Nat) (r : HomeReq) (m : MergeRec), b < 18 → r.obj < 8192 → outOfService s (.barn b) = false →
    let at_ := Place.barn b
    (findWindow s at_ r.obj = none → freeRecord s at_ = some i →
      exec (.signalCombining at_ r) s = .next { s with
        tree := { s.tree with merges := s.tree.merges ++
          [{ node := 126 + b, idx := i, sem := r.obj, sum := signalCount r, kids := [(r.src, r.rid, r.merged, r.mrec)],
             first := r, sent := false }] },
        agenda := s.agenda ++ [{ clk := .tclk, due := s.clk.tclk + 4, ev := .mergeWindowClose at_ i }] })
    ∧ (findWindow s at_ r.obj = some m →
      exec (.signalCombining at_ r) s = .next { s with tree := { s.tree with merges := s.tree.merges.map fun x =>
        if x.node == m.node && x.idx == m.idx then
          { m with sum := m.sum + signalCount r, kids := m.kids ++ [(r.src, r.rid, r.merged, r.mrec)] }
        else x } })
    ∧ (findWindow s at_ r.obj = none → freeRecord s at_ = none →
      exec (.signalCombining at_ r) s = .next { s with tree := { s.tree with links := s.tree.links ++
        [{ link := 2200 + b, prio := prioHome s.clk.tclk r.src, ready := s.clk.tclk, beats := 1, hop := scaled s 7,
           ev := homeArrival (.half (halfOf b)) r }] } })
    ∧ (s.tree.merges.find? (fun x => x.node == 126 + b && x.idx == i && !x.sent) = some m →
      Completes (exec (.mergeWindowClose at_ i) s) fun t =>
        let others := s.tree.merges.filter fun x => !(x.node == m.node && x.idx == m.idx)
        let merged : HomeReq := { mergeSem m.first m.sum with
          merged := true, mlevel := true, mrec := m.idx, src := m.kids.foldl (fun a k => min a k.1) m.first.src, rid := 0, nohold := true }
        let out := if m.kids.length ≤ 1 then m.first else merged
        t.tree = { s.tree with
          merges := if m.kids.length ≤ 1 then others else others ++ [{ m with sent := true }],
          links := s.tree.links ++ [{ link := 2200 + b, prio := prioHome s.clk.tclk out.src, ready := s.clk.tclk, beats := 1,
                                      hop := scaled s 7, ev := homeArrival (.half (halfOf b)) out }] }
        ∧ t = { s with tree := t.tree, agenda := t.agenda })

/-- IDLE, ACTIVE, ACTIVE_ACKNOWLEDGEMENT and REARM (R79, R81, R91, R92, R337): an IDLE that names the open epoch or the next takes its child
out of the expected set from that epoch, unless the node has forwarded that epoch without it; an ACTIVE at a node that is not idle itself
takes the child in again and is acknowledged at once with the first epoch not yet forwarded; one whose GEN matches neither epoch is
discarded. A node told a later epoch than the next opens that epoch, what it held for the earlier ones takes it, and it waits no longer; a
REARM that names the open epoch of a barn opens a new round of it with nothing held, one that does not changes nothing, and a stirrup whose
call on the slot is pending issues the round at once with the payload most recently committed and its TAG, its state unchanged. -/
def Obligations.EpochsMoveWithIdleActiveAndRearm : Prop :=
  ∀ (s : State) (st b slot k : Nat) (g : BitVec 6) (e : W32) (i : W32) (stalls : List Nat) (c : PendCall), st < nStirrup → b < 18 → slot < 512 →
    outOfService s (.barn b) = false →
    let at_ := Place.barn b
    let ns := node s at_ slot
    let sampled := { c.cmd with tag := (stir s st).tag, at_ := s.clk.tclk }
    let stale := fun (o : Host.Outcome State Fault Refusal) => Completes o fun t =>
      t.tree = s.tree ∧ t.parts = (count ((slotOwner s slot).getD 0) 12 1 s).parts
        ∧ t = { s with parts := t.parts, agenda := t.agenda, free := t.free }
    (genEpoch ns g = some i → leftOut ns k i = false → Completes (exec (.idle at_ slot k g) s) fun t =>
        (node t at_ slot).idle = (ns.idle.filter fun j => j.1 != k) ++ [(k, i)]
          ∧ (node t at_ slot).cur = ns.cur ∧ (node t at_ slot).epoch = ns.epoch
          ∧ t = { s with tree := t.tree, agenda := t.agenda, fab := t.fab })
    ∧ ((genEpoch ns g).isSome = true → ns.idleSent = false → ns.ackWait = false →
        exec (.active at_ slot k g) s = .next { s with tree := { s.tree with
          nodes := Tbl.set NodeSlot.none (nodeKey at_ slot) { ns with idle := ns.idle.filter fun j => j.1 != k } s.tree.nodes,
          links := s.tree.links ++
            [{ link := 4000 + 2000 + k, prio := prioSlot slot 0, ready := s.clk.tclk, beats := 1, hop := scaled s 5,
               ev := .activeAcknowledgement (.stall k) slot (firstUnsent ns) }] } })
    ∧ ((genEpoch ns g = none ∨ (genEpoch ns g = some i ∧ leftOut ns k i = true)) → stale (exec (.idle at_ slot k g) s))
    ∧ (genEpoch ns g = none → stale (exec (.active at_ slot k g) s))
    ∧ (notBefore e ns.epoch = false → e ≠ ns.epoch + 1 → e ≠ 0#32 → ns.idleSent = false →
      Completes (exec (.activeAcknowledgement at_ slot e) s) fun t =>
        (node t at_ slot).epoch = e
          ∧ (node t at_ slot).cur = joinHold (isQuiesce s slot) s.clk.tclk ns.cur ns.nxt
          ∧ (node t at_ slot).nxt = Hold.none
          ∧ (node t at_ slot).ackWait = false
          ∧ t = { s with tree := t.tree, agenda := t.agenda, fab := t.fab })
    ∧ ((stir s st).call = some c → c.slot = slot → c.boot = false → (stir s st).frozen = false →
      exec (.rearm (.stirrup st) slot g stalls) s = .next { s with tree := { s.tree with links := s.tree.links ++
        [{ link := st, prio := prioSlot slot 2, ready := s.clk.tclk, beats := 1, hop := scaled s 3,
           ev := .partialArrival (.stall (stallOf st)) (.call (callPacket st sampled c.commit s.clk.tclk)) }] } })
    ∧ (0 < s.clk.tclk → isCount s slot = false → g = ns.epoch.setWidth 6 → Completes (exec (.rearm at_ slot g stalls) s) fun t =>
        (node t at_ slot).cur = Hold.none ∧ (node t at_ slot).epoch = ns.epoch
          ∧ t = { s with tree := t.tree, agenda := t.agenda, fab := t.fab })
    ∧ (g ≠ ns.epoch.setWidth 6 → exec (.rearm at_ slot g stalls) s = .next s)

/-- ABSTAIN and REJOIN at the stall (R84, R86): a member's ABSTAIN replaces any it had, from its next epoch on and for the epochs it names;
REJOIN ends it. The node's epoch and what it holds stay. -/
def Obligations.AbstentionsAtTheStall : Prop :=
  ∀ (s : State) (c : CtrlPkt), c.src < nStirrup → s.tree.frozen.contains c.src = false → wAssigned (stir s c.src).role = true →
    let slot := cId c.word
    let at_ := Place.stall (stallOf c.src)
    let ns := node s at_ slot
    stallCauseSlot s c.src slot false 0 0 = 0 → inReset s slot = false → isCount s slot = false →
    (wordIs 4 0 c.word = true → Completes (exec (.abstain (.unit c)) s) fun t =>
        (node t at_ slot).abst = (ns.abst.filter fun a => a.member != c.src)
            ++ [{ member := c.src, from_ := nextEpoch ns c.src, k := bitsN c.pay0 15 0, asleep := false }]
          ∧ (node t at_ slot).cur = ns.cur ∧ (node t at_ slot).epoch = ns.epoch
          ∧ t = { s with stirs := t.stirs, tree := t.tree, agenda := t.agenda, fab := t.fab })
    ∧ (wordIs 4 1 c.word = true → ns.epoch ≠ 0 → Completes (exec (.rejoin (.unit c)) s) fun t =>
        (node t at_ slot).abst = (ns.abst.filter fun a => a.member != c.src)
          ∧ (node t at_ slot).cur = ns.cur ∧ (node t at_ slot).epoch = ns.epoch
          ∧ t = { s with stirs := t.stirs, tree := t.tree, agenda := t.agenda, fab := t.fab })

/-- CURTAIN and MARK at the stall (R246, R279, R282, R288): with RT_TILECUR 1 a tile's CURTAIN sets the TILE cause of its own partition and
raises the curtain 20 TCLK after it left; with RT_TILECUR 0 it completes as a posted refusal, counted, and the curtain stays; a MARK forms
one record of its partition in SMALL mode, which crosses to the spill buffer, and none in another mode. -/
def Obligations.TileCurtainNeedsItsRight : Prop :=
  ∀ (s : State) (c : CtrlPkt), c.src < nStirrup → s.tree.frozen.contains c.src = false → wAssigned (stir s c.src).role = true →
    let p := shadowPart s c.src
    (wordIs 4 2 c.word = true → bitB (reg s (partKey p 0)) 23 = true → Completes (exec (.ctrlCurtain (.unit c)) s) fun t =>
        bitB (part t p).causes 2 = true
          ∧ { clk := .tclk, due := max s.clk.tclk (c.leftT + 20), ev := .curtainRaise p .tile true } ∈ t.agenda
          ∧ t.objs = s.objs ∧ t.tree = s.tree)
    ∧ (wordIs 4 2 c.word = true → bitB (reg s (partKey p 0)) 23 = false → (stir s c.src).frozen = false →
        Completes (exec (.ctrlCurtain (.unit c)) s) fun t =>
        (postSeen (stir t c.src)).posterr = true ∧ t.parts = (count p 4 1 s).parts
          ∧ t = { s with stirs := t.stirs, parts := t.parts, agenda := t.agenda, free := t.free })
    ∧ (wordIs 4 3 c.word = true → traceMode s ≠ 2 → Completes (exec (.mark (.unit c)) s) fun t =>
        t = { s with stirs := t.stirs, agenda := t.agenda })
    ∧ (wordIs 4 3 c.word = true → traceMode s = 2 → (part s p).shareEff ≠ 0 → Completes (exec (.mark (.unit c)) s) fun t =>
        let fields := traceName s c.src % 2 ^ 11 * 2 ^ 107 + cId c.word % 2 ^ 13 * 2 ^ 94 + c.pay0.toNat * 2 ^ 62 + traceTime (houseNow s)
        (∃ c ∈ t.obs.capture, s.clk.eclk + 2 ≤ c.due ∧ t.obs = { s.obs with capture := s.obs.capture ++
            [{ due := c.due, item := { part := p, reserved := false, bits := traceWord 4 p fields, bad := false } }] })
          ∧ t = { s with stirs := t.stirs, agenda := t.agenda, obs := t.obs, free := t.free })

/-! ## The home: semaphores, token pools, waiters -/

/-- SEM_READ, SET, FETCH_ADD, CAS, FETCH_MAX and FETCH_OR at the home (R147, R148, Table HOM-4): each answers the value before with OK and
leaves the value its row gives; SEM_READ leaves the value and answers the number of waiters too. SIGNAL and POST (R147, R148, R152): the
count rises by n, saturating at 0xFFFF_FFFF; a merged SIGNAL adds its 64-bit sum; a POST answers the new count; a POST to a tagged pool is
refused and leaves every object. Outside the home nothing but counters changes. While the partition is being reset all of them end in
ABORTED and leave every object (R163, R214). -/
def Obligations.SemaphoreValuesFollowTheirOperation : Prop :=
  ∀ (s : State) (r : HomeReq), r.src < nStirrup → reqOk r = true →
    let o := obj s r.tok r.obj
    let a := pay0 r.pay
    let inReset := (part s r.part).state = .resetting
    let rmw := fun (v : W32) (out : Host.Outcome State Fault Refusal) => Completes out fun t =>
      t.objs = objsWith s r v ∧ Answers t r stOk (resWords o.val 0 0) ∧ HomeFrame t s
    let aborted := fun (out : Host.Outcome State Fault Refusal) => Completes out fun t =>
      t.objs = s.objs ∧ Answers t r stAborted 0 ∧ HomeFrame t s
    let sum := fun (n : Nat) => BitVec.ofNat 32 (min (o.val.toNat + n) 0xFFFF_FFFF)
    (r.op = 0x04#5 → ¬ inReset → Completes (exec (.semRead (.unit r)) s) fun t =>
        t.objs = s.objs ∧ Answers t r stOk (resWords o.val (BitVec.ofNat 32 o.fifo.length) 0) ∧ HomeFrame t s)
    ∧ (r.op = 0x05#5 → ¬ inReset → rmw a (exec (.set (.unit r)) s))
    ∧ (r.op = 0x06#5 → ¬ inReset → rmw (o.val + a) (exec (.fetchAdd (.unit r)) s))
    ∧ (r.op = 0x07#5 → ¬ inReset → rmw (if o.val = a then pay1 r.pay else o.val) (exec (.cas (.unit r)) s))
    ∧ (r.op = 0x08#5 → ¬ inReset → rmw (if o.val.toNat < a.toNat then a else o.val) (exec (.fetchMax (.unit r)) s))
    ∧ (r.op = 0x09#5 → ¬ inReset → rmw (o.val ||| a) (exec (.fetchOr (.unit r)) s))
    ∧ (r.op = 0x00#5 → ¬ inReset → Completes (exec (.signal (.unit r)) s) fun t =>
        t.objs = objsWith s r (sum (if r.merged then bitsN r.pay 63 0 else bitsN r.pay 31 0)) ∧ Answers t r stOk 0 ∧ HomeFrame t s)
    ∧ (r.op = 0x10#5 → ¬ inReset → r.tok = true → tagged s r.obj = true → Completes (exec (.post (.unit r)) s) fun t =>
        t.objs = s.objs ∧ Answers t r stRefused 0 ∧ HomeFrame t s)
    ∧ (r.op = 0x10#5 → ¬ inReset → r.tok = true → tagged s r.obj = false → Completes (exec (.post (.unit r)) s) fun t =>
        t.objs = objsWith s r (sum a.toNat) ∧ HomeFrame t s
          ∧ Answers t r stOk (resWords (Tbl.get Obj.none (objsWith s r (sum a.toNat)) (objIx r.tok r.obj)).val 0 0))
    ∧ (inReset → (r.op = 0x00#5 → aborted (exec (.signal (.unit r)) s)) ∧ (r.op = 0x06#5 → aborted (exec (.fetchAdd (.unit r)) s))
        ∧ (r.op = 0x10#5 → aborted (exec (.post (.unit r)) s)))

/-- WAIT, TRYWAIT, WAIT_TO, ACQUIRE, TRYACQUIRE and ACQUIRE_PRI with enough there (R147, R152, R154): with no waiter queued and the count at
least n, the count falls by n at once and the answer is OK with what is left (ACQUIRE_PRI with its pool besides); n = 0 answers the count
and takes nothing; TRYWAIT and TRYACQUIRE answer EMPTY with the count where it cannot be taken. A WAIT or ACQUIRE that cannot take its count
(R155) takes a free entry, which joins the tail of the object's FIFO under its next sequence number; the value stays and nothing is
answered. -/
def Obligations.CountsAreTakenOrWaitedFor : Prop :=
  ∀ (s : State) (r : HomeReq) (e : Nat),
    r.src < nStirrup → reqOk r = true → (part s r.part).state ≠ .resetting → (r.tok = true → tagged s r.obj = false) →
    let o := obj s r.tok r.obj
    let n := pay0 r.pay
    let outs : List (BitVec 5 × Bool × Host.Outcome State Fault Refusal) :=
      [(0x01#5, false, exec (.wait (.unit r)) s), (0x02#5, false, exec (.trywait (.unit r)) s), (0x03#5, false, exec (.waitTo (.unit r)) s),
       (0x11#5, true, exec (.acquire (.unit r)) s), (0x12#5, true, exec (.tryacquire (.unit r)) s)]
    let short := n ≠ 0 ∧ (o.fifo ≠ [] ∨ o.val.toNat < n.toNat)
    let empty := fun (out : Host.Outcome State Fault Refusal) => Completes out fun t =>
      t.objs = s.objs ∧ Answers t r stEmpty (resWords o.val 0 0) ∧ HomeFrame t s
    let queued := fun (e : Nat) (out : Host.Outcome State Fault Refusal) => Completes out fun t =>
      t.objs = Tbl.set Obj.none (objIx r.tok r.obj) { o with fifo := o.fifo ++ [(e, o.seq)], seq := o.seq + 1 } s.objs ∧ HomeFrame t s
    (∀ q ∈ outs, r.op = q.1 → r.tok = q.2.1 → n ≠ 0 → o.fifo = [] → n.toNat ≤ o.val.toNat → Completes q.2.2 fun t =>
        t.objs = objsWith s r (o.val - n) ∧ Answers t r stOk (resWords (o.val - n) 0 0) ∧ HomeFrame t s)
    ∧ (∀ q ∈ outs, r.op = q.1 → r.tok = q.2.1 → n = 0 → Completes q.2.2 fun t =>
        t.objs = s.objs ∧ Answers t r stOk (resWords o.val 0 0) ∧ HomeFrame t s)
    ∧ (r.op = 0x13#5 → r.tok = true → tagged s (r.obj + 1) = false → n ≠ 0 → o.fifo = [] → n.toNat ≤ o.val.toNat →
        Completes (exec (.acquirePri (.unit r)) s) fun t =>
        t.objs = objsWith s r (o.val - n) ∧ Answers t r stOk (resWords (o.val - n) (BitVec.ofNat 32 r.obj) 0) ∧ HomeFrame t s)
    ∧ (short → r.op = 0x02#5 → r.tok = false → empty (exec (.trywait (.unit r)) s))
    ∧ (short → r.op = 0x12#5 → r.tok = true → empty (exec (.tryacquire (.unit r)) s))
    ∧ (short → waitersOf s r.part < waiterQuota s r.part → freeEntry s = some e →
        (r.op = 0x01#5 → r.tok = false → queued e (exec (.wait (.unit r)) s))
        ∧ (r.op = 0x11#5 → r.tok = true → queued e (exec (.acquire (.unit r)) s)))

/-- ACQUIRE_PRI_FORWARD, the second step of ACQUIRE_PRI (R154), of a waiter still queued: with no waiter at TOKEN + 1 and enough there, it
takes its count there, is answered with TOKEN + 1 and leaves the FIFO of TOKEN; otherwise it joins that FIFO's tail too. One whose waiter is
gone does nothing. -/
def Obligations.AcquirePriSecondStep : Prop :=
  ∀ (s : State) (r : HomeReq) (e : Nat) (sq : W32), r.src < nStirrup → r.tok = true → r.obj < 2047 → r.part < 64 → e < 16384 →
    let w := waiter s e
    let i := r.obj + 1
    let o := obj s true i
    let o1 := obj s true r.obj
    (w.req ≠ r → hasPass s true i = false → exec (.acquirePriForward r e) s = .next s)
    ∧ ((part s r.part).state ≠ .resetting → w.req = r → w.kept = false → w.shadow = false → w.links = [(true, r.obj, sq)] →
        o1.fifo.any (fun f => f.1 == e) = true →
        o.fifo = [] → w.count.toNat ≤ o.val.toNat → 0 < w.count.toNat → Completes (exec (.acquirePriForward r e) s) fun t =>
          t.objs = Tbl.set Obj.none (objIx true r.obj) { o1 with fifo := o1.fifo.filter fun f => f.1 != e }
              (Tbl.set Obj.none (objIx true i) { o with val := o.val - w.count } s.objs)
            ∧ Answers t r stOk (resWords (o.val - w.count) (BitVec.ofNat 32 i) 0) ∧ HomeFrame t s)
    ∧ ((part s r.part).state ≠ .resetting → w.req = r → w.kept = false → w.shadow = false → (o.fifo ≠ [] ∨ o.val.toNat < w.count.toNat) →
        Completes (exec (.acquirePriForward r e) s) fun t =>
          obj t true i = { o with fifo := o.fifo ++ [(e, o.seq)], seq := o.seq + 1 } ∧ HomeFrame t s)

/-- POST_TAG, ACQUIRE_TAG and LEVEL (R153, Table HOM-5): a tagged pool below its capacity takes a tag at its tail and counts one more;
ACQUIRE_TAG with no waiter takes the oldest tag and answers it; with no tag and POLL it answers EMPTY; LEVEL answers the count, the number
of waiters and the oldest tag, and changes no object; an untagged pool refuses POST_TAG and ACQUIRE_TAG. -/
def Obligations.TaggedPoolsKeepTheirOrder : Prop :=
  ∀ (s : State) (r : HomeReq) (tag : W32) (l : List W32),
    r.src < nStirrup → r.tok = true → r.obj < 2048 → r.part < 64 → (part s r.part).state ≠ .resetting →
    let o := obj s true r.obj
    let put := fun (t : State) (x : Obj) => t.objs = Tbl.set Obj.none (objIx true r.obj) x s.objs
    (r.op = 0x14#5 → tagged s r.obj = true → o.val.toNat < tagCap s r.obj → Completes (exec (.postTag (.unit r)) s) fun t =>
        put t { o with tags := o.tags ++ [pay0 r.pay], val := o.val + 1 } ∧ Answers t r stOk (resWords (o.val + 1) 0 0) ∧ HomeFrame t s)
    ∧ (r.op = 0x15#5 → tagged s r.obj = true → o.fifo = [] → o.tags = tag :: l → Completes (exec (.acquireTag (.unit r)) s) fun t =>
        put t { o with tags := l, val := o.val - 1 } ∧ Answers t r stOk (resWords tag (o.val - 1) 0) ∧ HomeFrame t s)
    ∧ (r.op = 0x15#5 → tagged s r.obj = true → o.tags = [] → bitB (pay1 r.pay) 0 = true → Completes (exec (.acquireTag (.unit r)) s) fun t =>
        t.objs = s.objs ∧ Answers t r stEmpty 0 ∧ HomeFrame t s)
    ∧ (r.op = 0x16#5 → Completes (exec (.level (.unit r)) s) fun t =>
        t.objs = s.objs ∧ HomeFrame t s
          ∧ Answers t r stOk (resWords o.val (BitVec.ofNat 32 o.fifo.length) (if tagged s r.obj then o.tags.headD 0 else 0)))
    ∧ (tagged s r.obj = false →
        (r.op = 0x14#5 → Completes (exec (.postTag (.unit r)) s) fun t => t.objs = s.objs ∧ Answers t r stRefused 0 ∧ HomeFrame t s)
        ∧ (r.op = 0x15#5 → Completes (exec (.acquireTag (.unit r)) s) fun t => t.objs = s.objs ∧ Answers t r stRefused 0 ∧ HomeFrame t s))

/-- HOME_REQ_ENTRY and HOME_PICK (R140, R142, R149): the requests whose crossing has come leave it, and one that came alone stands last in
the input of its object's pipeline; the partition whose reserved ECLK it is has its next request picked, which takes effect 3 ECLK later; a
pipeline with nothing ready picks nothing. -/
def Obligations.RequestsEnterAndArePicked : Prop :=
  ∀ (s : State) (pipe : Nat) (c : Crossing) (it : HomeItem), pipe < 4 →
    let p := s.clk.eclk % 64
    (s.home.crossing = [c] → c.due ≤ s.clk.eclk → homeAborted s c.req = false → Completes (exec .homeReqEntry s) fun t =>
        t.home.crossing = []
          ∧ t.home.input = Tbl.set [] (pipeOf (itemObj ⟨c.req, c.entry⟩)) (inputOf s (pipeOf (itemObj ⟨c.req, c.entry⟩)) ++ [⟨c.req, c.entry⟩])
              s.home.input
          ∧ t = { s with home := t.home })
    ∧ (Tbl.get 0 s.home.lastPick pipe ≠ s.clk.eclk + 1 → isolated s 3 pipe = false → partReady s pipe p = true →
       undoReady s p pipe = false → itemFor s pipe p = some it → Completes (exec (.homePick pipe) s) fun t =>
        t.agenda = s.agenda ++ [{ clk := .eclk, due := s.clk.eclk + 3, ev := effectInstr it }]
          ∧ t.home.input = Tbl.set [] pipe ((inputOf s pipe).erase it) s.home.input
          ∧ t = { s with home := t.home, agenda := t.agenda })
    ∧ (readyParts s pipe = [] → Completes (exec (.homePick pipe) s) fun t =>
        t.agenda = s.agenda ∧ t.home.input = s.home.input ∧ t = { s with home := t.home })

/-- WAKE_PASS, WAITER_EXPIRY and WAITER_REMOVAL (R64, R149, R151, R157): in a pass the head waiter whose deadline has not passed takes its
count as soon as it is there, and is answered; a pass over an empty FIFO ends; an expired waiter outside a curtain and an undo leaves its
FIFO and is answered with TIMEOUT and the value, which stays; the one waiter of a frozen stirrup leaves its FIFO, whose other waiters stay
in order, and is answered with ABORTED; a stirrup without waiters changes nothing. -/
def Obligations.WaitersWakeExpireAndAreRemoved : Prop :=
  ∀ (s : State) (st i e : Nat) (sq : W32) (l : List (Nat × W32)), st < nStirrup → i < 8192 → e < 16384 →
    let w := waiter s e
    let o := obj s false i
    let p := passOwner s false i
    let mine := s.waiters.filter fun x => x.2.req.src == st && !x.2.kept
    let queued := journalOpen s w.req.part = false ∧ w.req.src < nStirrup ∧ w.shadow = false ∧ w.kept = false ∧ w.links = [(false, i, sq)]
      ∧ o.fifo = (e, sq) :: l ∧ (∀ x ∈ l, x.1 ≠ e) ∧ o.seq ≠ 0
    let left := fun (v : W32) (status : BitVec 5) (pay : W128) (out : Host.Outcome State Fault Refusal) => Completes out fun t =>
      obj t false i = { o with val := v, fifo := l } ∧ Answers t w.req status pay ∧ t.stirs = s.stirs ∧ t.tree = s.tree ∧ t.force = s.force
    (o.fifo = [] → covered s p = false → undoHolds s p i = false → Completes (exec (.wakePass false i) s) fun t =>
        hasPass t false i = false ∧ t = { s with home := t.home })
    ∧ (queued → covered s p = false → undoHolds s p i = false → w.deadline = none → w.count.toNat ≤ o.val.toNat →
        left (o.val - w.count) stOk (resWords (o.val - w.count) 0 0) (exec (.wakePass false i) s))
    ∧ (queued → Tbl.has s.waiters e = true → expired s w = true → covered s w.req.part = false → undoHolds s w.req.part i = false →
        left o.val stTimeout (resWords o.val 0 0) (exec (.waiterExpiry e) s))
    ∧ (mine = [] → exec (.waiterRemoval st true) s = .next s)
    ∧ (queued → mine = [(e, w)] → left o.val stAborted 0 (exec (.waiterRemoval st true) s))

/-- BUCKET_REFILL, POLL_RESEND and HOME_RSP (R142, R146, R156, R247, R261): a refill adds each partition's rate up to 16 times its burst; a
polled tile request leaves again under its RID, and one no longer in flight is dropped; while its partition is being quiesced or is QUIESCED
it waits (log 90); a response on its way down takes the next link, and at its stirrup a held request's result and status are written and its
RID is free. -/
def Obligations.ResponsesReachTheirStirrup : Prop :=
  ∀ (s : State) (r : HomeReq) (y : HomeRsp) (f : HomeFly) (p : Nat),
    let x := stir s r.src
    let again := { r with poll := true, leftT := notLeft }
    let ours := reqOk r = true ∧ r.src < nStirrup
    let live := ours ∧ x.frozen = false ∧ f ∈ x.homeFly ∧ f.rid = r.rid
    (livePartitions s = [p] → (part s p).rateEff = 0 → exec .bucketRefill s = .next s)
    ∧ (livePartitions s = [p] → (part s p).rateEff ≠ 0 → exec .bucketRefill s =
        .next (setBucket p (min (bucketOf s p + (part s p).rateEff) (16 * (part s p).burstEff)) s))
    ∧ (ours → x.homeFly.all (fun g => g.rid != r.rid) = true → exec (.pollResend r) s = .next s)
    ∧ (live → stillPart s x = true → exec (.pollResend r) s = .next { s with
        agenda := s.agenda ++ [{ clk := .tclk, due := s.clk.tclk + 1, ev := .pollResend r }] })
    ∧ (live → stillPart s x = false → exec (.pollResend r) s = .next { s with
        stirs := Tbl.set Stirrup.initial r.src
          { x with homeFly := x.homeFly.map fun g => if g.rid = r.rid then { g with req := again } else g } s.stirs,
        tree := { s.tree with links := s.tree.links ++
            [{ link := r.src, prio := prioHome s.clk.tclk r.src, ready := s.clk.tclk, beats := 1, hop := scaled s 3,
               ev := homeArrival (.stall (stallOf r.src)) again }] } })
    ∧ (y.dest < nStirrup → exec (.homeRsp .die y) s = .next { s with tree := { s.tree with links := s.tree.links ++
        [{ link := 8010 + y.dest / 864, prio := prioHome s.clk.tclk y.dest, ready := s.clk.tclk, beats := 1, hop := scaled s 4,
           ev := .homeRsp (.half (y.dest / 864)) y }] } })
    ∧ (y.dest < nStirrup → y.poll = false → wAssigned (stir s y.dest).role = true → (stir s y.dest).homeFly = [f] →
        f.rid = y.rid → f.held = true → (stir s y.dest).frozen = false →
        stampIs (stir s y.dest) y.role = true → (stir s y.dest).cmdQ = [] → (stir s y.dest).homeQ = [] → (stir s y.dest).newRole = none →
        exec (.homeRsp (.stirrup y.dest) y) s = .next { s with
          stirs := Tbl.set Stirrup.initial y.dest { stir s y.dest with homeFly := [], res := y.pay, status := y.status } s.stirs })

/-- UNDO and UNDO_COMPLETE (R219, R221): a pipeline's undo step takes its last journal entry back, a VALUE entry restoring the value before;
an undo with no entry left in any pipeline ends, the partition's journal is open for the replayed step, and its end crosses to the root; an
end of which no root waits changes nothing. -/
def Obligations.UndoRestoresTheLastEntry : Prop :=
  ∀ (s : State) (p pipe : Nat) (j k : JEntry), p < 64 → pipe < 4 → s.home.undoing = [(p, pipe)] → (part s p).state ≠ .resetting →
    ((journal s p).entries = [k, j] → pipeOf j.obj = pipe → pipeOf k.obj = pipe → j.type = jtVALUE →
        Completes (exec (.undo p pipe) s) fun t =>
          t.objs = Tbl.set Obj.none (objIx j.tok j.obj) { obj s j.tok j.obj with val := j.data } s.objs
            ∧ (journal t p).entries = [k] ∧ t.home.undoing = s.home.undoing ∧ t.parts = s.parts ∧ t.stirs = s.stirs ∧ t.tree = s.tree)
    ∧ ((journal s p).entries = [] → s.home.changed = [] → Completes (exec (.undo p pipe) s) fun t =>
        t.home.undoing = [] ∧ journal t p = { journal s p with opened := true }
          ∧ (∃ a ∈ t.agenda, a.clk = .tclk ∧ a.ev = .undoComplete p) ∧ t.objs = s.objs ∧ t.stirs = s.stirs ∧ t.tree = s.tree)
    ∧ (s.tree.undos.find? (fun u => u.part == p) = none → exec (.undoComplete p) s = .next s)

/-! ## Landing tallies -/

/-- LAND_REPORT (R173): a report of at most 64 units presented at a port takes effect 6 TCLK later; one of more is discarded, recorded as
LANDING_PORT, and changes no tally. -/
def Obligations.LandReportsReachTheTallyUnit : Prop :=
  ∀ (s : State) (half lane k : Nat) (u : BitVec 7), half < 2 → lane < 4 → k < 1024 →
    (u.toNat ≤ 64 → Completes (exec (.landReport half lane k u) s) fun t =>
        t.tly = { s.tly with due := s.tly.due ++ [{ due := s.clk.tclk + 6, act := .report half lane k u }] }
          ∧ { clk := .tclk, due := s.clk.tclk + 6, ev := .tallyReqArrival } ∈ t.agenda
          ∧ t = { s with tly := t.tly, agenda := t.agenda })
    ∧ (65 ≤ u.toNat → Completes (exec (.landReport half lane k u) s) fun t =>
        (∃ unit index detail, Told t s 0x09 unit index none detail) ∧ t = { s with agenda := t.agenda, free := t.free })

/-- TALLY_REQ_ARRIVAL (R174, R175): a report's units join the count of an owned tally; an armed tally whose count reaches EXPECT completes
in the same TCLK: COUNT falls by EXPECT, DONE is set, COMPL rises, and a strobe leaves; an ARM of a tile sets EXPECT. TALLY_RESPONSE (R178):
a response travels down to its stirrup, where a held command's result and status are written and the command is in flight no longer. -/
def Obligations.TallyCountsAndCompletes : Prop :=
  ∀ (s : State) (half lane k p due : Nat) (u : BitVec 7) (r : TallyReq) (y : TallyRsp) (f : ExactFly), k < 1024 → y.dest < nStirrup →
    let x := tally s k
    let d := stir s y.dest
    let reported := tallyOwner s k = some p ∧ s.tly.due = [{ due := due, act := .report half lane k u }]
      ∧ due ≤ s.clk.tclk ∧ u ≠ 0 ∧ x.count.toNat + u.toNat ≤ 0xFFFF_FFFF
    (reported → x.armed = false → exec .tallyReqArrival s = .next { s with
        tly := { s.tly with tbl := Tbl.set Tally.none k { x with count := x.count + u.setWidth 32 } s.tly.tbl, due := [] } })
    ∧ (reported → x.armed = true → x.expect.toNat ≤ x.count.toNat + u.toNat → Completes (exec .tallyReqArrival s) fun t =>
        tally t k = { x with count := x.count + u.setWidth 32 - x.expect, armed := false, done := true, compl := x.compl + 1 }
          ∧ t.tly.strobes = s.tly.strobes ++ [{ due := s.clk.tclk + 6, tally := k, drop := false }]
          ∧ t = { s with tly := t.tly })
    ∧ (s.tly.due = [{ due := due, act := .cmd r }] → due ≤ s.clk.tclk → r.tally = k → r.op = 0x18#5 → r.src < nStirrup →
        (part s r.part).state ≠ .resetting → x.armed = false → x.count.toNat < (pay0 r.pay).toNat →
        Completes (exec .tallyReqArrival s) fun t =>
          tally t k = { x with expect := pay0 r.pay, armed := true, done := false }
            ∧ t = { s with tly := t.tly, tree := t.tree })
    ∧ exec (.tallyResponse (.half (y.dest / 864)) y) s = .next { s with tree := { s.tree with links := s.tree.links ++
      [{ link := 4000 + 2200 + barnOfStirrup y.dest, prio := prioTally y.tally y.dest, ready := s.clk.tclk, beats := 1, hop := scaled s 7,
         ev := .tallyResponse (.barn (barnOfStirrup y.dest)) y }] } }
    ∧ (d.exactFly = [f] → f.tally = true → f.held = true → cId f.cmd.word = y.tally → cOp f.cmd.word = y.op → d.frozen = false →
       stampIs d y.role = true → wAssigned d.role = true → d.cmdQ = [] → d.homeQ = [] → d.newRole = none →
       exec (.tallyResponse (.stirrup y.dest) y) s = .next { s with
         stirs := Tbl.set Stirrup.initial y.dest { d with exactFly := [], res := y.pay, status := y.status } s.stirs })

/-! ## Cues -/

/-- CUE_DELIVERY (R54, R59, R60, R65): a cue for the pending call ends the call and, at a stirrup that is not frozen, writes result, status,
verdict and flags; a frozen one writes nothing to the tile; a cue without its call is a stale drop. -/
def Obligations.CueDeliveryEndsTheCall : Prop :=
  ∀ (s : State) (st : Nat) (c : Cue) (pc : PendCall), st < nStirrup →
    let x := stir s st
    (x.call = some pc → pc.slot = c.slot → pc.boot = false → stampIs x c.role = true → wAssigned x.role = true →
      x.cmdQ = [] → x.homeQ = [] → x.newRole = none →
      (x.frozen = false → exec (.cueDelivery st c) s = .next { s with
          stirs := Tbl.set Stirrup.initial st
            { x with call := none, res := c.data, status := c.status, verdict := c.verdict, inexact := c.inexact,
                     overflow := c.overflow, audit := if c.verdictSlot then auditAfter s x c else x.audit } s.stirs })
      ∧ (x.frozen = true → exec (.cueDelivery st c) s = .next { s with
          stirs := Tbl.set Stirrup.initial st { x with call := none } s.stirs }))
    ∧ (x.call = none → Completes (exec (.cueDelivery st c) s) fun t =>
        t.parts = (count (bitsN c.role 15 10) 12 1 s).parts ∧ t = { s with parts := t.parts, agenda := t.agenda, free := t.free })

/-- CUE_ARRIVAL and WAVE_RELEASE (R80, R121, R122, R124): a cue of a slot that does not count at a half root opens the epoch it names and
takes the link to every barn on the way to its stalls; a cue whose wave has counted down leaves its stall for every stirrup it is due to,
and stays while its partition is under a curtain. -/
def Obligations.CuesTravelByTheChildMasks : Prop :=
  ∀ (s : State) (h k : Nat) (c : Cue), h < 2 → k < 108 → c.slot < 512 → c.profile < 8 →
    let ns := node s (.half h) c.slot
    (c.counted = false → ns.ackWait = false → ns.epoch = c.epoch → c.next = c.epoch + 1 → c.next ≠ 0 →
      Completes (exec (.cueArrival (.half h) c) s) fun t =>
        (node t (.half h) c.slot).epoch = c.next ∧ (node t (.half h) c.slot).cur = ns.nxt
          ∧ (∀ b ∈ routeKids (.half h) c.stalls, ∃ l ∈ t.tree.links, l.ev = .cueArrival b c ∧ l.link = b.linkDown)
          ∧ t = { s with tree := t.tree, agenda := t.agenda, fab := t.fab })
    ∧ (s.tree.waves.any (fun w => w.stall == k && w.cue == c) = true → c.counted = false →
        (covered s ((slotOwner s c.slot).getD 0) = true → exec (.waveRelease k c) s = .next s)
        ∧ (covered s ((slotOwner s c.slot).getD 0) = false → Completes (exec (.waveRelease k c) s) fun t =>
            t.tree.waves.any (fun w => w.stall == k && w.cue == c) = false
              ∧ ∀ st ∈ dueAt s k c, ∃ l ∈ t.tree.links, l.ev = .cueDelivery st c ∧ l.link = (Place.stirrup st).linkDown))

/-- ROOT_DECISION (R78, R80, R131) of a basic slot that is neither a verdict slot nor in QUIESCE, at the die root: the epoch advances by
one, and the cue is held at its root where RED asks it, or takes the links to the halves of its members. Objects, stirrups and registers
stay. A root without a decision to take changes nothing. -/
def Obligations.DecisionAdvancesTheEpoch : Prop :=
  ∀ (s : State) (slot own : Nat), slot < 512 → PlainSlot s slot own → spanRooted s slot = false → firstDue s .die slot = false →
    let set := decided s .die slot
    let p := if set.2.1 then none else set.1
    let vote := setVote set.1 set.2.1
    let status := if vote = votePoison then stAborted else stOk
    let c := decidedCue s slot p vote set.2.2 status
    (canDecide s .die slot = false → exec (.rootDecision .die slot) s = .next s)
    ∧ (canDecide s .die slot = true → isCount s slot = false → isQuiesce s slot = false → slotVerdict s slot = false →
        (∀ g, wpHits s slot (epochOf s slot) g = []) → Completes (exec (.rootDecision .die slot) s) fun t =>
          t.tree.epochs = Tbl.set 0#32 slot (epochOf s slot + 1) s.tree.epochs
            ∧ (mustHold s c = true → t.tree.held.map (·.cue) = s.tree.held.map (·.cue) ++ [c] ∧ t.pwr.holds = s.pwr.holds + 1)
            ∧ (mustHold s c = false → ∀ h ∈ routeKids .die c.stalls, ∃ l ∈ t.tree.links, l.ev = .cueArrival h c ∧ l.link = h.linkDown)
            ∧ t.objs = s.objs ∧ t.stirs = s.stirs ∧ t.force = s.force)

/-- HOLD_EXPIRY, SPACED_RELEASE and SCHEDULED_RELEASE (R132, R133, R137, R138, R194, R200): a hold that reaches its limit is counted and its
cue leaves its root, towards every half with a stall of the cue, or, under a curtain, is due at the lift; the cue of a span is then
scheduled for its T and its CUE packet queued for every child port. The placed cue whose turn it is leaves, and the spacing counts from
there; one that became due under a curtain leaves after it. A scheduled cue leaves by the profile picked on its edge, counted as late where
the edge had passed; none leaves in an unstable frame, nor a REPLAY before its undo has ended; with nothing held or scheduled nothing
changes. -/
def Obligations.HeldCuesLeaveInTheirTurn : Prop :=
  ∀ (s : State) (slot p : Nat) (h : HeldCue) (x : Sched), slot < 512 → PlainSlot s slot p →
    let e := spanOf s slot
    let ripe := h.cue.slot = slot ∧ s.tree.held.find? (fun g => g.cue.slot == slot && holdOver s g) = some h
    let turn := h.cue.slot = slot ∧ dueTurn s slot = none ∧ nextTurn s = some h
    let due := h.cue.slot = slot ∧ dueTurn s slot = some h
    let onDie := h.at_ = .die ∧ h.cue.counted = false ∧ spanRooted s slot = false
    let edge := x.cue.slot = slot ∧ s.fab.sched.find? (fun y => y.slot == slot && edgeReached s y.t) = some x
    let leaves := fun (c : Cue) (t : State) =>
      (∀ k ∈ routeKids .die c.stalls, ∃ l ∈ t.tree.links, l.ev = .cueArrival k c ∧ l.link = k.linkDown)
        ∧ t.objs = s.objs ∧ t.stirs = s.stirs ∧ t.force = s.force
    let others := s.tree.held.filter fun g => g != h
    let marked := s.tree.held.map fun g => if g = h then { g with due := true } else g
    let expired := { s.pwr with expired := s.pwr.expired + 1 }
    let now := some s.clk.tclk
    (ripe → covered s (heldPart s h) = true → Completes (exec (.holdExpiry slot) s) fun t =>
        t.pwr = expired ∧ t.tree = { s.tree with held := marked } ∧ t = { s with pwr := t.pwr, tree := t.tree, cyc := t.cyc })
    ∧ (ripe → covered s (heldPart s h) = false → onDie → Completes (exec (.holdExpiry slot) s) fun t =>
        t.pwr = { expired with lastOut := if h.placed then now else s.pwr.lastOut } ∧ t.tree.held = others ∧ leaves h.cue t)
    ∧ (ripe → covered s (heldPart s h) = false → spanRooted s slot = true → (spanState s e).broken = false →
        Completes (exec (.holdExpiry slot) s) fun t =>
          t.pwr = { expired with lastOut := if h.placed then now else s.pwr.lastOut } ∧ t.tree = { s.tree with held := others }
            ∧ t.fab.sched = s.fab.sched ++ [{ slot := slot, t := releaseT s slot h.cue, cue := h.cue }]
            ∧ (∀ port ∈ spanDown s e, ∃ o ∈ t.fab.reinQ, o.port = port ∧ o.pkt = cuePkt s h.cue (releaseT s slot h.cue))
            ∧ t = { s with pwr := t.pwr, tree := t.tree, fab := t.fab, cyc := t.cyc })
    ∧ (turn → covered s (heldPart s h) = false → onDie → Completes (exec (.spacedRelease slot) s) fun t =>
        t.pwr = { s.pwr with lastOut := now } ∧ t.tree.held = others ∧ leaves h.cue t)
    ∧ (turn → covered s (heldPart s h) = true → Completes (exec (.spacedRelease slot) s) fun t =>
        t.tree = { s.tree with held := marked } ∧ t = { s with tree := t.tree, agenda := t.agenda })
    ∧ (due → onDie → Completes (exec (.spacedRelease slot) s) fun t =>
        t.pwr = { s.pwr with lastDue := Tbl.set 0 (heldPart s h) (s.clk.tclk + 1) s.pwr.lastDue } ∧ t.tree.held = others ∧ leaves h.cue t)
    ∧ (edge → s.house.unstable = false → x.cue.status ≠ stReplay → x.cue.counted = false → (spanState s e).abortNext = false →
        Completes (exec (.scheduledRelease slot) s) fun t =>
          t.fab.sched = s.fab.sched.filter (fun y => y != x) ∧ leaves { x.cue with profile := pickProfile s slot } t
            ∧ t.fab.late = (if lateness s x.t = 0 ∧ inUnstable s x.t = false then s.fab.late else s.fab.late + 1))
    ∧ (edge → (s.house.unstable = true ∨ (x.cue.status = stReplay ∧ inUndo s p = true)) → exec (.scheduledRelease slot) s = .next s)
    ∧ (s.tree.held = [] → s.fab.sched = [] → exec (.holdExpiry slot) s = .next s ∧ exec (.spacedRelease slot) s = .next s
        ∧ exec (.scheduledRelease slot) s = .next s)

/-- BUDGET_CHANGE (R132, R316): the budget adopted is the one presented, 0b11 counting as RED and logged; leaving RED places every held cue.
No epoch, object or stirrup changes. -/
def Obligations.BudgetChangesAreAdopted : Prop :=
  ∀ (s : State) (b : BitVec 2),
    (b ≠ 3#2 → (s.pwr.budget ≠ 2#2 ∨ b = 2#2) → exec (.budgetChange b) s = .next { s with pwr := { s.pwr with budget := b } })
    ∧ (Completes (exec (.budgetChange b) s) fun t =>
        t.pwr.budget = (if b = 3#2 then 2#2 else b)
          ∧ (s.pwr.budget = 2#2 → t.pwr.budget ≠ 2#2 → ∀ h ∈ t.tree.held, h.placed = true)
          ∧ t = { s with pwr := t.pwr, tree := { s.tree with held := t.tree.held }, agenda := t.agenda, free := t.free })

/-- AUDIT_PUSH (R224): every stirrup assigned to the partition holds the draw pushed, with the fraction its stall sets: the partition's
FRAC, raised to the recipe's floor and, for a target of the recipe, to its fraction; every other stirrup stays. -/
def Obligations.AuditDrawReachesAssignedStirrups : Prop :=
  ∀ (s : State) (p : Nat) (d : BitVec 29), p < 64 → Completes (exec (.auditPush p d) s) fun t =>
    (∀ st ∈ assignedOf s p, wAssigned (stir s st).role = true →
      (stir t st).pushed = BitVec.ofNat 32
        (max (fld s (verdKey p) 6 4) (max s.flt.floor (if s.flt.target.getLsbD st then s.flt.tfrac else 0)) % 8 * 2 ^ 29 + d.toNat))
    ∧ (∀ st, st ∉ assignedOf s p → stir t st = stir s st)
    ∧ t = { s with stirs := t.stirs }

/-- HOST_CALL_COMPLETION and UNDO_COMPLETE (R180, R217, R221, R262): the cue of a slot completes the host member's descriptor with its
status; the end of an undo takes its REPLAY cue off the list of undos, here to be held under RED (R131), and the tallies of the partition
take their step-start values with FLAGSEEN clear. -/
def Obligations.CueEndsHostCallAndUndo : Prop :=
  ∀ (s : State) (c : Cue) (x : Desc) (p k : Nat) (u : UndoRun), c.slot < 512 → p < 64 →
    (s.hq.hostCall.find? (fun h => h.1 == c.slot) = some (c.slot, x) → Completes (exec (.hostCallCompletion c) s) fun t =>
        t.hq.hostCall = s.hq.hostCall.filter (fun h => h.1 != c.slot) ∧ Completed t s x c.status)
    ∧ (s.tree.undos.find? (fun v => v.part == p) = some u → u.waiting = [] → u.later = [] → mustHold s u.cue = true →
        s.fab.sched = [] → Completes (exec (.undoComplete p) s) fun t =>
          t.tree.undos = s.tree.undos.filter (fun v => v != u)
            ∧ t.tree.held = s.tree.held ++ [{ at_ := u.at_, cue := { u.cue with profile := pickProfile s u.cue.slot },
                                              since := (houseNow s).toNat, decT := u.decT, placed := false, due := false }]
            ∧ (k ∈ liveTallies s p → { Tbl.get Tally.none s.tly.start k with flagseen := false } ≠ Tally.none →
                tally t k = { Tbl.get Tally.none s.tly.start k with flagseen := false })
            ∧ t = { s with tree := t.tree, tly := t.tly, pwr := t.pwr, cyc := t.cyc })

/-! ## Staged values and apply points -/

/-- WB_ACKNOWLEDGE and EMPTY_BOUNDARY_APPLY (R35, R134, Table BOO-3): the oldest write of a word that waits for its acknowledgement is held
for its apply point and nothing is in force yet; at the apply point of a partition whose boundary slot has no member an acknowledged
semaphore word comes into force whole; a partition whose boundary slot has members, and that sends no cue of an aborted epoch, applies
nothing; in reduced service, and with nothing staged, nothing comes into force. -/
def Obligations.StagedWordsWaitForTheirApplyPoint : Prop :=
  ∀ (s : State) (p k i : Nat) (v m : W32) (l : List (W32 × W32)) (g : Staged), p < 64 → i < 8192 →
    let held := ackStage k s
    let word := objCfgKey false i
    let waits := clearBit64 s.su.abortWait p
    let passed := { s.su with abortWait := waits, dwWait := clearBit64 s.su.dwWait p }
    (Tbl.has s.staged k = false → exec (.wbAcknowledge k) s = .next s)
    ∧ (Tbl.has s.staged k = true → (stagedAt s k).pend = (v, m) :: l → s.hq.descs = [] → (dwKeys held).contains k = false →
        isRosterKey k = false → ((keyOwner held k).all fun q => (part s q).state == .free || !memberless s q) = true →
        exec (.wbAcknowledge k) s = .next { s with
          staged := Tbl.set noStage k { (stagedAt s k).put v m with pend := l } s.staged })
    ∧ (((part s p).state = .free ∨ (memberless s p = false ∧ (s.su.abortWait.getLsbD p = false ∨ (part s p).state = .resetting))) →
        exec (.emptyBoundaryApply p) s = .next { s with su := { s.su with abortWait := waits } })
    ∧ ((part s p).state ≠ .free → memberless s p = true → (s.boot.reduced = true ∨ s.staged = []) →
        exec (.emptyBoundaryApply p) s = .next { s with su := passed })
    ∧ ((part s p).state ≠ .free → memberless s p = true → s.boot.reduced = false → s.staged = [(word, g)] → g.pend = [] → g.mask ≠ 0 →
        objOwner s false i = some p →
        exec (.emptyBoundaryApply p) s = .next { s with
          force := Tbl.set (resetWord word) word (nextWord s word) s.force, staged := [], su := passed })

/-- DIE_WIDE_APPLY and CANCEL (R136, R234): the die-wide apply point ends the request and puts an accepted recipe in force, each value it
names and no other; before its conditions hold nothing changes; CANCEL ends the request and drops the recipe, and has no effect while the
engine is held in reset. -/
def Obligations.DieWideRequestAppliesOrIsCancelled : Prop :=
  ∀ (s : State) (k : Nat) (g : Staged) (r : Recipe),
    (dwReady s = false → exec .dieWideApply s = .next s)
    ∧ (dwReady s = true → s.staged = [] → s.flt.rcpStaged = some r →
        exec .dieWideApply s = .next { s with
          flt := { s.flt with seedpol := r.seedpol.getD s.flt.seedpol, floor := r.floor.getD s.flt.floor,
                              target := r.target.getD s.flt.target, tfrac := r.tfrac.getD s.flt.tfrac, rcpStaged := none },
          su := { s.su with dwPending := false, dwWait := 0 } })
    ∧ (s.boot.inReset = true → exec .cancel s = .next s)
    ∧ (s.boot.inReset = false → Completes (exec .cancel s) fun t =>
        t = { s with staged := t.staged, su := { s.su with dwPending := false, dwWait := 0 }, flt := { s.flt with rcpStaged := none } }
          ∧ (s.staged = [(k, g)] → k ∈ dwKeys s → t.staged = [])
          ∧ (dwKeys s = [] → t.staged = s.staged))

/-! ## The curtain, resets, isolation -/

/-- CURTAIN_RAISE, CURTAIN_LIFT and CURTAIN_LIFT_ABORT (R287, R288, R289): a raise sets its source's cause bit, the first bit with the event
and the packets, and takes effect 11 TCLK later; a lift clears the bits its source may clear, and so does it take effect, where with the
last bit the partition's work goes on; a lift with abort that finds no cause changes nothing, and one in force waits TCLK by TCLK for the
end of an undo. -/
def Obligations.CurtainsRiseAndLift : Prop :=
  ∀ (s : State) (p : Nat) (src : CurtainSrc), p < 64 →
    let x := part s p
    let bit : BitVec 6 := 1#6 <<< causeOf src
    let later := fun (c : Instr) => s.agenda ++ [{ clk := .tclk, due := s.clk.tclk + 11, ev := c }]
    let left := x.causes &&& ~~~ (mayClear src)
    let down := x.curtain &&& ~~~ (mayClear src)
    (x.causes ≠ 0 → exec (.curtainRaise p src false) s = .next { s with
        parts := Tbl.set partFree p { x with causes := x.causes ||| bit } s.parts, agenda := later (.curtainRaise p src true) })
    ∧ (x.causes = 0 → Completes (exec (.curtainRaise p src false) s) fun t =>
        (part t p).causes = bit ∧ DueT t s 11 (.curtainRaise p src true) ∧ t.cur = { s.cur with seq := s.cur.seq + 1 }
          ∧ t = { s with parts := t.parts, page := t.page, hq := t.hq, fab := t.fab, cur := t.cur, agenda := t.agenda, cyc := t.cyc })
    ∧ (s.hq.descs = [] → exec (.curtainRaise p src true) s = .next { s with
        parts := Tbl.set partFree p { x with curtain := x.curtain ||| bit } s.parts })
    ∧ ((src = .tenant → entitled s p src = true) → (x.causes = 0 ∨ left ≠ 0) → exec (.curtainLift p src false) s = .next { s with
        parts := Tbl.set partFree p { x with causes := left } s.parts, agenda := later (.curtainLift p src true) })
    ∧ (s.hq.descs = [] → (x.curtain = 0 ∨ down ≠ 0) → exec (.curtainLift p src true) s = .next { s with
        parts := Tbl.set partFree p { x with curtain := down } s.parts })
    ∧ (s.hq.descs = [] → x.curtain ≠ 0 → down = 0 → Completes (exec (.curtainLift p src true) s) fun t =>
        (part t p).curtain = 0 ∧ t.hq.descs = [] ∧ t.objs = s.objs ∧ t.tree = s.tree
          ∧ t = resumePart p (event p 0x03 0 0 { s with parts := Tbl.set partFree p { x with curtain := down } s.parts }))
    ∧ (s.hq.descs = [] → x.causes = 0 → exec (.curtainLiftAbort p src false) s = .next s)
    ∧ (x.causes ≠ 0 → entitled s p src = true → exec (.curtainLiftAbort p src false) s =
        .next (afterT 11 (.curtainLiftAbort p src true)
          (sendCurtain p 2 (causeOf src + 1) { s with parts := Tbl.set partFree p { x with causes := left } s.parts })))
    ∧ (undoRuns s p = true → exec (.curtainLiftAbort p src true) s = .next { s with
        agenda := s.agenda ++ [{ clk := .tclk, due := s.clk.tclk + 1, ev := .curtainLiftAbort p src true }] })

/-- DIE_CURTAIN, SCAN, DIE_ERROR and CURTAIN_PACKET (R215, R252, R290, R292, R294): an authorised request of the die curtain takes effect 11
TCLK later, except a lift of one that a die error raised; without the scope it is recorded and changes nothing; a die error raises it for
good, drives FAULT_N and is recorded; SCAN acts while the die curtain is in force and authorised, and is recorded elsewhere; a new packet of
another die raises its partition's curtain here. The items of a record that Table FLT-11 leaves open (a cause number, the order in DETAIL)
are the model's (log 8). -/
def Obligations.DieCurtainScanAndPackets : Prop :=
  ∀ (s : State) (act unit addr port e p : Nat) (pkt : SpanPkt), act < 3 →
    let die := bitsN pkt.data 35 20
    let seq := bitsN pkt.data 43 36
    let asked := { s.cur with raw := act == 0, dues := s.cur.dues ++ [(s.clk.tclk + 11, act)] }
    let recorded := fun (off v cause : Nat) (o : Host.Outcome State Fault Refusal) => Completes o fun t =>
      Told t s 0x01 20 0 none [off, v, cause] ∧ t = { s with agenda := t.agenda, free := t.free }
    (authDie s = true → (act = 0 ∨ s.cur.byError = false) → exec (.dieCurtain act false) s = .next { s with cur := asked })
    ∧ (authDie s = true → act ≠ 0 → s.cur.byError = true → exec (.dieCurtain act false) s = .next s)
    ∧ (authDie s = false → recorded 0x5180 act 0x252 (exec (.dieCurtain act false) s))
    ∧ (s.boot.inReset = false → s.cur.die = true → authScan s = true →
        exec .scan s = .next { s with cur := { s.cur with scanOk := true } })
    ∧ (s.boot.inReset = false → (s.cur.die = false ∨ authScan s = false) → recorded 0x5184 0x2000_0000 0x294 (exec .scan s))
    ∧ (s.boot.inReset = true → exec .scan s = .next s)
    ∧ Completes (exec (.dieError unit addr) s) (fun t =>
        t.cur = { s.cur with byError := true, raw := true, dues := s.cur.dues ++ [(s.clk.tclk + 11, 0)] }
          ∧ t.flt = { s.flt with dieErr := true, faultN := false } ∧ Told t s 0x1B unit 0 none [unit, addr]
          ∧ t = { s with cur := t.cur, flt := t.flt, agenda := t.agenda, free := t.free })
    ∧ (pkt.fkind = 8 → ports.contains port = true → portUp s port = false → exec (.curtainPacket port pkt) s = .next s)
    ∧ (pkt.fkind = 8 → ports.contains port = true → portUp s port = true → seenPacket s die seq = false → bitB pkt.data 49 = false →
        bitsN pkt.data 45 44 = 0 → spanFor s (BitVec.ofNat 20 (bitsN pkt.data 19 0)) = some e → slotOwner s (spanSlot s e) = some p →
        Completes (exec (.curtainPacket port pkt) s) fun t =>
          (part t p).causes = (part s p).causes ||| (1#6 <<< causeOf (srcOf (bitsN pkt.data 48 46)))
            ∧ DueT t s 11 (.curtainRaise p (srcOf (bitsN pkt.data 48 46)) true) ∧ (die, seq) ∈ t.cur.seen
            ∧ t.objs = s.objs ∧ t.tree = s.tree ∧ t.stirs = s.stirs)

/-- THAW, TILE_ISO, REGION_SLEEP and PART_RESET (R62, R66, R67, R87, R88, R214): a thaw ends FREEZE and its cause with STATUS ABORTED; an
isolated stirrup keeps its role and is held, what it has sent and its stall has not received is lost (log 118), and one that comes back
reads its role from the roster; a line that does not change does nothing; a reset's trigger makes a partition RESETTING, its end makes it
ACTIVE with no curtain cause set; a second trigger is recorded, and on a FREE one nothing happens. The items of a record that Table FLT-11
leaves open (a cause number, the order in DETAIL) are the model's (log 8). -/
def Obligations.ThawsIsolationAndResets : Prop :=
  ∀ (s : State) (st line p cause : Nat) (on : Bool),
    let x := stir s st
    (st < nStirrup → x.frozen = false → exec (.thaw st) s = .next s)
    ∧ (st < nStirrup → x.frozen = true → x.call = none → x.newRole = none → x.cmdQ = [] → x.homeQ = [] →
        exec (.thaw st) s = .next { s with
          stirs := Tbl.set Stirrup.initial st { x with frozen := false, cause := 0, status := stAborted } s.stirs,
          tree := { s.tree with frozen := s.tree.frozen.filter fun i => i != st } })
    ∧ (st < nStirrup → x.iso = on → exec (.tileIso st on) s = .next s)
    ∧ (st < nStirrup → x.iso = false → x.call = none → memberSlots s st = [] → Completes (exec (.tileIso st true) s) fun t =>
        t.stirs = Tbl.set Stirrup.initial st { Stirrup.initial with
            role := x.role, newRole := x.newRole, frozen := x.frozen, cause := x.cause, call := none, iso := true,
            lastPc := x.lastPc } s.stirs
          ∧ (∃ a ∈ t.agenda, a.clk = .eclk ∧ a.ev = .waiterRemoval st false)
          ∧ t.tree = { s.tree with links := s.tree.links.filter fun i => !leftFrom (.stirrup st) i.ev }
          ∧ t = { s with stirs := t.stirs, tree := t.tree, agenda := t.agenda, free := t.free })
    ∧ (st < nStirrup → x.iso = true → Completes (exec (.tileIso st false) s) fun t =>
        t.stirs = Tbl.set Stirrup.initial st { Stirrup.initial with
            role := rosterWord s st, frozen := x.frozen, cause := x.cause, call := x.call, lastPc := x.lastPc,
            status := (if x.callLost then stAborted else stOk), pay := (stir t st).pay, res := (stir t st).res, tag := (stir t st).tag,
            audit := (stir t st).audit } s.stirs
          ∧ t = { s with stirs := t.stirs, free := t.free })
    ∧ (line < 18 → s.pwr.sleep.getLsbD line = on → exec (.regionSleep line on) s = .next s)
    ∧ (line < 18 → s.pwr.sleep.getLsbD line = false → sleepSlots s = [] → traceMode s ≠ 2 →
        exec (.regionSleep line true) s = .next { s with pwr := { s.pwr with sleep := s.pwr.sleep ||| (1#18 <<< line) } })
    ∧ (p < 64 → (part s p).state = .free → exec (.partReset p cause false) s = .next s)
    ∧ (p < 64 → (part s p).state ≠ .resetting → exec (.partReset p cause true) s = .next s)
    ∧ (p < 64 → 0 < s.clk.mult → (part s p).state ≠ .free → (part s p).state ≠ .resetting → Completes (exec (.partReset p cause false) s) fun t =>
        (part t p).state = .resetting ∧ ∃ d, d ≤ 128 + 20 * usTicks * s.clk.mult / 128 ∧ DueT t s d (.partReset p cause true))
    ∧ (p < 64 → (part s p).state = .resetting → cause ≠ causeDestroy → Completes (exec (.partReset p cause true) s) fun t =>
        (part t p).state = .active ∧ (part t p).causes = 0)
    ∧ (p < 64 → (part s p).state = .resetting → Completes (exec (.partReset p cause false) s) fun t =>
        Told t s 0x18 15 p (some p) [cause, 0] ∧ t = { s with agenda := t.agenda, free := t.free })

/-! ## Tugs, reins and spans -/

/-- SPAN_PARTIAL and SPAN_CUE (R188 to R192, R194, R273): a whole partial of a valid entry's own child port that names the open epoch joins
what the die root holds, as its port's child, and the epoch stays; a cue of the epoch from the UP port goes on to every child port, ends the
epoch here and waits for the edge of its T; one of another epoch, or from another port, is discarded, counted as a stale drop and recorded;
the last beat of a one-beat packet leaves the port's buffer a fixed time later and the first of several waits for the rest; on a port not in
use nothing is taken. The TAG a partial joins with is a free value (log 28); the items of a record that Table FLT-11 leaves open (a cause
number, the order in DETAIL) are the model's (log 8). -/
def Obligations.SpanPartialsAndCuesReachTheDieRoot : Prop :=
  ∀ (s : State) (port e : Nat) (pkt : SpanPkt), ports.contains port = true →
    let slot := spanSlot s e
    let ns := node s .die slot
    let ours := portUp s port = true ∧ spanFor s pkt.span = some e ∧ (spanState s e).broken = false
    let below := (spanDown s e).contains port = true ∧ pkt.gen = ns.epoch.setWidth 6
    let heard := Tbl.set 0#64 (2 * linkOf port + 1)
      (Tbl.get 0#64 s.fab.bytes (2 * linkOf port + 1) + BitVec.ofNat 64 (unitBytes port 1)) s.fab.bytes
    let whole := { pkt with beat := 0, data := pkt.data &&& BitVec.ofNat 640 (2 ^ (128 * unitBeats port) - 1) }
    let stale := fun (o : Host.Outcome State Fault Refusal) => Completes o fun t =>
      Told t s 0x02 (portUnit port) port (slotOwner s slot) [pkt.fkind.toNat, pkt.span.toNat] ∧ t.tree = s.tree
        ∧ (port < 4 → Told t s 0x0B 11 port none [port, headerOf pkt] ∧ t.fab = s.fab) ∧ t.stirs = s.stirs ∧ t.objs = s.objs
    (portUp s port = false → ∀ taken,
        (pkt.fkind = 1 → exec (.spanPartial port pkt taken) s = .next s) ∧ (pkt.fkind = 2 → exec (.spanCue port pkt taken) s = .next s))
    ∧ (ours → below → pkt.fkind = 1 → pkt.opst = slotOp s slot → isCount s slot = false → ns.sent = false →
        portChild port ∉ ns.cur.kids → Completes (exec (.spanPartial port pkt true) s) fun t =>
          (∃ q : Partial, q.slot = slot ∧ q.gen = pkt.gen ∧ q.vote = pkt.vote ∧ q.child = portChild port
              ∧ q.count = (if pkt.empty then 0 else 1) ∧ q.data = (if pkt.empty then 0 else pkt.data)
              ∧ (node t .die slot).cur = ns.cur.add (isQuiesce s slot) s.clk.tclk (portChild port) q)
            ∧ (node t .die slot).epoch = ns.epoch
            ∧ t = { s with tree := t.tree, fab := t.fab, agenda := t.agenda, free := t.free })
    ∧ (ours → (spanDown s e).contains port = true → pkt.fkind = 1 → pkt.opst = slotOp s slot → genEpoch ns pkt.gen = none →
        stale (exec (.spanPartial port pkt true) s))
    ∧ (ours → pkt.fkind = 2 → spanUp s e = some port → pkt.gen = (epochOf s slot).setWidth 6 →
        pkt.time.toNat ≤ (houseNow s).toNat + 2 ^ 21 → slotVerdict s slot = false → edgeReached s pkt.time = false →
        (s.fab.sched.all fun x => x.slot != slot) = true → Completes (exec (.spanCue port pkt true) s) fun t =>
          t.tree.epochs = Tbl.set 0#32 slot (epochOf s slot + 1) s.tree.epochs
            ∧ (∃ c : Cue, t.fab.sched = s.fab.sched ++ [{ slot := slot, t := pkt.time, cue := c }] ∧ c.slot = slot ∧ c.epoch = epochOf s slot
                ∧ c.status = pkt.opst ∧ c.verdict = pkt.vote ∧ c.data = pkt.data.setWidth 128)
            ∧ (∀ q ∈ spanDown s (spanOf s slot), ∃ i ∈ t.fab.reinQ, i.port = q ∧ i.pkt = pkt)
            ∧ t = { s with tree := t.tree, fab := t.fab, agenda := t.agenda })
    ∧ (ours → pkt.fkind = 2 → (spanUp s e ≠ some port ∨ pkt.gen ≠ (epochOf s slot).setWidth 6) →
        stale (exec (.spanCue port pkt true) s))
    ∧ (portUp s port = true → pkt.fkind = 1 → pkt.beat = 0 → packetBeats s pkt ≤ unitBeats port → bufferT s port 1 ≠ 0 →
        Completes (exec (.spanPartial port pkt false) s) fun t =>
          DueT t s (bufferT s port 1) (.spanPartial port whole true) ∧ t.fab.bytes = heard ∧ t.fab.reinQ = s.fab.reinQ
            ∧ t = { s with fab := t.fab, parts := t.parts, agenda := t.agenda, cyc := t.cyc })
    ∧ (portUp s port = true → pkt.fkind = 2 → pkt.beat = 0 → unitBeats port < packetBeats s pkt →
        Completes (exec (.spanCue port pkt false) s) fun t =>
          whole ∈ (fabPort t port).asm ∧ t.fab.bytes = heard ∧ t.fab.reinQ = s.fab.reinQ
            ∧ t = { s with fab := t.fab, parts := t.parts, cyc := t.cyc })

/-- SPAN_IDLE, SPAN_ACTIVE, SPAN_ABORT and FABRIC_PACKET_DISCARD (R189, R190, R208, Table FAB-6): a child die's IDLE takes its port out of
the expected set of the die root from the epoch it names, its ACTIVE takes it in again; a SPAN_ABORT breaks the span: its open epoch ends,
every other port of the span is sent one, and the loss is recorded, or waits for a cue that has still to leave; a reserved FKIND is
discarded and recorded; on a port not in use all are ignored. The items of a record that Table FLT-11 leaves open (a cause number, the order
in DETAIL) are the model's (log 8). -/
def Obligations.SpansIdleRejoinAndBreak : Prop :=
  ∀ (s : State) (port e : Nat) (pkt : SpanPkt) (g : W32), ports.contains port = true →
    let slot := spanSlot s e
    let ns := node s .die slot
    let x := fabPort s port
    let now := (houseNow s).toNat
    let ours := portUp s port = true ∧ spanFor s pkt.span = some e ∧ (spanState s e).broken = false
    let below := (spanDown s e).contains port = true ∧ genEpoch ns pkt.gen = some g
    let heard := Tbl.set 0#64 (2 * linkOf port + 1)
      (Tbl.get 0#64 s.fab.bytes (2 * linkOf port + 1) + BitVec.ofNat 64 (unitBytes port 1)) s.fab.bytes
    let lately := now :: x.bads.filter fun t => decide (now < t + 1000 * usTicks)
    let restarted := { x with lastRx := now, lost := false, resends := 0 }
    let discarded := fun (y : FabPort) (t : State) =>
      Told t s 0x0B (portUnit port) port none [port, headerOf pkt]
        ∧ t = { s with fab := { s.fab with ports := Tbl.set FabPort.none port y s.fab.ports, bytes := heard },
                       agenda := t.agenda, free := t.free }
    let lost := Tbl.get SpanState.none s.fab.spans e
    (portUp s port = false → ∀ taken,
        (pkt.fkind = 3 → exec (.spanIdle port pkt taken) s = .next s) ∧ (pkt.fkind = 4 → exec (.spanActive port pkt taken) s = .next s)
        ∧ (pkt.fkind = 5 → exec (.spanAbort port pkt taken) s = .next s)
        ∧ (fkindReserved pkt.fkind = true → exec (.fabricPacketDiscard port pkt) s = .next s))
    ∧ (ours → below → pkt.fkind = 3 → leftOut ns (portChild port) g = false → Completes (exec (.spanIdle port pkt true) s) fun t =>
        (node t .die slot).idle = (ns.idle.filter fun j => j.1 != portChild port) ++ [(portChild port, g)]
          ∧ (node t .die slot).cur = ns.cur ∧ (node t .die slot).epoch = ns.epoch
          ∧ t = { s with tree := t.tree, agenda := t.agenda, fab := t.fab })
    ∧ (ours → below → pkt.fkind = 4 → ns.idleSent = false → ns.ackWait = false → exec (.spanActive port pkt true) s = .next { s with
        tree := { s.tree with
          nodes := Tbl.set NodeSlot.none (nodeKey .die slot) { ns with idle := ns.idle.filter fun j => j.1 != portChild port } s.tree.nodes } })
    ∧ (ours → pkt.fkind = 5 → spanValid s e = true → cueWaits s slot = false → Completes (exec (.spanAbort port pkt true) s) fun t =>
        (spanState t e) = { lost with broken := true } ∧ t.tree.epochs = Tbl.set 0#32 slot (epochOf s slot + 1) s.tree.epochs
          ∧ (∀ q ∈ spanPorts s e, q ≠ port → ∃ j ∈ t.fab.reinQ, j.port = q ∧ j.pkt.fkind = 5)
          ∧ Told t s 0x0D (portUnit port) port none [port, fld s (spanKey e 0) 19 0]
          ∧ t.objs = s.objs ∧ t.stirs = s.stirs ∧ t.force = s.force)
    ∧ (ours → pkt.fkind = 5 → spanValid s e = true → cueWaits s slot = true → Completes (exec (.spanAbort port pkt true) s) fun t =>
        (spanState t e) = { lost with broken := true, abortNext := true } ∧ t.tree.epochs = s.tree.epochs ∧ t.tree.held = s.tree.held
          ∧ Told t s 0x0D (portUnit port) port none [port, fld s (spanKey e 0) 19 0]
          ∧ t.objs = s.objs ∧ t.stirs = s.stirs ∧ t.force = s.force)
    ∧ (portUp s port = true → port < 4 → fkindReserved pkt.fkind = true → Completes (exec (.fabricPacketDiscard port pkt) s) (discarded restarted))
    ∧ (portUp s port = true → 8 ≤ port → fkindReserved pkt.fkind = true → 0 < now → lately.length < 16 →
        Completes (exec (.fabricPacketDiscard port pkt) s) (discarded { restarted with bads := lately }))

/-- HEARTBEAT, HEARTBEAT_ARRIVAL, PORT_TIMEOUT, REIN_UP and REIN_UNREACH (R197, R207, R208, R312): a silent port with nothing waiting sends
a heartbeat; what arrives counts its bytes and restarts the timeout; a port past it is lost and recorded with its spans, each of which
breaks; the optical link's return makes every valid peer reachable, its loss or an unreachable die loses them; where none of this is due
nothing changes. The items of a record that Table FLT-11 leaves open (a cause number, the order in DETAIL) are the model's (log 8). -/
def Obligations.PortsAreHeardAndLost : Prop :=
  ∀ (s : State) (port i e : Nat) (die : BitVec 16), ports.contains port = true →
    let x := fabPort s port
    let put := fun (y : FabPort) => Tbl.set FabPort.none port y s.fab.ports
    let now := (houseNow s).toNat
    let peers := (validPeers s).filter fun i => fld s (0x6040 + 4 * i) 15 0 == die.toNat
    let alone := fun (q : Nat) (f : Fabric) (t : State) => Told t s 0x0D (portUnit q) q none [q]
      ∧ t = { s with fab := { f with ports := Tbl.set FabPort.none q { fabPort s q with lost := true } s.fab.ports },
                     agenda := t.agenda, free := t.free }
    (heartbeatDue s port = false → exec (.heartbeat port) s = .next s)
    ∧ (heartbeatDue s port = true → exec (.heartbeat port) s = .next { s with fab := { s.fab with
        reinQ := s.fab.reinQ ++ [{ port := port, part := none, pkt := plainPkt 7 0, ready := s.clk.tclk, beats := 1, next := 0 }] } })
    ∧ (portUp s port = true → exec (.heartbeatArrival port) s = .next { s with fab := { s.fab with
        ports := put { x with lastRx := now, lost := false, resends := 0 },
        bytes := Tbl.set 0#64 (2 * linkOf port + 1)
          (Tbl.get 0#64 s.fab.bytes (2 * linkOf port + 1) + BitVec.ofNat 64 (unitBytes port 1)) s.fab.bytes } })
    ∧ (portUp s port = false → exec (.heartbeatArrival port) s = .next s)
    ∧ (timedOut s port = false → exec (.portTimeout port) s = .next s)
    ∧ (timedOut s port = true → spansOn s port = [] → Completes (exec (.portTimeout port) s) (alone port s.fab))
    ∧ (timedOut s port = true → spansOn s port = [e] → Completes (exec (.portTimeout port) s) fun t =>
        (fabPort t port).lost = true ∧ (spanState t e).broken = true
          ∧ Told t s 0x0D (portUnit port) port none [port, fld s (spanKey e 0) 19 0]
          ∧ (∀ q ∈ spanPorts s e, q ≠ port → ∃ j ∈ t.fab.reinQ, j.port = q ∧ j.pkt.fkind = 5)
          ∧ t.objs = s.objs ∧ t.stirs = s.stirs ∧ t.force = s.force)
    ∧ (0 < now → Completes (exec (.reinUp true) s) fun t =>
        (∀ j ∈ validPeers s, fabPort t (8 + j) = { fabPort s (8 + j) with lost := false, lastRx := now })
          ∧ t = { s with fab := { s.fab with reinUp := true, ports := t.fab.ports } })
    ∧ (s.fab.reinUp = false → exec (.reinUp false) s = .next s)
    ∧ (s.fab.reinUp = true → validPeers s = [] → exec (.reinUp false) s = .next { s with fab := { s.fab with reinUp := false } })
    ∧ (s.fab.reinUp = true → validPeers s = [i] → spansOn s (8 + i) = [] →
        Completes (exec (.reinUp false) s) (alone (8 + i) { s.fab with reinUp := false }))
    ∧ (peers = [] → exec (.reinUnreach die) s = .next s)
    ∧ (peers = [i] → spansOn s (8 + i) = [] → Completes (exec (.reinUnreach die) s) (alone (8 + i) s.fab))

/-- TUG_TRAINED, TUG_TRAINING, TUG_RESEND and REIN_FLIT_SEND (R192, R193, R197, R204, R273, Table FAB-8): the interface reports a tug
trained or lost; a measured transit of at most 10 TCLK puts it in use, a longer one fails it and is recorded, and nothing is measured before
the stage-2 switch or, after a TCLK change, in an unstable frame; a beat that failed its CRC is resent 8 TCLK later and counted, and the
16th resend loses the port; a flit leaves within credit, or without it where no bulk flit waits, an exchange flit stamped as it leaves; a
packet of several flits stays queued from its next beat on. The items of a record that Table FLT-11 leaves open (a cause number, the order
in DETAIL) are the model's (log 8). -/
def Obligations.TugsTrainAndFlitsLeave : Prop :=
  ∀ (s : State) (port transit peerN : Nat) (bulk : Bool) (o : FabOut) (p : Nat), port < 4 →
    let x := fabPort s port
    let put := fun (y : FabPort) => Tbl.set FabPort.none port y s.fab.ports
    let now := (houseNow s).toNat
    let down := setFabPort port { x with phy := false, up := false } s
    let failed := { x with up := false, again := false, transit := transit, peerN := peerN }
    let measures := x.phy = true ∧ s.boot.inReset = false ∧ s.boot.reduced = false ∧ (x.again = false ∨ s.house.unstable = false)
    let resends := { s.fab with retry := s.fab.retry + 1 }
    let cyc := (rcBefore 0x6014 s.fab.retry s).cyc
    let spent := setFabPort port { x with resends := 0, resend := none } s
    let due := s.fab.reinQ = [o] ∧ 8 ≤ o.port ∧ portUp s o.port = true ∧ o.ready ≤ s.clk.tclk ∧ (bulk = false ∨ 256 ≤ creditNow s)
    let whole := o.beats ≤ o.next + 3
    let stamp : Wide := (BitVec.ofNat 64 (houseFine s)).setWidth 640
    let sent := fun (q : FabOut) (rest : List FabOut) => { s.fab with
      reinQ := rest, sent := s.fab.sent ++ [unitOf q],
      credit := if 256 ≤ creditNow s then creditNow s - 256 else creditNow s, creditAt := s.clk.tclk,
      ports := Tbl.set FabPort.none o.port { fabPort s o.port with lastTx := now, last := some (s.clk.tclk, unitOf q) } s.fab.ports,
      bytes := Tbl.set 0#64 (2 * linkOf o.port) (Tbl.get 0#64 s.fab.bytes (2 * linkOf o.port) + 64) s.fab.bytes }
    (exec (.tugTrained port true) s = .next { s with fab := { s.fab with ports := put { x with phy := true } } })
    ∧ (x.phy = false → exec (.tugTrained port false) s = .next down)
    ∧ (x.phy = true → spansOn s port = [] → Completes (exec (.tugTrained port false) s) fun t =>
        t.fab = (setFabPort port { fabPort down port with lost := true } down).fab ∧ Told t s 0x0D 11 port none [port]
          ∧ t = { s with fab := t.fab, agenda := t.agenda, free := t.free })
    ∧ ((x.phy = false ∨ s.boot.inReset = true ∨ s.boot.reduced = true ∨ (x.again = true ∧ s.house.unstable = true)) →
        exec (.tugTraining port transit peerN) s = .next s)
    ∧ (measures → transit ≤ 10 → exec (.tugTraining port transit peerN) s = .next { s with fab := { s.fab with
        ports := put { x with up := true, again := false, lost := false, transit := transit, peerN := peerN, lastRx := now } } })
    ∧ (measures → 10 < transit → spansOn s port = [] → Completes (exec (.tugTraining port transit peerN) s) fun t =>
        t.fab = { s.fab with ports := put failed } ∧ Told t s 0x08 11 port none [port, transit]
          ∧ t = { s with fab := t.fab, agenda := t.agenda, free := t.free })
    ∧ (x.resends + 1 < 16 → exec (.tugResend port) s = .next { s with
        fab := { resends with ports := put { x with resends := x.resends + 1, resend := x.last.map fun u => (u.1 + 8, u.2) } }, cyc := cyc })
    ∧ (16 ≤ x.resends + 1 → spansOn s port = [] → Completes (exec (.tugResend port) s) fun t =>
        t.fab = { resends with ports := (setFabPort port { fabPort spent port with lost := true } spent).fab.ports }
          ∧ Told t s 0x0D 11 port none [port] ∧ t = { s with fab := t.fab, agenda := t.agenda, free := t.free, cyc := cyc })
    ∧ (s.fab.reinQ = [] → exec (.reinFlitSend bulk) s = .next s)
    ∧ (creditNow s < 256 → exec (.reinFlitSend true) s = .next s)
    ∧ (due → whole → o.part = none → o.pkt.fkind ≠ 6 → exec (.reinFlitSend bulk) s = .next { s with fab := sent o [] })
    ∧ (due → o.next + 3 < o.beats → o.part = none → o.pkt.fkind ≠ 6 →
        exec (.reinFlitSend bulk) s = .next { s with fab := sent o [{ o with next := o.next + 3 }] })
    ∧ (due → whole → o.pkt.fkind = 6 → o.pkt.vote = 1 → o.part = none → exec (.reinFlitSend bulk) s = .next { s with
        fab := sent { o with pkt := { o.pkt with data := stamp } } [],
        house := { s.house with exch := some (BitVec.ofNat 64 (houseFine s)) } })
    ∧ (due → whole → o.pkt.fkind = 6 → o.pkt.vote = 2 → o.part = none → exec (.reinFlitSend bulk) s = .next { s with
        fab := sent { o with pkt := { o.pkt with data := o.pkt.data ||| (stamp <<< 128) } } [] })
    ∧ (due → whole → o.part = some p → p < 64 → outRank o = 2 → Completes (exec (.reinFlitSend bulk) s) fun t =>
        t.fab = { sent o [] with drr := t.fab.drr, drrPtr := t.fab.drrPtr } ∧ t.parts = (count p 14 64 s).parts
          ∧ t = { s with fab := t.fab, parts := t.parts })

/-! ## House time -/

/-- HOUSE_FRAME (R31, R138, R203): frame 0 begins at time 0 with the next TCLK edge and is stable where it has 20 to 48 edges; every later
frame begins at the time that is due, after the edges of the frame before are counted; an unstable frame, and a start that the HREF counter
does not read, are recorded; an announced slew or step takes effect in its frame. HOUSE (R202, R203): only the tug that UHK_HC_CTL names is
heard: the die takes its state and notes the corrections it announces; where the frames coincide, a carried time that differs is adopted at
the next boundary and recorded, and one that agrees changes nothing. The items of a record that Table FLT-11 leaves open (a cause number,
the order in DETAIL) are the model's (log 8), and so is the phase of HREF against the reset's release, by which a frame's first edge lies
one TCLK after the command (log 2). -/
def Obligations.HouseFramesBegin : Prop :=
  ∀ (s : State) (edges port : Nat) (href start value : W64) (st kind : BitVec 2) (frame : Nat),
    let h := s.house
    let c := edgesMade h
    let was := unstableFrame (countBefore h) c
    let mult := if 20 ≤ edges ∧ edges ≤ 48 then edges else s.clk.mult
    let heard := fun (q : Nat) => noteRx q 1 s
    let ours := port < 4 ∧ portUp s port = true ∧ hcSrc s = 1 ∧ hcTug s = port
    let k := nearestHref (max 1 h.len) ((h.edge : Int) - ((fabPort s port).transit : Int))
    let plain := h.frameStart + BitVec.ofInt 64 (frameTicks s h.frameNo)
    let carried := start + BitVec.ofInt 64 (ticksToEnd s (k / 5))
    let slew : Announce := { frame := h.frameNo + frame, slew := if value.msb then -1 else 1, step := none }
    let step_ : Announce := { frame := h.frameNo + frame, slew := 0, step := some value }
    (h.lead ≠ 0 → exec (.houseFrame edges href) s = .next { s with
        house := { h with frameStart := 0, href := 0, lead := 1, fresh := true, len := edges, unstable := decide (edges < 20) || decide (48 < edges) },
        clk := retune mult 0 s.clk })
    ∧ (h.lead = 0 → Completes (exec (.houseFrame edges href) s) fun t =>
        t.house.frameStart = nextStart s ∧ t.house.edge = 0 ∧ t.house.fresh = true ∧ t.house.n = c ∧ t.house.len = edges
          ∧ t.house.frameNo = h.frameNo + 1 ∧ t.house.unstable = unstableFrame (some c) edges ∧ t.house.badLast = was
          ∧ t.house.href = href ∧ t.house.adopt = none ∧ t.clk.mult = mult
          ∧ (was = true → Told t t 0x07 13 0 none [hcCode (hcReported s), h.offset.toNat, 1])
          ∧ (nextStart s ≠ href → Told t t 0x07 13 0 none [hcCode (hcReported s), h.offset.toNat, 2])
          ∧ t = { s with house := t.house, clk := t.clk, fab := t.fab, agenda := t.agenda, free := t.free })
    ∧ (port < 4 → portUp s port = false → exec (.house port start st kind value frame) s = .next s)
    ∧ (port < 4 → portUp s port = true → (hcSrc s ≠ 1 ∨ hcTug s ≠ port) → exec (.house port start st kind value frame) s = .next (heard port))
    ∧ (ours → h.state = hcOf st → k % 5 = 0 → carried = plain → exec (.house port start st 0 value frame) s = .next { heard port with
        house := { h with lastExch := (houseNow s).toNat } })
    ∧ (ours → h.state = hcOf st → k % 5 = 0 → carried ≠ plain → Completes (exec (.house port start st 0 value frame) s) fun t =>
        t.house = { h with lastExch := (houseNow s).toNat, adopt := some carried } ∧ t.fab = (heard port).fab
          ∧ Told t s 0x07 13 0 none [hcCode (hcReported s), h.offset.toNat, 3]
          ∧ t = { s with house := t.house, fab := t.fab, agenda := t.agenda, free := t.free })
    ∧ (ours → Completes (exec (.house port start st 0 value frame) s) fun t =>
        t.house.state = hcOf st ∧ t.house.lastExch = (houseNow s).toNat ∧ t.objs = s.objs ∧ t.stirs = s.stirs)
    ∧ (ours → frame ≠ 0 → Completes (exec (.house port start st 1 value frame) s) fun t => t.house.state = hcOf st ∧ slew ∈ t.house.announced)
    ∧ (ours → frame ≠ 0 → Completes (exec (.house port start st 2 value frame) s) fun t => t.house.state = hcOf st ∧ step_ ∈ t.house.announced)

/-- HOUSE_EXCHANGE, EXCHANGE_REPLY and HOLDOVER_LIMIT (R204, R205): a PERIOD of the package master queues an exchange, and one whose
exchange before has not completed leaves LOCKED for HOLDOVER; a peer answers with t2; at the master a reply to its exchange sets OFFSET in
every state, slews in LOCKED, counts an excursion above 8 ticks and relocks above 32, and locks after 16 good measurements or out of
HOLDOVER; HOLDOVER ends in FREE at its limit and is recorded. Any other reply only restarts its port's timeout. The items of a record that
Table FLT-11 leaves open (a cause number, the order in DETAIL) are the model's (log 8). -/
def Obligations.HouseTimeIsMeasured : Prop :=
  ∀ (s : State) (port : Nat) (t1 t2 t3 : W64), 8 ≤ port → port < 24 →
    let h := s.house
    let now := (houseNow s).toNat
    let fine : W64 := BitVec.ofNat 64 (houseFine s)
    let o := offsetOf (reg s 0x0118) t1 t2 t3 fine
    let size := o.natAbs
    let heard := (noteRx port 1 s).fab
    let queued := fun (q : Nat) (pkt : SpanPkt) => ({ port := q, part := none, pkt := pkt, ready := s.clk.tclk, beats := 1, next := 0 } : FabOut)
    let master := 8 + hcPeer s
    let began := { h with exch := none, exchOn := true, lastExch := now }
    let measure := portUp s port = true ∧ hcSrc s = 2 ∧ port = master ∧ h.exch = some t1
    let took := { h with offset := saturate16 (o / 128), exch := none, exchOn := false, lastExch := now }
    let slewed := { took with slew := -(o / 128) }
    let jump : Announce := { frame := h.frameNo + 65, slew := 0, step := some (h.frameStart + BitVec.ofInt 64 (128 * 65 - o / 128)) }
    let reply := exec (.exchangeReply port t1 t2 t3 false) s
    (hcSrc s ≠ 2 → exec .houseExchange s = .next s)
    ∧ (hcSrc s = 2 → h.exchOn = false → portUp s master = true → exec .houseExchange s = .next { s with
        house := began, fab := { s.fab with reinQ := s.fab.reinQ ++ [queued master (exchangePkt 1 0 0 0)] } })
    ∧ (hcSrc s = 2 → (h.exchOn = false ∨ h.state ≠ .locked) → portUp s master = false → exec .houseExchange s = .next { s with house := began })
    ∧ (hcSrc s = 2 → h.exchOn = true → h.state = .locked → Completes (exec .houseExchange s) fun t =>
        t.house = { began with state := .holdover, holdSince := now } ∧ t.objs = s.objs ∧ t.stirs = s.stirs ∧ t.tree = s.tree)
    ∧ (portUp s port = false → exec (.exchangeReply port t1 t2 t3 true) s = .next s ∧ reply = .next s)
    ∧ (portUp s port = true → exec (.exchangeReply port t1 t2 t3 true) s = .next { s with
        fab := { heard with reinQ := s.fab.reinQ ++ [queued port (exchangePkt 2 t1 fine 0)] } })
    ∧ (portUp s port = true → (hcSrc s ≠ 2 ∨ port ≠ master ∨ h.exch ≠ some t1) → reply = .next { s with fab := heard })
    ∧ (measure → h.state = .free → reply = .next { s with house := took, fab := heard })
    ∧ (measure → h.state = .locked → size ≤ 8 * 128 → reply = .next { s with house := slewed, fab := heard })
    ∧ (measure → h.state = .locked → 8 * 128 < size → size ≤ 32 * 128 → reply = .next { s with
        house := { slewed with excur := h.excur + 1 }, fab := heard, cyc := (rcBefore 0x011C h.excur s).cyc })
    ∧ (measure → h.state = .locked → 32 * 128 < size → Completes reply fun t =>
        t.house = { slewed with excur := h.excur + 1, good := 0, state := .locking }
          ∧ Told t s 0x07 13 0 none [1, (saturate16 (o / 128)).toNat, 5] ∧ t.objs = s.objs ∧ t.stirs = s.stirs)
    ∧ (measure → h.state = .locking → size ≤ 4 * 128 → h.good < 15 → reply = .next { s with
        house := { slewed with good := h.good + 1 }, fab := heard })
    ∧ (measure → h.state = .locking → size ≤ 4 * 128 → 15 ≤ h.good → Completes reply fun t =>
        t.house = { slewed with good := h.good + 1, state := .locked } ∧ t.objs = s.objs ∧ t.stirs = s.stirs ∧ t.tree = s.tree)
    ∧ (measure → h.state = .locking → 4 * 128 < size → size ≤ 1024 * 128 → reply = .next { s with
        house := { slewed with good := 0 }, fab := heard })
    ∧ (measure → h.state = .locking → 1024 * 128 < size → h.announced = [] → reply = .next { s with
        house := { took with good := 0, slew := 0, tell := true, announced := [jump] }, fab := heard })
    ∧ (measure → h.state = .holdover → size ≤ 8 * 128 → Completes reply fun t =>
        t.house = { slewed with state := .locked } ∧ t.objs = s.objs ∧ t.stirs = s.stirs)
    ∧ (measure → h.state = .holdover → 8 * 128 < size → Completes reply fun t =>
        t.house = { slewed with good := 0, state := .locking } ∧ t.objs = s.objs ∧ t.stirs = s.stirs)
    ∧ (limitPassed s = false → exec .holdoverLimit s = .next s)
    ∧ (limitPassed s = true → Completes (exec .holdoverLimit s) fun t =>
        t.house = { h with state := .free } ∧ Told t s 0x07 13 0 none [hcCode (hcReported t), h.offset.toNat, 6]
          ∧ t.objs = s.objs ∧ t.stirs = s.stirs)

/-! ## The fault manager -/

/-- FAULT_REPORT, FLT_TAIL_WRITE, LGCLR, ATTR_CLEAR and EXPORT_POP (R226, R230 to R233, R327): a record takes the next sequence number,
counts for its type and enters the log at HEAD, or adds to LOST while the log is full or failed; one of SEV 3 fills a free last-gasp
register; one of the types of R233 brings a signature while the export queue has room; a corrected error within a millisecond of its
source's last is counted only; a DETECTED vote and a slot error are stamped with the step count; TAIL moves within HEAD alone; the last-gasp
registers, an attribution record and the export queue's head are cleared, an INDEX that names no record is logged, and in reset nothing
changes. The items of a record that Table FLT-11 leaves open (a cause number, the order in DETAIL) are the model's (log 8). -/
def Obligations.RecordsEnterTheLog : Prop :=
  ∀ (s : State) (r : Report) (v : W32) (index : Nat),
    let f := s.flt
    let old := Tbl.get 0 f.cnt r.type
    let rec_ : FaultRec := { rep := r, seq := f.seq, sev := sevOf r.type }
    let counted := { f with cnt := Tbl.set 0 r.type (old + 1) f.cnt }
    let taken := { counted with seq := f.seq + 1,
                                gasp := if sevOf r.type = 3 ∧ f.gasp.length < 4 then f.gasp ++ [rec_] else f.gasp }
    let logged := { taken with log := Tbl.insert (f.head.toNat % 2048) rec_ f.log, head := f.head + 1 }
    let kept := fun (off : Nat) (n : W32) (c : State) => (rcBefore off n c).cyc
    let cyc := kept (0x4A00 + 4 * r.type) old s
    let sign : Signature :=
      { dieId := dieId s, serial := s.boot.fuses.serial, house := r.house, type := r.type, unit := r.unit, index := r.index,
        steps := f.steps.toNat, stamps := r.detail.getD 0 0, n := s.house.n, budget := s.pwr.budget.toNat }
    let plain := reportOk r = true ∧ r.type < 32 ∧ r.type ≠ 0x10 ∧ signs r = false
    let room := f.logMem = false ∧ logFull s = false
    let live := s.boot.inReset = false
    (plain → room → exec (.faultReport r) s = .next { s with flt := logged, cyc := cyc })
    ∧ (plain → (f.logMem = true ∨ logFull s = true) → Completes (exec (.faultReport r) s) fun t =>
        t.flt = { taken with lost := f.lost + 1 } ∧ t = { s with flt := t.flt, cyc := t.cyc })
    ∧ (reportOk r = true → room → (r.type = 0x16 ∨ r.type = 0x17) → f.exports.length < 32 → Completes (exec (.faultReport r) s) fun t =>
        t.flt = { logged with exports := f.exports ++ [sign] } ∧ t = { s with flt := t.flt, cyc := t.cyc })
    ∧ (reportOk r = true → room → (r.type = 0x16 ∨ r.type = 0x17) → 32 ≤ f.exports.length → Completes (exec (.faultReport r) s) fun t =>
        t.flt = { logged with expLost := f.expLost + 1 } ∧ t = { s with flt := t.flt, cyc := t.cyc })
    ∧ (reportOk r = true → r.type = 0x10 → tooSoon s r = true → exec (.faultReport r) s = .next { s with flt := counted, cyc := cyc })
    ∧ (reportOk r = true → r.type = 0x10 → tooSoon s r = false → room → exec (.faultReport r) s = .next { s with
        flt := { logged with corrAt := Tbl.insert (r.unit * 4096 + r.index) r.house.toNat f.corrAt }, cyc := cyc })
    ∧ (reportOk r = true → r.type = 0x11 → Completes (exec (.faultReport r) s) fun t =>
        (attr t (2048 + r.index)).stamps = (f.steps.toNat :: (attr s (2048 + r.index)).stamps).take 8 ∧ t = { s with flt := t.flt, cyc := t.cyc })
    ∧ (reportOk r = true → r.type = votesType → r.index = 147 → r.detail = [1, 0] → Completes (exec (.faultReport r) s) fun t =>
        (attr t 2195).stamps = (f.steps.toNat :: (attr s 2195).stamps).take 8 ∧ t = { s with flt := t.flt, cyc := t.cyc })
    ∧ (s.boot.inReset = true → index < 4096 → exec (.fltTailWrite v) s = .next s ∧ exec .lgclr s = .next s ∧ exec .exportPop s = .next s
        ∧ exec (.attrClear index) s = .next s)
    ∧ (live → (f.head - v.setWidth 12).toNat ≤ (f.head - f.tail).toNat →
        exec (.fltTailWrite v) s = .next { s with flt := { f with tail := v.setWidth 12 } })
    ∧ (live → (f.head - f.tail).toNat < (f.head - v.setWidth 12).toNat → Completes (exec (.fltTailWrite v) s) fun t =>
        Told t s 0x01 20 0 none [0x480C, v.toNat, 0x230] ∧ t = { s with agenda := t.agenda, free := t.free })
    ∧ (live → exec .lgclr s = .next { s with flt := { f with gasp := [] } })
    ∧ (live → index < 4096 → attrOk index = true →
        exec (.attrClear index) s = .next { s with flt := { f with attr := Tbl.set Attr.none index Attr.none f.attr } })
    ∧ (live → index < 4096 → attrOk index = false → Completes (exec (.attrClear index) s) fun t =>
        Told t s 0x01 20 0 none [0x484C, 2 ^ 31 + index, 14] ∧ t = { s with agenda := t.agenda, free := t.free })
    ∧ (live → s.cyc.exports < f.exports.length → exec .exportPop s = .next { s with flt := { f with exports := f.exports.drop 1 } })
    ∧ (live → f.exports.length ≤ s.cyc.exports → exec .exportPop s = .next s)

/-- PATROL_SCRUB, BIST_START and BIST_DONE (R27, R211, R213, R214, R229, Tables FLT-1 and FLT-2): a corrected error is recorded; a slot
error poisons the epoch whose partial the node has not sent, and is recorded; a state error's partition is reset; retention parity loads
role and FROZEN again; a trace record is marked, a log error fails the log; nothing found changes nothing. A test runs its time where its
target allows, is refused elsewhere and logged while one runs; a target that passes is in service, one that fails is out of it and recorded.
The items of a record that Table FLT-11 leaves open (a cause number, the order in DETAIL) are the model's (log 8). -/
def Obligations.ErrorsAreContainedAndTested : Prop :=
  ∀ (s : State) (unit index addr st kind fails b slot check p ram : Nat) (x : TraceRec), b < 18 → slot < 512 → p < 64 → unit < 256 →
    let at_ := Place.barn b
    let ns := node s at_ slot
    let poisoned := { ns with cur := { ns.cur with poison := true } }
    let tested := (s.bist.kind, s.bist.index)
    let done := { s.bist with busy := false, result := 1, fails := BitVec.ofNat 16 (min fails 0xFFFF),
                              failed := s.bist.failed.filter (· != tested) }
    let mayStart := index < 256 ∧ s.boot.inReset = false ∧ s.bist.busy = false ∧ kind < 5
    exec (.patrolScrub none) s = .next s
    ∧ (index < 4096 → Completes (exec (.patrolScrub (some (.corrected unit index addr))) s) fun t =>
        Told t s 0x10 unit index none [unit, addr] ∧ t = { s with agenda := t.agenda, free := t.free })
    ∧ (isCount s slot = false → ns.sent = false → combining s at_ slot ns.epoch = false →
        Completes (exec (.patrolScrub (some (.slot at_ slot none check))) s) fun t =>
          t.tree = { s.tree with nodes := Tbl.set NodeSlot.none (nodeKey at_ slot) poisoned s.tree.nodes }
            ∧ Told t s 0x11 3 (126 + b) (slotOwner s slot) [slot, ns.epoch.toNat, check]
            ∧ t = { s with tree := t.tree, agenda := t.agenda, free := t.free })
    ∧ ((part s p).state ≠ .free → (part s p).state ≠ .resetting →
        Completes (exec (.patrolScrub (some (.state p unit ram addr))) s) fun t =>
          (part t p).state = .resetting ∧ Told t s 0x13 unit p (some p) [ram, addr])
    ∧ (st < nStirrup → exec (.patrolScrub (some (.retention st))) s = .next { s with
        stirs := Tbl.set Stirrup.initial st { stir s st with role := rosterWord s st, frozen := s.tree.frozen.contains st } s.stirs })
    ∧ exec (.patrolScrub (some .snapshot)) s = .next { s with obs := { s.obs with snapBad := true } }
    ∧ (s.obs.spill = [x] → exec (.patrolScrub (some (.spill 0))) s = .next { s with obs := { s.obs with
        spill := [{ x with bad := true }] } })
    ∧ Completes (exec (.patrolScrub (some (.logMemory addr))) s) (fun t =>
        t.flt = { s.flt with logMem := true, faultN := false } ∧ Told t s 0x1C 20 0 none [addr]
          ∧ t = { s with flt := t.flt, agenda := t.agenda, free := t.free })
    ∧ (mayStart → testAllowed s kind index = true → Completes (exec (.bistStart kind index) s) fun t =>
        t.bist = { s.bist with busy := true, kind := kind, index := index }
          ∧ (∃ pass n, { clk := .house, due := (houseNow s).toNat + testUs kind * usTicks, ev := .bistDone pass n } ∈ t.agenda)
          ∧ t = { s with bist := t.bist, agenda := t.agenda, free := t.free })
    ∧ (mayStart → testAllowed s kind index = false → Completes (exec (.bistStart kind index) s) fun t =>
        t.bist = { s.bist with result := 3 } ∧ Told t s 0x19 (testPart kind index).1 (testPart kind index).2 none [kind, index, 3, 0]
          ∧ t = { s with bist := t.bist, agenda := t.agenda, free := t.free })
    ∧ (kind < 8 → index < 256 → s.boot.inReset = false → (5 ≤ kind ∨ s.bist.busy = true) → Completes (exec (.bistStart kind index) s) fun t =>
        Told t s 0x01 20 0 none [0x8100, 2 ^ 31 + kind * 2 ^ 16 + index, 14] ∧ t = { s with agenda := t.agenda, free := t.free })
    ∧ (kind < 8 → index < 256 → s.boot.inReset = true → exec (.bistStart kind index) s = .next s)
    ∧ (s.bist.busy = true → exec (.bistDone true fails) s = .next { s with
        bist := done, agenda := s.agenda.filter fun a => !isBistDone a.ev })
    ∧ (s.bist.busy = true → Completes (exec (.bistDone false fails) s) fun t =>
        t.bist = { done with result := 2, failed := done.failed ++ [tested] }
          ∧ Told t s 0x19 (testPart s.bist.kind s.bist.index).1 (testPart s.bist.kind s.bist.index).2 none
              [s.bist.kind, s.bist.index, 2, min fails 0xFFFF]
          ∧ (s.bist.kind = 3 → t.flt.dieErr = true) ∧ (s.bist.kind ≠ 3 → t = { s with bist := t.bist, agenda := t.agenda, free := t.free }))
    ∧ (s.bist.busy = false → ∀ pass, exec (.bistDone pass fails) s = .next s)

/-- RECIPE, DEBUG_TOKEN, NONCE_READ, DROP and AUTH_EXPIRY (R234, R251, R294, Table BOO-3): a recipe answers its result and is recorded,
takes effect on acceptance alone, and is accepted only with a sequence above the last; a token grants its scope and expiry on acceptance
alone, never with the debug fuse blown or in reduced service, and a nonce it names is spent; a nonce read issues a new one; an authorisation
and SCANOK end on DROP and at its expiry; in reset nothing of this happens. What a message holds and whether its signature holds are open
values of Config (log 4). The items of a record that Table FLT-11 leaves open (a cause number, the order in DETAIL) are the model's (log 8). -/
def Obligations.RecipesAndTokensAreJudged : Prop :=
  ∀ (s : State) (msg : List (BitVec 8)),
    let code := (judgeRecipe msg s).1
    let token := judgeToken msg s
    let d := { s.dbg with result := BitVec.ofNat 4 token.1, nonceOk := s.dbg.nonceOk && !namesNonce msg s }
    let live := s.boot.inReset = false
    let ended := { s with dbg := { s.dbg with auth := 0 }, cur := { s.cur with scanOk := false } }
    (live → Completes (exec (.recipe msg) s) fun t =>
        t.su.mbBusy = false ∧ t.su.mbResult = (if code = 1 then 1 else 2) ∧ t.flt.rcpResult = BitVec.ofNat 4 code
          ∧ Told t s 0x1A 20 0 none [recipeSeq msg, code]
          ∧ (code = 1 → s.flt.rcpSeq.toNat < t.flt.rcpSeq.toNat ∧ t.flt.rcpStaged.isSome = true ∧ t.su.dwPending = true)
          ∧ (code ≠ 1 → t = { s with su := { s.su with mbBusy := false, mbResult := 2 },
                                     flt := { s.flt with rcpResult := BitVec.ofNat 4 code }, agenda := t.agenda, free := t.free }))
    ∧ (live → Completes (exec (.debugToken msg) s) fun t =>
        t.su = { s.su with mbBusy := false, mbResult := if token.1 = 1 then 1 else 2 }
          ∧ Told t s 0x1A 20 0 none [0, token.1]
          ∧ (token.1 = 1 → t.dbg = { d with auth := BitVec.ofNat 2 token.2.1, expiry := BitVec.ofNat 64 token.2.2 }
              ∧ t.cur = { s.cur with scanOk := s.cur.scanOk && token.2.1 / 2 % 2 == 1 })
          ∧ (token.1 ≠ 1 → t.dbg = d ∧ t.cur = s.cur)
          ∧ (s.dbg.disabled = true ∨ s.boot.reduced = true → t.dbg.auth = s.dbg.auth ∧ t.dbg.result ≠ 1)
          ∧ t = { s with su := t.su, dbg := t.dbg, cur := t.cur, agenda := t.agenda, free := t.free })
    ∧ (live → Completes (exec .nonceRead s) fun t =>
        t.dbg = { s.dbg with nonce := t.dbg.nonce, nonceOk := true }
          ∧ t.su = { s.su with rdata := t.dbg.nonce &&& 0xFFFF_FFFF#64 } ∧ t = { s with dbg := t.dbg, su := t.su, free := s.free + 1 })
    ∧ (live → exec .drop s = .next ended)
    ∧ (authOver s = false → exec .authExpiry s = .next s)
    ∧ (authOver s = true → exec .authExpiry s = .next ended)
    ∧ (s.boot.inReset = true → exec (.recipe msg) s = .next s ∧ exec (.debugToken msg) s = .next s ∧ exec .drop s = .next s
        ∧ exec .nonceRead s = .next { s with su := { s.su with rdata := 0 } })

/-! ## Partitions -/

/-- CREATE, DESTROY, RESET, REVOKE and DONE_FORCED (R214, R238, R241, R242, R248, Table PAR-3): each in a state that allows it does its
work: CREATE checks the staged entry, applies what is staged and makes the partition ACTIVE; DESTROY and RESET keep BUSY while the reset
runs; REVOKE narrows the entry at once and ends, or, where a group, a right or the PASID was lost, keeps BUSY for 2 us, after which a
checked operation that has not executed ends with ABORTED and RESULT is DONE_FORCED. One not allowed is REJECTED with its cause. -/
def Obligations.PartitionsAreMadeResetAndNarrowed : Prop :=
  ∀ (s : State) (p : Nat) (c : Crossing) (g : Nat × Nat), p < 64 →
    let x := part s p
    let ends := fun (result : BitVec 3) (cause : BitVec 4) (u : State) =>
      { u with su := { u.su with pcBusy := false, pcResult := result, pcCause := cause } }
    let busy := { s with su := { s.su with pcBusy := true } }
    let narrowed := changeMap p (narrow p) s
    let gone := (groupsIn s p).filter fun g => !(groupsIn narrowed p).contains g
    let lost := lostRights s narrowed p
    let runs := fun (cause : Nat) (o : Host.Outcome State Fault Refusal) => Completes o fun t =>
      t = partReset p cause false busy ∧ (part t p).state = .resetting ∧ t.su.pcBusy = true
        ∧ ∃ e ∈ t.agenda, e.clk = .tclk ∧ e.ev = .partReset p cause true
    let full := s.boot.reduced = false
    (p ≠ 0 → full → x.state = .free → partRow s p = 0 → Completes (exec (.create p) s) fun t =>
        t = ends 1 0 (loadRate p true (applyPoint p (setPart p (Part.initial .active) (dropSlots (stagedSlots s p) s))))
          ∧ (part t p).state = .active ∧ (part t p).curtain = 0)
    ∧ (p ≠ 0 → full → x.state = .free → partRow s p ≠ 0 → Completes (exec (.create p) s) fun t =>
        t.su.pcBusy = false ∧ t.su.pcResult = 2 ∧ t.su.pcCause = 2 ∧ t.force = s.force ∧ t.parts = s.parts ∧ t.objs = s.objs)
    ∧ (p = 0 ∨ s.boot.reduced = true ∨ x.state ≠ .free → exec (.create p) s = .next (ends 2 1 s))
    ∧ (p ≠ 0 → full → x.state = .quiesced → assignedOf s p = [] → runs causeDestroy (exec (.destroy p) s))
    ∧ (p = 0 ∨ s.boot.reduced = true ∨ x.state ≠ .quiesced → exec (.destroy p) s = .next (ends 2 1 s))
    ∧ (p ≠ 0 → full → x.state = .quiesced → assignedOf s p ≠ [] → exec (.destroy p) s = .next (ends 2 3 s))
    ∧ (full → x.state ≠ .free → x.state ≠ .resetting → runs causeReset (exec (.reset p) s))
    ∧ (s.boot.reduced = true ∨ x.state = .free ∨ x.state = .resetting → exec (.reset p) s = .next (ends 2 1 s))
    ∧ (full → (x.state = .active ∨ x.state = .quiesced) → gone = [] → lost = 0 → exec (.revoke p) s = .next (ends 1 0 narrowed))
    ∧ (full → (x.state = .active ∨ x.state = .quiesced) → (gone ≠ [] ∨ lost ≠ 0) → Completes (exec (.revoke p) s) fun t =>
        { clk := .house, due := (houseNow s).toNat + 2 * usTicks, ev := .doneForced p } ∈ t.agenda
          ∧ t = { narrowed with su := { narrowed.su with pcBusy := true, revoked := gone, narrowed := lost }, agenda := t.agenda })
    ∧ (s.boot.reduced = true ∨ (x.state ≠ .active ∧ x.state ≠ .quiesced) → exec (.revoke p) s = .next (ends 2 1 s))
    ∧ (revoking s = false → exec (.doneForced p) s = .next s)
    ∧ (revoking s = true → s.su.revoked = [] → s.hq.descs = [] → Completes (exec (.doneForced p) s) fun t =>
        t.su = { s.su with pcBusy := false, pcResult := 1, pcCause := 0, revoked := [], narrowed := 0 }
          ∧ t.objs = s.objs ∧ t.stirs = s.stirs ∧ t.force = s.force)
    ∧ (s.su.revoked = [g] → s.home.crossing = [c] → c.req.part = p → inGroup g c.req.tok c.req.obj = true → c.req.src < nStirrup →
        Completes (exec (.doneForced p) s) fun t =>
          t.su = { s.su with pcBusy := false, pcResult := 3, pcCause := 0, revoked := [], narrowed := 0 }
            ∧ t.home.crossing = [] ∧ Answers t c.req stAborted 0)

/-- RESUME, SPLIT, ACCOUNTING_WINDOW, DIRTY_CLEAR and QUIESCED (R237, R239, R243, R247, R249, R269, Table PAR-6): RESUME makes a QUIESCED
partition ACTIVE, issues the writes kept for it and lets its work go on; SPLIT carves partitions 1 to k, each ACTIVE, where every other
partition is FREE; what is in force for rate, burst and share changes at its window alone; DIRTY_CLEAR empties the round of the partition
selected; a quiescing partition at rest becomes QUIESCED, and no other does. A command not allowed is REJECTED with its cause. -/
def Obligations.PartitionsRestSplitAndAccount : Prop :=
  ∀ (s : State) (p k : Nat), p < 64 → k < 64 →
    let x := part s p
    let ends := fun (result : BitVec 3) (cause : BitVec 4) (u : State) =>
      { u with su := { u.su with pcBusy := false, pcResult := result, pcCause := cause } }
    let full := s.boot.reduced = false
    let alone := (((List.range 64).drop 1).any fun q => (part s q).state ≠ .free) = false
    let w := reg s (partKey p 0x10)
    let taken := setPart p { x with rateEff := bitsN w 24 16, burstEff := bitsN w 7 0 } s
    (full → x.state = .quiesced → Completes (exec (.resume p) s) fun t =>
        t = ends 1 0 (resumePart p (event p 0x0A 0 0 (issueKept p (setPart p { x with state := .active } s))))
          ∧ (part t p).state = .active ∧ (∀ y ∈ t.hq.kept, y ∈ s.hq.kept ∧ y.part ≠ p))
    ∧ (s.boot.reduced = true ∨ x.state ≠ .quiesced → exec (.resume p) s = .next (ends 2 1 s))
    ∧ (full → 1 ≤ k → k ≤ 55 → alone → splitBlocked s k = false → Completes (exec (.split k) s) fun t =>
        t = ends 1 0 (splitAll k s) ∧ ∀ i ∈ List.range k, (part t (i + 1)).state = .active)
    ∧ (s.boot.reduced = true → exec (.split k) s = .next (ends 2 1 s))
    ∧ (full → (k = 0 ∨ 55 < k) → exec (.split k) s = .next (ends 2 4 s))
    ∧ (full → 1 ≤ k → k ≤ 55 → ¬ alone → exec (.split k) s = .next (ends 2 1 s))
    ∧ (full → 1 ≤ k → k ≤ 55 → alone → splitBlocked s k = true → exec (.split k) s = .next (ends 2 2 s))
    ∧ (livePartitions s = [p] → exec (.accountingWindow .trace) s = .next (setPart p { x with shareEff := fld s (partKey p 0x0C) 7 0 } s))
    ∧ (livePartitions s = [p] → x.rateEff = 0 → bitsN w 24 16 ≠ 0 →
        exec (.accountingWindow .refill) s = .next (setBucket p (16 * bitsN w 7 0) taken))
    ∧ (livePartitions s = [p] → (x.rateEff ≠ 0 ∨ bitsN w 24 16 = 0) →
        exec (.accountingWindow .refill) s = .next (setBucket p (min (bucketOf s p) (16 * bitsN w 7 0)) taken))
    ∧ (s.boot.inReset = false → dirtyPart s = p → exec .dirtyClear s =
        .next (setPart p { x with dirty := { x.dirty with ovf := false, cache := [] } } s))
    ∧ (s.boot.inReset = true → exec .dirtyClear s = .next s)
    ∧ (x.state ≠ .quiescing ∨ atRest s p = false → exec (.quiesced p) s = .next s)
    ∧ (x.state = .quiescing → atRest s p = true → s.hq.descs = [] → Completes (exec (.quiesced p) s) fun t =>
        (part t p).state = .quiesced ∧ (part t p).curtain = x.curtain
          ∧ t = { s with parts := t.parts, page := t.page, hq := t.hq, agenda := t.agenda, cyc := t.cyc })

/-! ## Host rings -/

/-- SQ_DOORBELL, SQ_ENABLE, SQ_RESET, CQ_RESET, EQ_RESET and CQ_DOORBELL (R254, R255, R263): a valid doorbell sets PROD, and so does one to
a ring with EN 0; an invalid one changes neither PROD nor anything fetched before CONS and stops the ring at CONS with cause 0x04, an event
and a record; EN rising sets CONS to PROD, a size outside 6 to 16 is ignored and counted; RESET of a submission ring discards what lies
behind CONS, of a stopped completion or event ring what was not consumed; in reset nothing changes. The items of a record that Table FLT-11
leaves open (the order in DETAIL) are the model's (log 8). -/
def Obligations.RingsRunAndStop : Prop :=
  ∀ (s : State) (p q : Nat) (v : W32), p < 64 → q < 4 →
    let ctl := pageReg s p (0x20 * q + 8)
    let prod := pageReg s p (0x20 * q + 0xC)
    let cons := pageReg s p (0x20 * q + 0x10)
    let n := (v - cons).toNat
    let inRange := (prod - cons).toNat ≤ n ∧ n ≤ 2 ^ bitsN ctl 4 0
    let live := s.boot.inReset = false
    let cut := fun (t : State) => t = { s with page := t.page, hq := { s.hq with wbDue := t.hq.wbDue }, agenda := t.agenda }
    let sized := fun (en size : Nat) (u : State) => setPage p (0x20 * q + 8) (putBits (putBits ctl 31 31 en) 4 0 size) u
    (live → (bitB ctl 31 = false ∨ s.boot.reduced = true ∨ inRange) → exec (.sqDoorbell p q v) s = .next (setPage p (0x20 * q + 0xC) v s))
    ∧ (live → bitB ctl 31 = true → s.boot.reduced = false → ¬ inRange → Completes (exec (.sqDoorbell p q v) s) fun t =>
        t = stopRing p q cons 0x04 0xFF s
          ∧ pageReg t p (0x20 * q + 8) = putBits (ctl ||| 0x4000_0000#32) 23 16 4 ∧ pageReg t p (0x20 * q + 0xC) = prod
          ∧ Told t s 0x0F 17 q (some p) [2, 0xFF, 4]
          ∧ t.hq.descs = s.hq.descs.filter fun d => !(d.x.part == p && d.x.ring == q && !d.started && decide ((d.x.idx - cons).toNat < 2 ^ 31)))
    ∧ (live → bitB ctl 31 = false → bitB v 31 = true → bitB v 29 = false → 6 ≤ bitsN v 4 0 → bitsN v 4 0 ≤ 16 →
        Completes (exec (.sqEnable p q v) s) fun t =>
          t.page = (setPage p (0x20 * q + 0x10) prod (sized 1 (bitsN v 4 0) s)).page ∧ cut t)
    ∧ (live → bitB ctl 31 = true → bitB v 31 = false → bitB v 29 = false → bitsN v 4 0 = bitsN ctl 4 0 →
        exec (.sqEnable p q v) s = .next (sized 0 (bitsN ctl 4 0) s))
    ∧ (live → bitB ctl 31 = false → bitB v 31 = false → bitB v 29 = false → (bitsN v 4 0 < 6 ∨ 16 < bitsN v 4 0) →
        exec (.sqEnable p q v) s = .next (sized 0 (bitsN ctl 4 0) (ppErr p s)))
    ∧ (live → bitB ctl 31 = true → bitB v 31 = true → bitB v 29 = true → bitsN v 4 0 = bitsN ctl 4 0 →
        exec (.sqEnable p q v) s = .next (sqRestart p q (sized 1 (bitsN ctl 4 0) s)))
    ∧ (live → Completes (exec (.sqReset p q) s) fun t =>
        t.page = (setPage p (0x20 * q + 0x10) prod (setPage p (0x20 * q + 8) (ctl &&& 0xBFFF_FFFF#32) s)).page ∧ cut t)
    ∧ (bitB (pageReg s p 0x88) 30 = false → exec (.cqReset p) s = .next s)
    ∧ (live → bitB (pageReg s p 0x88) 30 = true → Completes (exec (.cqReset p) s) fun t =>
        t.page = (setPage p 0x8C (pageReg s p 0x90) (setPage p 0x88 (pageReg s p 0x88 &&& 0xBFFF_FFFF#32) s)).page ∧ cut t)
    ∧ (bitB (pageReg s p 0xA8) 30 = false → exec (.eqReset p) s = .next s)
    ∧ (live → bitB (pageReg s p 0xA8) 30 = true → Completes (exec (.eqReset p) s) fun t =>
        t.page = (setPage p 0xAC (pageReg s p 0xB0) (setPage p 0xA8 (pageReg s p 0xA8 &&& 0xBFFF_FFFF#32) s)).page ∧ cut t)
    ∧ (live → exec (.cqDoorbell p v) s = .next (setPage p 0x90 v s))
    ∧ (s.boot.inReset = true → exec (.sqDoorbell p q v) s = .next s ∧ exec (.sqEnable p q v) s = .next s ∧ exec (.sqReset p q) s = .next s
        ∧ exec (.cqReset p) s = .next s ∧ exec (.eqReset p) s = .next s ∧ exec (.cqDoorbell p v) s = .next s)

/-- DMA_FAULT, IRQ_TIMER, IRQ_ACK, INDEX_WRITEBACK and POWER_DOWN (R254, R263, R267, R270, R323): a faulting descriptor read stops its ring
at the descriptor with cause 5, the completion and event rings stop with causes 6 and 7, each with a record; TIMER raises the interrupt of
the completions not yet signalled, behind the writes it announces; the host bridge takes the oldest interrupt; an index record is queued for
the host, or kept while the partition is QUIESCED; power-down ends the fetched descriptors, waits for the read that follows the last writes,
and is acknowledged with the Manager cause set on every partition once it has returned. The items of a record that Table FLT-11 leaves open
(the order in DETAIL) are the model's (log 8). -/
def Obligations.HostWritesAndInterruptsLeave : Prop :=
  ∀ (s : State) (p q : Nat) (d : DescState) (y : SnapRun), p < 64 → q < 4 →
    let ctl := pageReg s p (0x20 * q + 8)
    let vec := bitsN (pageReg s p 0x88) 28 27
    let hq := s.hq
    let stopped := fun (cause : Nat) (op : Nat) (idx : W32) (t : State) =>
      pageReg t p (0x20 * q + 8) = putBits (ctl ||| 0x4000_0000#32) 23 16 cause ∧ pageReg t p (0x20 * q + 0x10) = idx
        ∧ Told t s 0x0F 17 q (some p) [2, op, cause]
    let since := Tbl.get 0 hq.cqSince p ≠ 0 ∧ bitB (pageReg s p 0x88) 26 = true
    let signalled := { hq with cqSince := Tbl.set 0 p 0 hq.cqSince, cqFirst := Tbl.set 0 p 0 hq.cqFirst, cqWant := hq.cqWant &&& ~~~ (1#64 <<< p) }
    let quiet := s.agenda.filter fun a => !(a.ev == .irqTimer p)
    let holds := (hq.kept.any fun w => w.part == p) = true
    let free := (hq.kept.any fun w => w.part == p) = false
    let due := hq.wbDue.contains p = true
    let back := { hq with wbDue := hq.wbDue.filter (· != p), wbAt := Tbl.set 0 p (houseNow s).toNat hq.wbAt }
    let record : DmaWrite :=
      { part := p, kind := 3, addr := pageReg s p 0xC4 ++ (pageReg s p 0xC0 &&& 0xFFFF_FFC0#32),
        data := [pageReg s p 0x30 ++ pageReg s p 0x10, pageReg s p 0x70 ++ pageReg s p 0x50, pageReg s p 0xAC ++ pageReg s p 0x8C, 0, 0, 0, 0, 0] }
    let left := s.agenda.filter fun a => !(a.ev == .indexWriteback p)
    let idle := (s.agenda.any fun a => a.ev == .powerDown) = false
    Completes (exec (.dmaFault p .event) s) (fun t =>
        t.page = (setPage p 0xA8 (pageReg s p 0xA8 ||| 0x4000_0000#32) s).page ∧ Told t s 0x0F 17 5 (some p) [2, 0xFF, 7]
          ∧ t = { s with page := t.page, agenda := t.agenda, free := t.free })
    ∧ Completes (exec (.dmaFault p .completion) s) (fun t =>
        pageReg t p 0x88 = pageReg s p 0x88 ||| 0x4000_0000#32 ∧ Told t s 0x0F 17 4 (some p) [2, 0xFF, 6] ∧ t.hq.descs = hq.descs)
    ∧ (hq.descs = [] → exec (.dmaFault p (.descRead q)) s = .next s)
    ∧ (hq.descs = [d] → d.x.part = p → d.x.ring = q → d.decoded = false → d.started = false → d.aborted = false →
        Completes (exec (.dmaFault p (.descRead q)) s) fun t => stopped 5 0xFF d.x.idx t ∧ t.hq.descs = [])
    ∧ (hq.descs = [d] → d.x.part = p → d.x.ring = q → d.decoded = false → d.aborted = true →
        exec (.dmaFault p (.descRead q)) s = .next { s with hq := { hq with descs := [] } })
    ∧ (s.obs.snaps = [] → exec (.dmaFault p (.snapshot q)) s = .next s)
    ∧ (s.obs.snaps = [y] → y.x.part = p → y.x.ring = q → y.stage = 4 → Completes (exec (.dmaFault p (.snapshot q)) s) fun t =>
        stopped 8 8 y.x.idx t ∧ t.obs.snaps = [])
    ∧ (Tbl.get 0 hq.cqSince p = 0 ∨ bitB (pageReg s p 0x88) 26 = false → exec (.irqTimer p) s = .next s)
    ∧ (since → free → hq.dmaQ = [] → exec (.irqTimer p) s = .next { s with
        hq := { signalled with irqs := hq.irqs ++ [(p, vec)] }, agenda := quiet })
    ∧ (since → free → hq.dmaQ ≠ [] → exec (.irqTimer p) s = .next { s with
        hq := { signalled with dmaQ := hq.dmaQ ++ [.irq p vec] }, agenda := quiet })
    ∧ (since → holds → exec (.irqTimer p) s = .next { s with hq := { signalled with keptIrqs := hq.keptIrqs ++ [(p, vec)] }, agenda := quiet })
    ∧ exec .irqAck s = .next { s with hq := { hq with irqs := hq.irqs.drop 1 } }
    ∧ (hq.wbDue.contains p = false → exec (.indexWriteback p) s = .next s)
    ∧ (due → bitB (pageReg s p 0xC0) 0 = true → dmaAllowed s p = true → ((part s p).state ≠ .quiesced ∨ hq.off = true) →
        (part s p).dirty.en = false → exec (.indexWriteback p) s = .next { s with
          hq := { back with dmaQ := hq.dmaQ ++ [.write record] }, agenda := left })
    ∧ (due → bitB (pageReg s p 0xC0) 0 = true → dmaAllowed s p = true → (part s p).state = .quiesced → hq.off = false →
        exec (.indexWriteback p) s = .next { s with hq := { back with kept := hq.kept ++ [record] }, agenda := left })
    ∧ (due → (bitB (pageReg s p 0xC0) 0 = false ∨ dmaAllowed s p = false) → exec (.indexWriteback p) s = .next { s with hq := back, agenda := left })
    ∧ (¬ idle → exec .powerDown s = .next s)
    ∧ (idle → hq.off = true → hq.flushWait = false → awaiting s = false → hq.wbDue = [] → hq.kept = [] → hq.keptIrqs = [] →
        Completes (exec .powerDown s) fun t =>
          t.hq = { hq with dmaQ := hq.dmaQ ++ [.flush], flushWait := true } ∧ (∃ a ∈ t.agenda, a.clk = .eclk ∧ a.ev = .powerDown)
            ∧ t = { s with hq := t.hq, agenda := t.agenda, free := t.free })
    ∧ (idle → hq.off = true → hq.flushWait = true → hq.dmaQ.contains .flush = true → Completes (exec .powerDown s) fun t =>
        (∃ a ∈ t.agenda, a.clk = .eclk ∧ a.due = s.clk.eclk + 1 ∧ a.ev = .powerDown) ∧ t = { s with agenda := t.agenda })
    ∧ (idle → hq.off = true → hq.flushWait = true → hq.dmaQ.contains .flush = false → Completes (exec .powerDown s) fun t =>
        t.su = { s.su with mbBusy := false, mbResult := 1 } ∧ t.hq.off = true ∧ t.hq.flushWait = false
          ∧ (∀ i ∈ List.range 64, (part t i).causes = (part s i).causes ||| 0x10) ∧ t.objs = s.objs ∧ t.tree = s.tree)
    ∧ (idle → hq.off = false → s.obs.snaps = [] → hq.descs = [d] → d.decoded = true → Completes (exec .powerDown s) fun t =>
        t.hq.off = true ∧ (d.x.part < 64 → t.hq.descs = []) ∧ ∃ a ∈ t.agenda, a.clk = .eclk ∧ a.ev = .powerDown)

/-- DESCRIPTOR_FETCH, DESCRIPTOR_DECODE, NOP, TRACE_MARK, SNAPSHOT and PART_QUIESCE (R254, R256 to R259, R264, R266, R268, R269, R284,
R293): a fetch issues one read of 64 bytes and advances CONS; decoding accepts a well-formed descriptor, stops the ring at one that is not,
and ends with ABORTED one that was aborted before its words came; a started NOP completes OK; TRACE_MARK's record enters the spill; SNAPSHOT
joins the queue, captures the partition under its curtain and completes once its pages are written; PART_QUIESCE makes its target QUIESCING,
and completes at once where it is QUIESCED. What a snapshot's head and waiter records hold is an open value of Config (log 4). -/
def Obligations.DescriptorsAreFetchedAndStart : Prop :=
  ∀ (s : State) (x : Desc) (d : DescState) (p q : Nat) (y : SnapRun), descOk x = true →
    let alone := s.hq.descs = [d] ∧ d.x = x ∧ d.decoded = true ∧ d.started = false ∧ d.refusal = 0 ∧ covered s x.part = false
    let going := [{ d with started := true, parked := false }]
    let ok := fun (op : Nat) => alone ∧ descOp x = op
    let waits := s.hq.descs = [d] ∧ sameDesc d.x x = true ∧ d.decoded = false
    let cons := pageReg s p (0x20 * q + 0x10)
    let size := 2 ^ bitsN (pageReg s p (0x20 * q + 8)) 4 0
    let at_ := ringBase (pageReg s p (0x20 * q)) (pageReg s p (0x20 * q + 4)) + BitVec.ofNat 64 (64 * (cons.toNat % size))
    let fetched : DescState :=
      { x := { part := p, ring := q, idx := cons, d := [] }, decoded := false, aborted := false, readyAt := 0, started := false,
        parked := false, refusal := 0, endAt := 0, ids := [], left := 0, next := 0, worst := stOk }
    let mark : TraceRec :=
      { part := x.part, reserved := false, bad := false,
        bits := traceWord 4 x.part (0x7FF * 2 ^ 107 + descBits x 1 31 0 * 2 ^ 62 + traceTime (houseNow s) + 2 ^ 20) }
    let target := descBits x 1 5 0
    let snap := s.obs.snaps = [y] ∧ y.x = x ∧ descOp x = 8 ∧ malformed s x = 0 ∧ y.raised = false
    let staged := fun (k : Nat) => [{ y with stage := k }]
    (nextFetch s = none → exec .descriptorFetch s = .next s)
    ∧ (nextFetch s = some (p, q) → Completes (exec .descriptorFetch s) fun t =>
        t.hq = { s.hq with descs := s.hq.descs ++ [fetched], rr := (p + 1) % 64, rings := Tbl.set 0 p ((q + 1) % 4) s.hq.rings,
                           dmaQ := s.hq.dmaQ ++ [.read { part := p, addr := at_, bytes := 64 }], wbDue := t.hq.wbDue }
          ∧ t.page = (setPage p (0x20 * q + 0x10) (cons + 1) s).page ∧ t = { s with hq := t.hq, page := t.page, agenda := t.agenda })
    ∧ (waits → d.aborted = false → malformed s x = 0 →
        exec (.descriptorDecode x) s = .next { s with hq := { s.hq with descs := [decodedOf s x] } })
    ∧ (waits → d.aborted = false → d.started = false → malformed s x ≠ 0 → Completes (exec (.descriptorDecode x) s) fun t =>
        t = stopRing x.part x.ring x.idx (malformed s x) (descOp x) s ∧ t.hq.descs = []
          ∧ Told t s 0x0F 17 x.ring (some x.part) [2, descOp x, malformed s x]
          ∧ pageReg t x.part (0x20 * x.ring + 8) = putBits (pageReg s x.part (0x20 * x.ring + 8) ||| 0x4000_0000#32) 23 16 (malformed s x)
          ∧ pageReg t x.part (0x20 * x.ring + 0x10) = x.idx)
    ∧ (waits → d.aborted = true → Completes (exec (.descriptorDecode x) s) fun t => Completed t s x stAborted ∧ t.objs = s.objs)
    ∧ (s.hq.descs = [] → exec (.descriptorDecode x) s = .next s)
    ∧ (ok 0 → Completes (exec (.nop x) s) fun t => Completed t s x stOk ∧ t.objs = s.objs ∧ t.stirs = s.stirs ∧ t.tree = s.tree)
    ∧ (ok 7 → traceMode s = 2 → (part s x.part).shareEff ≠ 0 → s.obs.dropPhase = false → unreservedCount s < 16255 →
        overShare s x.part = false → Completes (exec (.traceMark x) s) fun t =>
          Completed t s x stOk ∧ t.obs.spill = s.obs.spill ++ [mark] ∧ t.objs = s.objs ∧ t.stirs = s.stirs)
    ∧ (ok 7 → (part s x.part).shareEff = 0 → Completes (exec (.traceMark x) s) fun t =>
        Completed t s x stOk ∧ t.obs = s.obs ∧ counter t x.part 11 = counter s x.part 11 + 1)
    ∧ (ok 8 → s.obs.snaps = [] → exec (.snapshot x) s = .next { s with
        hq := { s.hq with descs := going },
        obs := { s.obs with snaps := [{ x := x, raised := false, stage := 0 }] },
        agenda := s.agenda ++ [{ clk := .eclk, due := s.clk.eclk + 1, ev := .snapshot x }] })
    ∧ (snap → y.stage = 2 → covered s target = true → Completes (exec (.snapshot x) s) fun t =>
        t.obs = { s.obs with snapBuf := captured s target (managerRing x), snapBad := false, snaps := staged 3 }
          ∧ DueT t s 11 (.snapshot x) ∧ t = { s with obs := t.obs, agenda := t.agenda, free := t.free })
    ∧ (snap → y.stage = 3 → dmaAllowed s x.part = false → Completes (exec (.snapshot x) s) fun t =>
        t.obs = { s.obs with snaps := staged 4 } ∧ (∃ a ∈ t.agenda, a.clk = .eclk ∧ a.ev = .snapshot x)
          ∧ t = { s with obs := t.obs, agenda := t.agenda, free := t.free })
    ∧ (snap → y.stage = 4 → Completes (exec (.snapshot x) s) fun t => Completed t s x stOk ∧ t.obs = { s.obs with snaps := [] } ∧ t.objs = s.objs)
    ∧ (ok 10 → (part s target).state = .active → exec (.partQuiesce x) s = .next { s with
        hq := { s.hq with descs := going },
        parts := Tbl.set partFree target { part s target with state := .quiescing } s.parts })
    ∧ (ok 10 → (part s target).state = .quiesced → Completes (exec (.partQuiesce x) s) fun t =>
        Completed t s x stOk ∧ (part t target).state = .quiesced)
    ∧ (ok 10 → ((part s target).state = .free ∨ (part s target).state = .resetting) → Completes (exec (.partQuiesce x) s) fun t =>
        Completed t s x stRefused ∧ Told t s 0x0F 17 x.ring (some x.part) [2, 10, 9])

/-- HOST_CALL, HOST_ABSTAIN, HOST_REJOIN, SEM_OP, TOKEN_OP, TALLY_OP, STAGE_CONFIG and WATCH_SET of a descriptor that starts alone (R84,
R141, R261, R262): a call goes to the die root as the host member's, converted where the slot sums in floating point, and a second one while
it is pending is BUSY; ABSTAIN and REJOIN go there; home requests are handed to the home one for each id; a tally command crosses to the
tally unit; STAGE_CONFIG and WATCH_SET stage their words and bring nothing into force. One that is refused and waits at a unit runs as a
null operation at the home, and one under a curtain waits. -/
def Obligations.HostOperationsReachTheirUnits : Prop :=
  ∀ (s : State) (x : Desc) (d : DescState) (i j : Nat), descOk x = true →
    let slot := d.ids.headD 0
    let begins := s.hq.descs = [d] ∧ d.x = x ∧ d.decoded = true ∧ d.started = false
    let alone := begins ∧ d.refusal = 0 ∧ covered s x.part = false
    let going := [{ d with started := true, parked := false }]
    let ok := fun (op : Nat) => alone ∧ descOp x = op
    let req := fun (id k : Nat) => ({
      tok := descOp x == 3, obj := id, op := BitVec.ofNat 5 (descBits x 1 20 16), nohold := false, rid := 0, src := srcHost, merged := false,
      mlevel := false, mrec := 0, poll := false, part := x.part, pay := descWord x 3 ++ descWord x 2, leftT := s.clk.tclk,
      ring := x.ring, didx := x.idx, sub := k, word := 0 } : HomeReq)
    let entering := fun (r : HomeReq) => ({ due := s.clk.eclk + 1, req := r, entry := none } : Crossing)
    let control := fun (w : Nat) => ({
      word := BitVec.ofNat 32 w, pay0 := BitVec.ofNat 32 (descBits x 1 31 16), src := srcHost, leftT := s.clk.tclk } : CtrlPkt)
    let called := fun (due : Nat) => { hostPartial s x slot with leftT := due, firstAt := due, lastAt := due }
    let tallied : TallyReq :=
      { tally := slot, op := BitVec.ofNat 5 (descBits x 1 20 16), nohold := false, src := srcHost, part := x.part,
        pay := ((descWord x 2).setWidth 32 : W32).setWidth 128, leftT := s.clk.tclk, ring := x.ring, didx := x.idx, word := 0 }
    let one := d.ids = [i] ∧ flyOf s x.part < 16
    let two := d.ids = [i, j] ∧ flyOf s x.part < 15
    let handed := fun (l : List HomeReq) (o : Host.Outcome State Fault Refusal) => Completes o fun t =>
      t.home.crossing = s.home.crossing ++ l.map entering ∧ flyOf t x.part = flyOf s x.part + l.length
        ∧ t = { s with hq := t.hq, home := { s.home with crossing := t.home.crossing }, agenda := t.agenda }
    let stages := fun (k : Nat) (v m : W32) (t : State) => (v, m) ∈ (stagedAt t k).pend
    let settles := fun (t : State) => t.hq.descs = going ∧ t.force = s.force ∧ t.stirs = s.stirs ∧ t.tree = s.tree ∧ t.objs = s.objs
    let mask := fun (k : Nat) (v : W32) => ~~~ (reservedBits k v) &&& wbMask k &&& ~~~ (fixedBits k)
    let ctl : W32 := BitVec.ofNat 32 (descBits x 1 8 8 * 2 ^ 31 + descBits x 1 9 9 * 2 ^ 30 + descBits x 1 10 10 * 2 ^ 29
      + descBits x 1 11 11 * 2 ^ 28 + descBits x 1 12 12 * 2 ^ 27 + descBits x 3 32 32 * 2 ^ 26 + d.ids.getD 1 0)
    (ok 1 → dAct x = 0 → s.hq.hostCall = [] → Completes (exec (.hostCall x) s) fun t =>
        (∃ a ∈ t.agenda, a.clk = .tclk ∧ a.ev = .partialArrival .die (.call (called a.due))
              ∧ s.clk.tclk + 2 + (if isX (slotOp s slot) then 4 else 0) ≤ a.due)
          ∧ t = { s with hq := { s.hq with descs := going, hostCall := [(slot, x)] }, parts := (count x.part 0 1 s).parts,
                         agenda := t.agenda, free := t.free })
    ∧ (ok 1 → dAct x = 0 → (s.hq.hostCall.any fun h => h.1 == slot) = true → Completes (exec (.hostCall x) s) fun t =>
        Completed t s x stBusy ∧ t.hq.hostCall = s.hq.hostCall ∧ t.tree = s.tree ∧ t.objs = s.objs)
    ∧ (ok 1 → dAct x = 1 → Completes (exec (.hostAbstain x) s) fun t =>
        (∃ a ∈ t.agenda, a.clk = .tclk ∧ a.ev = .partialArrival .die (.ctrl (control (4 * 2 ^ 28 + slot))))
          ∧ t = { s with hq := { s.hq with descs := going }, agenda := t.agenda, free := t.free })
    ∧ (ok 1 → dAct x = 2 → Completes (exec (.hostRejoin x) s) fun t =>
        (∃ a ∈ t.agenda, a.clk = .tclk ∧ a.ev = .partialArrival .die (.ctrl (control (4 * 2 ^ 28 + 2 ^ 23 + slot))))
          ∧ t = { s with hq := { s.hq with descs := going }, agenda := t.agenda, free := t.free })
    ∧ (ok 2 → one → handed [req i 0] (exec (.semOp x) s))
    ∧ (ok 2 → two → handed [req i 0, req j 1] (exec (.semOp x) s))
    ∧ (ok 3 → one → handed [req i 0] (exec (.tokenOp x) s))
    ∧ (ok 3 → two → handed [req i 0, req j 1] (exec (.tokenOp x) s))
    ∧ (begins → d.refusal ≠ 0 → descOp x = 2 → one → handed [{ req i 0 with op := 0x04, word := nullWord }] (exec (.semOp x) s))
    ∧ (begins → d.refusal ≠ 0 → descOp x = 3 → one → handed [{ req i 0 with op := 0x16, word := nullWord }] (exec (.tokenOp x) s))
    ∧ (ok 4 → Completes (exec (.tallyOp x) s) fun t =>
        (∃ w ∈ t.tly.due, w.act = .cmd tallied ∧ s.clk.tclk + 2 ≤ w.due ∧ t.tly.due = s.tly.due ++ [w])
          ∧ t = { s with hq := { s.hq with descs := going }, tly := { s.tly with due := t.tly.due }, agenda := t.agenda, free := t.free })
    ∧ (begins → d.refusal = 0 → descOp x = 4 → covered s x.part = true → exec (.tallyOp x) s = .next { s with hq := { s.hq with
        descs := [{ d with started := true, parked := true }] } })
    ∧ (ok 5 → dKind x = 0 → dWmask x = 7 → 0 < slot → slot < 512 → mask (slotKey slot 0) ((descWord x 2).setWidth 32) ≠ 0 →
        Completes (exec (.stageConfig x) s) fun t => settles t
          ∧ stages (slotKey slot 0) ((descWord x 2).setWidth 32) (mask (slotKey slot 0) ((descWord x 2).setWidth 32)) t)
    ∧ (ok 5 → dKind x = 1 → dWmask x = 1 → slot < 8192 → mask (objCfgKey false slot) ((descWord x 2).setWidth 32) ≠ 0 →
        Completes (exec (.stageConfig x) s) fun t => settles t
          ∧ stages (objCfgKey false slot) ((descWord x 2).setWidth 32) (mask (objCfgKey false slot) ((descWord x 2).setWidth 32)) t)
    ∧ (ok 5 → dKind x = 2 → dWmask x = 1 → slot < 2048 → mask (objCfgKey true slot) ((descWord x 2).setWidth 32) ≠ 0 →
        Completes (exec (.stageConfig x) s) fun t => settles t
          ∧ stages (objCfgKey true slot) ((descWord x 2).setWidth 32) (mask (objCfgKey true slot) ((descWord x 2).setWidth 32)) t)
    ∧ (ok 6 → slot < 16 → Completes (exec (.watchSet x) s) fun t => settles t
          ∧ stages (wpKey slot 0) ctl 0xFC00_01FF t ∧ stages (wpKey slot 4) ((descWord x 2).setWidth 32) 0xFFFF_FFFF t
          ∧ stages (wpKey slot 8) (BitVec.ofNat 32 (descBits x 2 51 32)) 0xF_FFFF t
          ∧ stages (wpKey slot 0xC) (BitVec.ofNat 32 (descBits x 3 19 0)) 0xF_FFFF t
          ∧ stages (wpKey slot 0x10) (BitVec.ofNat 32 (d.ids.getD 2 0)) 0x1FFF t)

/-! ## Observation -/

/-- PCTR_LOW_READ, CTR_DATA_LOW_READ, HC_TIME_LO_READ, RC_COUNTER_READ, FREEZE_ARM and FREEZE (R13, R17, R31, R272, R274, R275): a read of a
low word latches the high word of the same moment; a read of an RC register presents it and clears it, but an increment of the read's own
cycle is not presented and stays; a read of a wrong size or alignment presents 0 and is recorded in the manager window; a freeze takes the
next sequence number and fills the banks of FROZEN partitions. The items of a record that Table FLT-11 leaves open (a cause number, the
order in DETAIL) are the model's (log 8). -/
def Obligations.CountersAreReadAndCollected : Prop :=
  ∀ (s : State) (p i off size : Nat) (path : Path) (v old : W32) (u : State),
    let shown := fun (x : W32) => { s.su with rdata := x.setWidth 64 }
    let o := s.obs
    let seq := o.frzSeq + 1
    let live := s.boot.inReset = false
    (p < 64 → i < 16 → live → exec (.pctrLowRead p i) s = .next { s with
        su := shown (lowWord (pageCounter s p i)),
        parts := Tbl.set partFree p { part s p with pctrHi := highWord (pageCounter s p i) } s.parts })
    ∧ (live → exec .ctrDataLowRead s = .next { s with
        su := shown (lowWord (selCounter s)), obs := { o with ctrHi := highWord (selCounter s) } })
    ∧ (live → exec (.hcTimeLoRead none) s = .next { s with
        su := shown (lowWord (houseNow s)), house := { s.house with mgrLatch := highWord (houseNow s) } })
    ∧ (p < 64 → live → exec (.hcTimeLoRead (some p)) s = .next { s with
        su := shown (lowWord (houseNow s)),
        parts := Tbl.set partFree p { part s p with houseHi := highWord (houseNow s) } s.parts })
    ∧ (s.boot.inReset = true → exec .ctrDataLowRead s = .next { s with su := shown 0 }
        ∧ exec (.rcCounterRead .manager 0x4810 4) s = .next { s with su := shown 0 })
    ∧ (live → s.cyc.rc.lookup 0x4810 = none → exec (.rcCounterRead .manager 0x4810 4) s = .next { s with
        su := shown s.flt.lost, flt := { s.flt with lost := 0 } })
    ∧ (live → s.cyc.rc.lookup 0x4810 = some old → exec (.rcCounterRead .manager 0x4810 4) s = .next { s with
        su := shown old, flt := { s.flt with lost := s.flt.lost - old }, cyc := { s.cyc with rc := Tbl.insert 0x4810 0 s.cyc.rc } })
    ∧ (live → rcTake s path off = some (v, u) →
        exec (.rcCounterRead path off 4) s = .next { u with su := { u.su with rdata := v.setWidth 64 } })
    ∧ (live → off < 0x10000 → aligned off size = false → Completes (exec (.rcCounterRead .manager off size) s) fun t =>
        t.su = shown 0 ∧ Told t s 0x01 20 0 none [off, 0, 13] ∧ t = { s with su := t.su, agenda := t.agenda, free := t.free })
    ∧ (live → fld s 0x5018 31 30 = 2 → edgeReached s (freezeTime s) = false →
        exec .freezeArm s = .next { s with obs := { o with frzArmed := true } })
    ∧ (live → fld s 0x5018 31 30 = 2 → edgeReached s (freezeTime s) = true → exec .freezeArm s = .next { s with
        obs := { o with frzArmed := true, frzLate := true }, cyc := { s.cyc with frzLate := true },
        agenda := s.agenda ++ [{ clk := .tclk, due := s.clk.tclk + 1, ev := .freeze none }] })
    ∧ Completes (exec (.freeze none) s) (fun t =>
        t.obs = { o with frzSeq := seq, frzArmed := false, frzNow := t.obs.frzNow } ∧ t.out = { s.out with ctrFreeze := true, ctrSnap := seq }
          ∧ t = { s with obs := t.obs, out := t.out, parts := t.parts, home := t.home, free := t.free })
    ∧ (p < 512 → Completes (exec (.freeze (some p)) s) fun t =>
        t.obs = { o with frzSeq := seq, frzNow := t.obs.frzNow } ∧ t.out = { s.out with ctrFreeze := true, ctrSnap := seq })
    ∧ (livePartitions s = [p] → frozenBit s p = true → Completes (exec (.freeze none) s) fun t =>
        t.obs.frzNow = o.frzNow ++ [p]
          ∧ t.parts = Tbl.set partFree p { part s p with frozenMode := true, bank := bankCopy s p (part s p).bank, frzSeq := seq,
                                                         frzTime := houseNow s, frzValid := true } s.parts)
    ∧ (livePartitions s = [p] → frozenBit s p = false → Completes (exec (.freeze none) s) fun t =>
        t.parts = Tbl.set partFree p { part s p with frozenMode := false } s.parts)

/-- TIMEBASE, TRACE_WINDOW_END, DROP_PHASE_END, TRACE_OUT, PC_SAMPLE and WP_OWNER_WRITE (R276, R277, R280 to R284): TIMEBASE carries the die
id and the house time in a reserved entry; the trace lane sends the oldest record, its low word first and marked, or a pair of zero words;
windows and drop phases end; a sample of a tile that has no strobe carries its last program counter; a changed owner clears EN, in force and
staged. -/
def Obligations.TraceIsSampledAndSent : Prop :=
  ∀ (s : State) (st w : Nat) (v : W32) (pc : BitVec 24) (own : BitVec 4) (r : TraceRec) (l : List TraceRec),
    let o := s.obs
    let live := s.boot.inReset = false
    let lane := fun (b : W128) => [((b.setWidth 64 : W64), true), (((b >>> 64).setWidth 64 : W64), false)]
    let formed := fun (t : State) (x : TraceRec) => t.obs.capture.map (·.item) = o.capture.map (·.item) ++ [x]
    let base : TraceRec :=
      { part := 0, reserved := true, bad := false, bits := traceWord 8 0 (fld s 0x6018 15 0 * 2 ^ 102 + (houseNow s).toNat) }
    let p := wPart (rosterWord s st)
    let sampleOf := fun (c : BitVec 24) =>
      let bits := traceWord 3 p (wVtile (rosterWord s st) * 2 ^ 107 + c.toNat * 2 ^ 83 + (sampleState s st own).toNat * 2 ^ 79
        + traceTime (houseNow s))
      ({ part := p, reserved := false, bad := false, bits := bits } : TraceRec)
    let shown := fun (c : BitVec 24) (t : State) =>
      t.stirs = Tbl.set Stirrup.initial st { stir s st with lastPc := c } s.stirs ∧ formed t (sampleOf c)
        ∧ t = { s with stirs := t.stirs, obs := { o with capture := t.obs.capture }, free := t.free }
    (traceMode s = 0 → exec .timebase s = .next s)
    ∧ (traceMode s ≠ 0 → Completes (exec .timebase s) fun t =>
        formed t base ∧ t = { s with obs := { o with capture := t.obs.capture }, free := t.free })
    ∧ (o.winDropped = [] → exec .traceWindowEnd s = .next { s with
        obs := { o with winLeft := 0, winStart := (houseNow s).toNat, entered := [], winDropped := [] } })
    ∧ (o.dropPhase = false ∨ 12288 < o.spill.length → exec .dropPhaseEnd s = .next s)
    ∧ (o.dropPhase = true → o.spill.length ≤ 12288 → Completes (exec .dropPhaseEnd s) fun t =>
        t.obs.dropPhase = false ∧ t = { s with obs := { o with dropPhase := false, spill := t.obs.spill, lostRun := t.obs.lostRun,
                                                               lostAt := t.obs.lostAt } })
    ∧ (o.spill = [] → exec .traceOut s = .next { s with out := { s.out with trace := lane 0, traceBad := false } })
    ∧ (o.spill = r :: l → o.dropPhase = false → o.winLeft + 1 ≠ 4096 → exec .traceOut s = .next { s with
        out := { s.out with trace := lane r.bits, traceBad := r.bad }, obs := { o with spill := l, winLeft := o.winLeft + 1 } })
    ∧ (o.spill = r :: l → o.winLeft + 1 = 4096 → Completes (exec .traceOut s) fun t =>
        t.out = { s.out with trace := lane r.bits, traceBad := r.bad } ∧ t.obs = { o with spill := l, winLeft := 4096 }
          ∧ ∃ a ∈ t.agenda, a.clk = .tclk ∧ a.due = s.clk.tclk ∧ a.ev = .traceWindowEnd)
    ∧ (st < nStirrup → sampling s = false ∨ sampled s st = false → exec (.pcSample st pc own) s = .next s)
    ∧ (st < nStirrup → sampling s = true → sampled s st = true → unstrobed s st = false →
        Completes (exec (.pcSample st pc own) s) (shown pc))
    ∧ (st < nStirrup → sampling s = true → sampled s st = true → unstrobed s st = true →
        Completes (exec (.pcSample st pc own) s) (shown (stir s st).lastPc))
    ∧ (w < 16 → live → Completes (exec (.wpOwnerWrite w v) s) fun t =>
        t.force = Tbl.set (resetWord (wpKey w 0)) (wpKey w 0)
            (((reg s (wpKey w 0) &&& ~~~ (bitsMask 25 19)) ||| (v &&& bitsMask 25 19)) &&& 0x7FFF_FFFF#32) s.force
          ∧ bitB (stagedAt t (wpKey w 0)).val 31 = false
          ∧ t = { s with force := t.force, staged := t.staged })

/-! ## Register writes -/

/-- LOCK_WRITE, HC_SEED_WRITE, HC_CTL_WRITE, ROSTER_STAGE, OBJ_SEL_WRITE, OBJ_VALUE_WRITE, OBJ_BUSY_CLEAR and REGISTER_WRITE (R13, R14, R19,
R31, R165, R205, R324, R331, R332): a lock bit once set stays set; a seed of a FREE source becomes the next frame's start; a write of
UHK_HC_CTL restarts locking; a roster word is staged, and waits for its acknowledgement; the object port sends its access to the home and
stays BUSY until the answer; an access of a wrong size is ignored, recorded in the manager window and counted on a page; nothing is written
while the engine is held in reset. The items of a record that Table FLT-11 leaves open (a cause number, the order in DETAIL) are the model's
(log 8). -/
def Obligations.WritesFollowTheirAccessCodes : Prop :=
  ∀ (s : State) (v value cfg : W32) (x : W64) (st i p q off size waiters : Nat) (tok : Bool),
    let lock := reg s 0x0010
    let k := rosterKey st
    let m : W32 := 0x87FF_FFFF
    let g := stagedAt s k
    let live := s.boot.inReset = false
    let free := s.su.objBusy = false
    let request := fun (op : BitVec 5) (y : W32) =>
      ({ tok := tok, obj := i, op := op, nohold := false, rid := 0, src := srcSetup, merged := false, mlevel := false, mrec := 0,
         poll := false, part := 0, pay := y.setWidth 128, leftT := s.clk.tclk, ring := 0, didx := 0, sub := 0, word := 0 } : HomeReq)
    let sent := fun (t : State) (op : BitVec 5) (y : W32) =>
      t.su.objBusy = true ∧ t.home.crossing.map (·.req) = s.home.crossing.map (·.req) ++ [request op y]
    let told := fun (t : State) (o : Nat) (y : Nat) (cause : Nat) =>
      Told t s 0x01 20 0 none [o, y, cause] ∧ t = { s with agenda := t.agenda, free := t.free }
    (s.boot.inReset = true → off < 0x10000 →
        exec (.lockWrite v) s = .next s ∧ exec (.registerWrite .manager off size x) s = .next s)
    ∧ (live → Completes (exec (.lockWrite v) s) fun t =>
        t.force = Tbl.set (resetWord 0x0010) 0x0010 (lock ||| (v &&& 0xC0#32)) s.force
          ∧ (lock &&& ~~~ v &&& 0xC0#32 ≠ 0 → Told t s 0x01 20 0 none [0x0010, v.toNat, 19])
          ∧ t = { s with force := t.force, agenda := t.agenda, free := t.free })
    ∧ (live → hcSrc s = 0 → exec (.hcSeedWrite v) s = .next { s with
        house := { s.house with adopt := some (v ++ (s.house.seedLo &&& 0xFFFF_FF80#32)) } })
    ∧ (live → hcSrc s ≠ 0 → Completes (exec (.hcSeedWrite v) s) fun t => told t 0x0114 v.toNat 0x031)
    ∧ (live → Completes (exec (.hcCtlWrite v) s) fun t =>
        t.house.state = (if hcSrc (writeFields 0x0100 v s) = 0 then .free else .locking) ∧ t.house.good = 0 ∧ t.house.announced = [])
    ∧ (live → st < nStirrup → (v ^^^ reg s k) &&& m ≠ 0 → Completes (exec (.rosterStage st v) s) fun t =>
        t.staged = Tbl.set noStage k { g with pend := g.pend ++ [(v, m)] } s.staged
          ∧ (∃ a ∈ t.agenda, a.clk = .tclk ∧ a.ev = .wbAcknowledge k) ∧ t.force = s.force ∧ t.stirs = s.stirs)
    ∧ (nStirrup ≤ st → st < 2048 → exec (.rosterStage st v) s = .next s)
    ∧ (live → free → objectOf (selAfter s v) = some (tok, i) → portGrants s (tok, i) = true →
        Completes (exec (.objSelWrite v) s) fun t => sent t (if tok then 0x16 else 4) 0)
    ∧ (live → free → objectSel s = some (tok, i) → portGrants s (tok, i) = true → (tok = true → tagged s i = false) →
        Completes (exec (.objValueWrite v) s) fun t => sent t 5 v)
    ∧ (live → s.su.objBusy = true → Completes (exec (.objSelWrite v) s) fun t => told t 0x08C0 v.toNat 0x165)
    ∧ (live → objectSel s = some (tok, i) → (s.su.objBusy = true ∨ portGrants s (tok, i) = false) →
        Completes (exec (.objValueWrite v) s) fun t => told t 0x08C4 v.toNat 0x165)
    ∧ exec (.objBusyClear value cfg waiters) s = .next { s with
        su := { s.su with objValue := value, objCfg := cfg, objWaiters := BitVec.ofNat 16 waiters, objBusy := false } }
    ∧ (st < nStirrup → exec (.registerWrite (.tile st) 0x10 4 x) s = .next { s with
        stirs := Tbl.set Stirrup.initial st { stir s st with tag := (lowWord x).setWidth 20 } s.stirs })
    ∧ (st < nStirrup → off < 64 → (size ≠ 4 ∨ off % 4 ≠ 0) → exec (.registerWrite (.tile st) off size x) s = .next s)
    ∧ (live → off < 0x10000 → aligned off size = false →
        Completes (exec (.registerWrite .manager off size x) s) fun t => told t off x.toNat 13)
    ∧ (live → p < 64 → off < 0x1000 → aligned off size = false →
        exec (.registerWrite (.page p) off size x) s = .next (ppErr p s))
    ∧ (exec (.registerWrite .manager 0x0010 4 x) s = exec (.lockWrite (lowWord x)) s)
    ∧ (p < 64 → q < 4 → exec (.registerWrite (.page p) (0x20 * q + 0xC) 4 x) s = exec (.sqDoorbell p q (lowWord x)) s)

/-! ## Start-up -/

/-- RESET_ASSERT, RESET_RELEASE, FIRSTCUE and RETRY (R30, R31, R297, R299, R301, R306, R311, R320, R322): reset returns every register to
its reset value and keeps the levels from outside; a release changes nothing while UHK_PWRGD is deasserted; it fixes grade, roster and
whether the die is unprovisioned by its fuses, or is a die error with too few good tiles; FIRSTCUE asks for the first decision; RETRY reads
the flash again and drives its bus. Which HREF edge begins frame 0 is an open value of Config (log 2); the items of a record that Table
FLT-11 leaves open are the model's (log 8). -/
def Obligations.ResetStartsTheEngine : Prop :=
  ∀ (s : State) (b : Bool) (f : Fuses) (g : Nat),
    let good := (goodTiles f.goodMap).length
    let rises := s.boot.inReset = true ∧ s.boot.pwrgd = true
    let live := s.boot.inReset = false
    Completes (exec (.resetAssert b) s) (fun t =>
        t.boot = { State.reset.boot with pwrgd := b } ∧ t.force = [] ∧ t.staged = [] ∧ t.objs = [] ∧ t.waiters = [] ∧ t.agenda = []
          ∧ t.tree = State.reset.tree ∧ t.parts = State.reset.parts ∧ t.flt = State.reset.flt ∧ t.dbg = State.reset.dbg
          ∧ t.page = [] ∧ t.hq = State.reset.hq ∧ t.obs = State.reset.obs ∧ t.house = State.reset.house ∧ t.out = State.reset.out
          ∧ t.pwr.sleep = s.pwr.sleep ∧ t.pwr.budget = s.pwr.budget ∧ t.pending = s.pending)
    ∧ (live ∨ s.boot.pwrgd = false → exec (.resetRelease f) s = .next s)
    ∧ (rises → isolatedStirs s = [] → gradeFor f.grade.toNat good = some g → Completes (exec (.resetRelease f) s) fun t =>
        t.boot.inReset = false ∧ t.boot.stage = 1 ∧ t.boot.grade = g ∧ t.boot.logical = gradeTiles g ∧ t.boot.good = f.goodMap
          ∧ t.boot.unprov = (f.keyHash == 0) ∧ t.boot.spiBusy = (f.keyHash != 0) ∧ t.boot.halted = (f.keyHash == 0)
          ∧ t.boot.fuses = f ∧ t.dbg.disabled = f.debugDis ∧ t.house.fresh = true ∧ t.house.lead = 1 + frameWait s)
    ∧ (rises → isolatedStirs s = [] → gradeFor f.grade.toNat good = none → Completes (exec (.resetRelease f) s) fun t =>
        t.boot.stage = s.boot.stage ∧ t.flt.dieErr = true ∧ t.cur.raw = true ∧ t.boot.inReset = false)
    ∧ (live → s.boot.stage ≠ 0 → s.boot.firstDone = false → Completes (exec .firstcue s) fun t =>
        t.boot = { s.boot with firstReq := epochOf s 0 == 0 }
          ∧ (∃ a ∈ t.agenda, a.clk = .tclk ∧ a.ev = .rootDecision .die 0)
          ∧ t = { s with boot := t.boot, agenda := t.agenda, free := t.free })
    ∧ (live → s.boot.stage = 0 ∨ s.boot.firstDone = true → Completes (exec .firstcue s) fun t =>
        Told t s 0x01 20 0 none [0x040C, 0x8000_0000, 0x301] ∧ t = { s with agenda := t.agenda, free := t.free })
    ∧ (live → s.boot.halted = true → s.boot.unprov = false → Completes (exec .retry s) fun t =>
        t.boot = { s.boot with halted := false, resA := 0, resB := 0, spiBusy := true, phase := 0 }
          ∧ t.out.spi.csN = .level false ∧ t.out.spi.io2 = (if s.boot.spiMode.toNat ≤ 2 then .level true else .data)
          ∧ t.out.spi.io3 = t.out.spi.io2 ∧ t = { s with boot := t.boot, out := { s.out with spi := t.out.spi } })
    ∧ (s.boot.halted = false ∨ s.boot.unprov = true → exec .retry s = .next s)

/-- FLASH_READ, BOOK_CHECK and STAGE2_SWITCH (R302, R303, R306, R308 to R310, R314, R322): a copy read leaves the flash bus and is checked;
one that fails leaves its code, and the next is tried or the die halts; one accepted is staged; the switch ends reduced service. -/
def Obligations.BootReadsAndAppliesTheBook : Prop :=
  ∀ (s : State) (c : FlashCopy) (book : Book), flashOk c = true →
    let first := s.boot.phase = 1
    let failsA := fun (code : Nat) (t : State) =>
      t.boot = { s.boot with phase := 0, sha := none, resA := BitVec.ofNat 4 code, spiBusy := true }
        ∧ t.out.spi.csN = .level false ∧ t = { s with boot := t.boot, out := { s.out with spi := t.out.spi } }
    (s.boot.spiBusy = false → exec (.flashRead c) s = .next s)
    ∧ (s.boot.spiBusy = true → s.boot.phase ≠ 3 → c.again = false → c.copyB = (s.boot.resA != 0) →
        Completes (exec (.flashRead c) s) fun t =>
          t.boot.spiBusy = false ∧ t.boot.phase = 1 ∧ t.boot.sfdpOk = c.sfdp ∧ t.out.spi = .idle
            ∧ t.agenda = s.agenda ++ [{ clk := .mclk, due := s.clk.mclk, ev := .bookCheck c }]
            ∧ t = { s with boot := t.boot, agenda := t.agenda, out := { s.out with spi := .idle } })
    ∧ (s.boot.phase = 0 → exec (.bookCheck c) s = .next s)
    ∧ (first → rows14 c ≠ 0 → c.copyB = false → Completes (exec (.bookCheck c) s) (failsA (rows14 c)))
    ∧ (first → rows14 c ≠ 0 → c.copyB = true → exec (.bookCheck c) s = .next { s with
        boot := { s.boot with phase := 0, sha := none, resB := BitVec.ofNat 4 (rows14 c), halted := true, stage := 1 } })
    ∧ (first → rows14 c = 0 → Completes (exec (.bookCheck c) s) fun t =>
        t.boot.phase = 2 ∧ t.boot.stage = 2 ∧ (∃ a ∈ t.agenda, a.clk = .house ∧ a.ev = .bookCheck c))
    ∧ (s.boot.phase = 2 → row8 s c.bytes = none → c.copyB = false → Completes (exec (.bookCheck c) s) fun t =>
        (rows57 s c ≠ 0 → failsA (rows57 s c) t)
          ∧ (rows57 s c = 0 → bookEnd c.bytes ≤ 786432 → t.boot.phase = 5
            ∧ t.boot.book = some { copyB := false, seq := BitVec.ofNat 32 (bookSeqOf c.bytes), recs := (recordsOf c.bytes).1 }
            ∧ t.su.dwPending = true ∧ t = { s with boot := t.boot, su := t.su, staged := t.staged })
          ∧ (rows57 s c = 0 → 786432 < bookEnd c.bytes →
            t.boot = { s.boot with phase := 3, spiBusy := true, sha := some (Config.sha384 (signedBytes c.bytes)) }
              ∧ t = { s with boot := t.boot, out := { s.out with spi := t.out.spi } }))
    ∧ (switchReady s = false → exec .stage2Switch s = .next s)
    ∧ (switchReady s = true → s.boot.book = some book → Completes (exec .stage2Switch s) fun t =>
        t.boot.reduced = false ∧ t.boot.stage = 3 ∧ t.boot.bookSeq = book.seq ∧ t.boot.copy = (if book.copyB then 2 else 1))

/-! ## The whole machine -/

/-- A step takes the command at the front of the queue and runs it with the queue's rest; on an empty queue time passes (log 1). No word
spells a command, since no row of the opcode table has bits. -/
def Obligations.StepRunsTheFrontCommand : Prop :=
  ∀ (s : State) (c : Instr) (rest : List Instr) (nbits w : Nat),
    step { s with pending := c :: rest } = exec c { s with pending := rest }
      ∧ (s.pending = [] → step s = .next (tick s))
      ∧ decodeTableWord nbits w = none ∧ s.withFetchWord nbits w = s

/-- Every well-formed command completes in every state, a descriptor's row where its decoding accepted it; none touches the commands that
wait behind it. -/
def Obligations.EveryCommandCompletes : Prop :=
  ∀ (s : State) (c : Instr), c.wf = true → accepted s c = true → Completes (exec c s) fun t => t.pending = s.pending

/-- After reset no authorisation stands and the queue is empty (R251, R314, Table INT-2). -/
def Obligations.ResetKeepsTheDebugPromise : Prop :=
  debugShut State.reset ∧ State.reset.boot.inReset = true ∧ State.reset.dbg.auth = 0 ∧ State.reset.pending = []

/-- Every step keeps the promise of R251: with the debug fuse blown no authorisation stands. -/
def Obligations.EveryStepKeepsTheDebugPromise : Prop :=
  ∀ (s t : State), (s.dbg.disabled = true → s.dbg.auth = 0#2) → (s.boot.inReset = true → s.dbg.auth = 0#2) → step s = .next t →
    (t.dbg.disabled = true → t.dbg.auth = 0#2) ∧ (t.boot.inReset = true → t.dbg.auth = 0#2)
end

