-- ==== Sys2Proof/Laws/Keep.lean ====
section
/-! SUPPORT. What the shared operations leave: the queue of commands, the debug block, whether the engine is held in reset, and the
TCLK count. -/

set_option linter.unusedSimpArgs false

namespace Sys2Proof.Machine

/-- What every command but those of the debug block and of reset leaves: the queue, the debug block, whether the engine is held in reset,
the TCLK count. -/
abbrev Keep (t s : State) : Prop :=
  t.pending = s.pending ∧ t.dbg = s.dbg ∧ t.boot.inReset = s.boot.inReset ∧ t.clk.tclk = s.clk.tclk

@[simp] theorem foldl_pending {α : Type} (f : State → α → State) (h : ∀ a x, (f a x).pending = a.pending) (l : List α) (s : State) :
    (l.foldl f s).pending = s.pending := by
  induction l generalizing s with
  | nil => rfl
  | cons a l ih => exact (ih (f s a)).trans (h s a)
@[simp] theorem foldl_dbg {α : Type} (f : State → α → State) (h : ∀ a x, (f a x).dbg = a.dbg) (l : List α) (s : State) :
    (l.foldl f s).dbg = s.dbg := by
  induction l generalizing s with
  | nil => rfl
  | cons a l ih => exact (ih (f s a)).trans (h s a)
@[simp] theorem foldl_tclk {α : Type} (f : State → α → State) (h : ∀ a x, (f a x).clk.tclk = a.clk.tclk) (l : List α) (s : State) :
    (l.foldl f s).clk.tclk = s.clk.tclk := by
  induction l generalizing s with
  | nil => rfl
  | cons a l ih => exact (ih (f s a)).trans (h s a)
@[simp] theorem foldl_inReset {α : Type} (f : State → α → State) (h : ∀ a x, (f a x).boot.inReset = a.boot.inReset) (l : List α) (s : State) :
    (l.foldl f s).boot.inReset = s.boot.inReset := by
  induction l generalizing s with
  | nil => rfl
  | cons a l ih => exact (ih (f s a)).trans (h s a)
@[simp] theorem ite_pending (c : Prop) [Decidable c] (a b : State) :
    (if c then a else b).pending = if c then a.pending else b.pending := by split <;> rfl
@[simp] theorem ite_dbg (c : Prop) [Decidable c] (a b : State) :
    (if c then a else b).dbg = if c then a.dbg else b.dbg := by split <;> rfl
@[simp] theorem ite_tclk (c : Prop) [Decidable c] (a b : State) :
    (if c then a else b).clk.tclk = if c then a.clk.tclk else b.clk.tclk := by split <;> rfl
@[simp] theorem ite_inReset (c : Prop) [Decidable c] (a b : State) :
    (if c then a else b).boot.inReset = if c then a.boot.inReset else b.boot.inReset := by split <;> rfl

/-! ## Tbl -/

/-! ## Ops -/

@[simp] theorem regWrite_pending (f : State → State) (h : ∀ a, (f a).pending = a.pending) (s : State) :
    (regWrite f s).pending = s.pending := by
  simp only [regWrite] <;> (repeat' split) <;> simp_all

@[simp] theorem regWrite_dbg (f : State → State) (h : ∀ a, (f a).dbg = a.dbg) (s : State) :
    (regWrite f s).dbg = s.dbg := by
  simp only [regWrite] <;> (repeat' split) <;> simp_all

@[simp] theorem regWrite_inReset (f : State → State) (h : ∀ a, (f a).boot.inReset = a.boot.inReset) (s : State) :
    (regWrite f s).boot.inReset = s.boot.inReset := by
  simp only [regWrite] <;> (repeat' split) <;> simp_all

@[simp] theorem regWrite_tclk (f : State → State) (h : ∀ a, (f a).clk.tclk = a.clk.tclk) (s : State) :
    (regWrite f s).clk.tclk = s.clk.tclk := by
  simp only [regWrite] <;> (repeat' split) <;> simp_all

/-! ## Tbl -/

/-! ## Ops -/

@[simp] theorem takeFree_keep (m : Nat) (s : State) :
    Keep (takeFree m s).2 s := by
  simp only [Keep, takeFree] <;> (repeat' split) <;> simp_all

@[simp] theorem crossDue_keep (s : State) (src dst : Clk) (a b : Nat) :
    Keep (crossDue s src dst a b).2 s := by
  simp only [Keep, crossDue] <;> (repeat' split) <;> simp_all

@[simp] theorem schedule_keep (c : Clk) (due : Nat) (ev : Instr) (s : State) :
    Keep (schedule c due ev s) s := by
  simp only [Keep, schedule] <;> (repeat' split) <;> simp_all

@[simp] theorem afterT_keep (n : Nat) (ev : Instr) (s : State) :
    Keep (afterT n ev s) s := by
  simp only [Keep, afterT] <;> (repeat' split) <;> simp_all

@[simp] theorem afterE_keep (n : Nat) (ev : Instr) (s : State) :
    Keep (afterE n ev s) s := by
  simp only [Keep, afterE] <;> (repeat' split) <;> simp_all

@[simp] theorem afterUs_keep (us : Nat) (ev : Instr) (s : State) :
    Keep (afterUs us ev s) s := by
  simp only [Keep, afterUs] <;> (repeat' split) <;> simp_all

@[simp] theorem across_keep (src dst : Clk) (a b : Nat) (ev : Instr) (s : State) :
    Keep (across src dst a b ev s) s := by
  simp only [Keep, across] <;> (repeat' split) <;> simp_all

@[simp] theorem unschedule_keep (p : Instr → Bool) (s : State) :
    Keep (unschedule p s) s := by
  simp only [Keep, unschedule] <;> (repeat' split) <;> simp_all

@[simp] theorem setReg_keep (key : Nat) (v : W32) (s : State) :
    Keep (setReg key v s) s := by
  simp only [Keep, setReg] <;> (repeat' split) <;> simp_all

@[simp] theorem setStage_keep (key : Nat) (g : Staged) (s : State) :
    Keep (setStage key g s) s := by
  simp only [Keep, setStage] <;> (repeat' split) <;> simp_all

@[simp] theorem stage_keep (key : Nat) (v mask : W32) (s : State) :
    Keep (stage key v mask s) s := by
  simp only [Keep, stage] <;> (repeat' split) <;> simp_all

@[simp] theorem ackStage_keep (key : Nat) (s : State) :
    Keep (ackStage key s) s := by
  simp only [Keep, ackStage] <;> (repeat' split) <;> simp_all

@[simp] theorem unstage_keep (key : Nat) (s : State) :
    Keep (unstage key s) s := by
  simp only [Keep, unstage] <;> (repeat' split) <;> simp_all

@[simp] theorem settleStage_keep (key : Nat) (s : State) :
    Keep (settleStage key s) s := by
  simp only [Keep, settleStage] <;> (repeat' split) <;> simp_all

@[simp] theorem applyWord_keep (key : Nat) (s : State) :
    Keep (applyWord key s) s := by
  simp only [Keep, applyWord] <;> (repeat' split) <;> simp_all

@[simp] theorem setPage_keep (p o : Nat) (v : W32) (s : State) :
    Keep (setPage p o v s) s := by
  simp only [Keep, setPage] <;> (repeat' split) <;> simp_all

@[simp] theorem report_keep (type unit index : Nat) (part : Option Nat) (detail : List Nat) (s : State) :
    Keep (report type unit index part detail s) s := by
  simp only [Keep, report] <;> (repeat' split) <;> simp_all

@[simp] theorem mgrAccess_keep (off v cause : Nat) (s : State) :
    Keep (mgrAccess off v cause s) s := by
  simp only [Keep, mgrAccess] <;> (repeat' split) <;> simp_all

@[simp] theorem entryReject_keep (off v row entry : Nat) (p : Option Nat) (s : State) :
    Keep (entryReject off v row entry p s) s := by
  simp only [Keep, entryReject] <;> (repeat' split) <;> simp_all

@[simp] theorem setStir_keep (i : Nat) (x : Stirrup) (s : State) :
    Keep (setStir i x s) s := by
  simp only [Keep, setStir] <;> (repeat' split) <;> simp_all

@[simp] theorem updStir_keep (i : Nat) (f : Stirrup → Stirrup) (s : State) :
    Keep (updStir i f s) s := by
  simp only [Keep, updStir] <;> (repeat' split) <;> simp_all

@[simp] theorem setNode_keep (at_ : Place) (slot : Nat) (x : NodeSlot) (s : State) :
    Keep (setNode at_ slot x s) s := by
  simp only [Keep, setNode] <;> (repeat' split) <;> simp_all

@[simp] theorem setEpoch_keep (slot : Nat) (e : W32) (s : State) :
    Keep (setEpoch slot e s) s := by
  simp only [Keep, setEpoch] <;> (repeat' split) <;> simp_all

@[simp] theorem setObj_keep (tok : Bool) (i : Nat) (x : Obj) (s : State) :
    Keep (setObj tok i x s) s := by
  simp only [Keep, setObj] <;> (repeat' split) <;> simp_all

@[simp] theorem setPart_keep (p : Nat) (x : Part) (s : State) :
    Keep (setPart p x s) s := by
  simp only [Keep, setPart] <;> (repeat' split) <;> simp_all

@[simp] theorem updPart_keep (p : Nat) (f : Part → Part) (s : State) :
    Keep (updPart p f s) s := by
  simp only [Keep, updPart] <;> (repeat' split) <;> simp_all

@[simp] theorem count_keep (p i n : Nat) (s : State) :
    Keep (count p i n s) s := by
  simp only [Keep, count] <;> (repeat' split) <;> simp_all

@[simp] theorem setTally_keep (i : Nat) (x : Tally) (s : State) :
    Keep (setTally i x s) s := by
  simp only [Keep, setTally] <;> (repeat' split) <;> simp_all

@[simp] theorem setStageErr_keep (key : Nat) (b : Bool) (s : State) :
    Keep (setStageErr key b s) s := by
  simp only [Keep, setStageErr] <;> (repeat' split) <;> simp_all

@[simp] theorem rcBefore_keep (off : Nat) (old : W32) (s : State) :
    Keep (rcBefore off old s) s := by
  simp only [Keep, rcBefore] <;> (repeat' split) <;> simp_all

@[simp] theorem rcTaken_keep (off : Nat) (s : State) : Keep (rcTaken off s) s := by
  unfold rcTaken; split <;> simp [Keep]

@[simp] theorem newCycle_keep (c : Clk) (s : State) :
    Keep (newCycle c s) s := by
  simp only [Keep, newCycle] <;> (repeat' split) <;> simp_all

/-! ## Flags -/

/-! ## Arith -/

/-! ## Notify -/

@[simp] theorem queueDma_keep (l : List DmaItem) (s : State) :
    Keep (queueDma l s) s := by
  simp only [Keep, queueDma] <;> (repeat' split) <;> simp_all

@[simp] theorem pushDma_keep (w : DmaWrite) (s : State) :
    Keep (pushDma w s) s := by
  simp only [Keep, pushDma] <;> (repeat' split) <;> simp_all

@[simp] theorem dirtyLog_keep (p kind : Nat) (addr : W64) (s : State) :
    Keep (dirtyLog p kind addr s) s := by
  simp only [Keep, dirtyLog] <;> (repeat' split) <;> simp_all

@[simp] theorem issueWrite_keep (w : DmaWrite) (s : State) :
    Keep (issueWrite w s) s := by
  simp only [Keep, issueWrite] <;> (repeat' split) <;> simp_all

@[simp] theorem hostWrite_keep (p kind : Nat) (addr : W64) (data : List W64) (s : State) :
    Keep (hostWrite p kind addr data s) s := by
  simp only [Keep, hostWrite] <;> (repeat' split) <;> simp_all

@[simp] theorem raiseIrq_keep (p vec : Nat) (s : State) :
    Keep (raiseIrq p vec s) s := by
  simp only [Keep, raiseIrq] <;> (repeat' split) <;> simp_all

@[simp] theorem issueKept_keep (p : Nat) (s : State) :
    Keep (issueKept p s) s := by
  simp only [Keep, issueKept] <;> (repeat' split) <;> simp_all

@[simp] theorem dmaTurn_keep (s : State) :
    Keep (dmaTurn s) s := by
  simp only [Keep, dmaTurn] <;> (repeat' split) <;> simp_all

@[simp] theorem wantWriteback_keep (p : Nat) (s : State) :
    Keep (wantWriteback p s) s := by
  simp only [Keep, wantWriteback] <;> (repeat' split) <;> simp_all

@[simp] theorem writeEntry_keep (p kind : Nat) (base : W64) (i : W32) (log2 : Nat) (w0 w1 w2 w3 : W64) (s : State) :
    Keep (writeEntry p kind base i log2 w0 w1 w2 w3 s) s := by
  simp only [Keep, writeEntry] <;> (repeat' split) <;> simp_all

@[simp] theorem event_keep (p type : Nat) (d0 : W32) (d1 : W128) (s : State) :
    Keep (event p type d0 d1 s) s := by
  simp only [Keep, event] <;> (repeat' split) <;> simp_all

@[simp] theorem signal__keep (p : Nat) (s : State) :
    Keep (signal_ p s) s := by
  simp only [Keep, signal_] <;> (repeat' split) <;> simp_all

@[simp] theorem irqCheck_keep (p : Nat) (s : State) :
    Keep (irqCheck p s) s := by
  simp only [Keep, irqCheck] <;> (repeat' split) <;> simp_all

@[simp] theorem irqArm_keep (p : Nat) (s : State) :
    Keep (irqArm p s) s := by
  simp only [Keep, irqArm] <;> (repeat' split) <;> simp_all

@[simp] theorem moderate_keep (p : Nat) (irq : Bool) (s : State) :
    Keep (moderate p irq s) s := by
  simp only [Keep, moderate] <;> (repeat' split) <;> simp_all

@[simp] theorem complete_keep (x : Desc) (r : Done) (force : Bool) (s : State) :
    Keep (complete x r force s) s := by
  simp only [Keep, complete] <;> (repeat' split) <;> simp_all

@[simp] theorem lossRecord_keep (p : Nat) (s : State) :
    Keep (lossRecord p s) s := by
  simp only [Keep, lossRecord] <;> (repeat' split) <;> simp_all

@[simp] theorem dropRecord_keep (p : Nat) (s : State) :
    Keep (dropRecord p s) s := by
  simp only [Keep, dropRecord] <;> (repeat' split) <;> simp_all

@[simp] theorem traceAdmit_keep (r : TraceRec) (s : State) :
    Keep (traceAdmit r s) s := by
  simp only [Keep, traceAdmit] <;> (repeat' split) <;> simp_all

@[simp] theorem traceCross_keep (r : TraceRec) (s : State) :
    Keep (traceCross r s) s := by
  simp only [Keep, traceCross] <;> (repeat' split) <;> simp_all

@[simp] theorem captureIn_keep (s : State) :
    Keep (captureIn s) s := by
  simp only [Keep, captureIn] <;> (repeat' split) <;> simp_all

@[simp] theorem traceOffer_keep (inEclk : Bool) (p : Nat) (bits : W128) (s : State) :
    Keep (traceOffer inEclk p bits s) s := by
  simp only [Keep, traceOffer] <;> (repeat' split) <;> simp_all

@[simp] theorem traceReserved_keep (bits : W128) (s : State) :
    Keep (traceReserved bits s) s := by
  simp only [Keep, traceReserved] <;> (repeat' split) <;> simp_all

@[simp] theorem traceMarkRec_keep (p who markid : Nat) (value : W32) (src : Nat) (s : State) :
    Keep (traceMarkRec p who markid value src s) s := by
  simp only [Keep, traceMarkRec] <;> (repeat' split) <;> simp_all

@[simp] theorem traceWaitEdge_keep (p : Nat) (tok : Bool) (i waiter signaller waited n : Nat) (s : State) :
    Keep (traceWaitEdge p tok i waiter signaller waited n s) s := by
  simp only [Keep, traceWaitEdge] <;> (repeat' split) <;> simp_all

@[simp] theorem traceRegion_keep (type barn : Nat) (s : State) :
    Keep (traceRegion type barn s) s := by
  simp only [Keep, traceRegion] <;> (repeat' split) <;> simp_all

@[simp] theorem traceTimebase_keep (s : State) :
    Keep (traceTimebase s) s := by
  simp only [Keep, traceTimebase] <;> (repeat' split) <;> simp_all

/-! ## Operands -/

/-! ## Links -/

@[simp] theorem offer_keep (link prio ready beats hop : Nat) (ev : Instr) (s : State) :
    Keep (offer link prio ready beats hop ev s) s := by
  simp only [Keep, offer] <;> (repeat' split) <;> simp_all

@[simp] theorem offerUp_keep (from_ : Place) (prio ready beats : Nat) (ev : Instr) (s : State) :
    Keep (offerUp from_ prio ready beats ev s) s := by
  simp only [Keep, offerUp] <;> (repeat' split) <;> simp_all

@[simp] theorem offerDown_keep (to_ : Place) (prio ready : Nat) (ev : Instr) (s : State) :
    Keep (offerDown to_ prio ready ev s) s := by
  simp only [Keep, offerDown] <;> (repeat' split) <;> simp_all

@[simp] theorem leave_keep (link hop : Nat) (ev : Instr) (s : State) :
    Keep (leave link hop ev s) s := by
  simp only [Keep, leave] <;> (repeat' split) <;> simp_all

@[simp] theorem depart_keep (link : Nat) (s : State) :
    Keep (depart link s) s := by
  simp only [Keep, depart] <;> (repeat' split) <;> simp_all

@[simp] theorem clearWires_keep (s : State) :
    Keep (clearWires s) s := by
  simp only [Keep, clearWires] <;> (repeat' split) <;> simp_all

@[simp] theorem departAll_keep (s0 : State) :
    Keep (departAll s0) s0 := by
  simp only [Keep, departAll] <;> (repeat' split) <;> simp_all

/-! ## Stirrup -/

@[simp] theorem markFrozen_keep (st : Nat) (s : State) :
    Keep (markFrozen st s) s := by
  simp only [Keep, markFrozen] <;> (repeat' split) <;> simp_all

@[simp] theorem freezeStirrup_keep (st cause : Nat) (w : W32) (s : State) :
    Keep (freezeStirrup st cause w s) s := by
  simp only [Keep, freezeStirrup] <;> (repeat' split) <;> simp_all

@[simp] theorem pumpHome_keep (st : Nat) (n : Nat) (s : State) :
    Keep (pumpHome st n s) s := by
  induction n generalizing s with
  | zero => exact ⟨rfl, rfl, rfl, rfl⟩
  | succ n ih => simp only [Keep, pumpHome] at ih ⊢ <;> (repeat' split) <;> simp_all

@[simp] theorem issueCall_keep (st : Nat) (c : StirCmd) (s : State) :
    Keep (issueCall st c s) s := by
  simp only [Keep, issueCall] <;> (repeat' split) <;> simp_all

@[simp] theorem issueTally_keep (st : Nat) (c : StirCmd) (s : State) :
    Keep (issueTally st c s) s := by
  simp only [Keep, issueTally] <;> (repeat' split) <;> simp_all

@[simp] theorem issueCtrl_keep (st : Nat) (c : StirCmd) (s : State) :
    Keep (issueCtrl st c s) s := by
  simp only [Keep, issueCtrl] <;> (repeat' split) <;> simp_all

@[simp] theorem issueNow_keep (st : Nat) (c : StirCmd) (s : State) :
    Keep (issueNow st c s) s := by
  simp only [Keep, issueNow] <;> (repeat' split) <;> simp_all

@[simp] theorem writeCmd_keep (st : Nat) (w : W32) (s : State) :
    Keep (writeCmd st w s) s := by
  simp only [Keep, writeCmd] <;> (repeat' split) <;> simp_all

@[simp] theorem wake_keep (st : Nat) (s : State) :
    Keep (wake st s) s := by
  simp only [Keep, wake] <;> (repeat' split) <;> simp_all

@[simp] theorem issueHeld_keep (st : Nat) (s : State) :
    Keep (issueHeld st s) s := by
  simp only [Keep, issueHeld] <;> (repeat' split) <;> simp_all

@[simp] theorem staleDrop_keep (p index kind what : Nat) (s : State) :
    Keep (staleDrop p index kind what s) s := by
  simp only [Keep, staleDrop] <;> (repeat' split) <;> simp_all

@[simp] theorem staleAt_keep (p : Nat) (at_ : Place) (kind what : Nat) (s : State) :
    Keep (staleAt p at_ kind what s) s := by
  simp only [Keep, staleAt] <;> (repeat' split) <;> simp_all

@[simp] theorem bootJoin_keep (st : Nat) (s : State) :
    Keep (bootJoin st s) s := by
  simp only [Keep, bootJoin] <;> (repeat' split) <;> simp_all

@[simp] theorem tryRole_keep (st : Nat) (s : State) :
    Keep (tryRole st s) s := by
  simp only [Keep, tryRole] <;> (repeat' split) <;> simp_all

@[simp] theorem writePay_keep (st i : Nat) (v : W32) (s : State) :
    Keep (writePay st i v s) s := by
  simp only [Keep, writePay] <;> (repeat' split) <;> simp_all

@[simp] theorem present_keep (v : W64) (s : State) :
    Keep (present v s) s := by
  simp only [Keep, present] <;> (repeat' split) <;> simp_all

/-! ## Tree -/

@[simp] theorem setSpan_keep (e : Nat) (x : SpanState) (s : State) :
    Keep (setSpan e x s) s := by
  simp only [Keep, setSpan] <;> (repeat' split) <;> simp_all

@[simp] theorem sendSpan_keep (port slot ready : Nat) (pkt : SpanPkt) (s : State) :
    Keep (sendSpan port slot ready pkt s) s := by
  simp only [Keep, sendSpan] <;> (repeat' split) <;> simp_all

@[simp] theorem curtainOut_keep (p : Nat) (die seq act cause : Nat) (skip : Option Nat) (s : State) :
    Keep (curtainOut p die seq act cause skip s) s := by
  simp only [Keep, curtainOut] <;> (repeat' split) <;> simp_all

@[simp] theorem sendCurtain_keep (p act cause : Nat) (s : State) :
    Keep (sendCurtain p act cause s) s := by
  simp only [Keep, sendCurtain] <;> (repeat' split) <;> simp_all

@[simp] theorem setCause_keep (p : Nat) (src : CurtainSrc) (s : State) :
    Keep (setCause p src s) s := by
  simp only [Keep, setCause] <;> (repeat' split) <;> simp_all

@[simp] theorem forward_keep (at_ : Place) (slot : Nat) (h : Hold) (e : W32) (s : State) :
    Keep (forward at_ slot h e s) s := by
  simp only [Keep, forward] <;> (repeat' split) <;> simp_all

@[simp] theorem offerEdge_keep (at_ : Place) (slot ready : Nat) (ev : Instr) (s : State) :
    Keep (offerEdge at_ slot ready ev s) s := by
  simp only [Keep, offerEdge] <;> (repeat' split) <;> simp_all

@[simp] theorem sendIdle_keep (at_ : Place) (slot : Nat) (e : W32) (s : State) :
    Keep (sendIdle at_ slot e s) s := by
  simp only [Keep, sendIdle] <;> (repeat' split) <;> simp_all

@[simp] theorem sendActive_keep (at_ : Place) (slot : Nat) (e : W32) (s : State) :
    Keep (sendActive at_ slot e s) s := by
  simp only [Keep, sendActive] <;> (repeat' split) <;> simp_all

@[simp] theorem settleActive_keep (at_ : Place) (slot : Nat) (s : State) :
    Keep (settleActive at_ slot s) s := by
  simp only [Keep, settleActive] <;> (repeat' split) <;> simp_all

@[simp] theorem settleIdle_keep (at_ : Place) (slot : Nat) (s : State) :
    Keep (settleIdle at_ slot s) s := by
  simp only [Keep, settleIdle] <;> (repeat' split) <;> simp_all

@[simp] theorem settleOpen_keep (at_ : Place) (slot : Nat) (s : State) :
    Keep (settleOpen at_ slot s) s := by
  simp only [Keep, settleOpen] <;> (repeat' split) <;> simp_all

@[simp] theorem settleNext_keep (at_ : Place) (slot : Nat) (s : State) :
    Keep (settleNext at_ slot s) s := by
  simp only [Keep, settleNext] <;> (repeat' split) <;> simp_all

@[simp] theorem settle_keep (at_ : Place) (slot : Nat) (s : State) :
    Keep (settle at_ slot s) s := by
  simp only [Keep, settle] <;> (repeat' split) <;> simp_all

@[simp] theorem touch_keep (at_ : Place) (slot : Nat) (s : State) :
    Keep (touch at_ slot s) s := by
  simp only [Keep, touch] <;> (repeat' split) <;> simp_all

@[simp] theorem arriveGen_keep (at_ : Place) (slot c : Nat) (p : Partial) (s : State) :
    Keep (arriveGen at_ slot c p s) s := by
  simp only [Keep, arriveGen] <;> (repeat' split) <;> simp_all

@[simp] theorem addCall_keep (k slot st : Nat) (p : Partial) (s : State) :
    Keep (addCall k slot st p s) s := by
  simp only [Keep, addCall] <;> (repeat' split) <;> simp_all

@[simp] theorem arriveCall_keep (k slot st : Nat) (p0 : Partial) (s : State) :
    Keep (arriveCall k slot st p0 s) s := by
  simp only [Keep, arriveCall] <;> (repeat' split) <;> simp_all

@[simp] theorem countForward_keep (at_ : Place) (slot c : Nat) (p0 : Partial) (s : State) :
    Keep (countForward at_ slot c p0 s) s := by
  simp only [Keep, countForward] <;> (repeat' split) <;> simp_all

@[simp] theorem countRoot_keep (at_ : Place) (slot c : Nat) (p : Partial) (s : State) :
    Keep (countRoot at_ slot c p s) s := by
  simp only [Keep, countRoot] <;> (repeat' split) <;> simp_all

@[simp] theorem countArrive_keep (at_ : Place) (slot c : Nat) (p : Partial) (s : State) :
    Keep (countArrive at_ slot c p s) s := by
  simp only [Keep, countArrive] <;> (repeat' split) <;> simp_all

@[simp] theorem stallFreeze_keep (st cause leftT : Nat) (w : W32) (s : State) :
    Keep (stallFreeze st cause leftT w s) s := by
  simp only [Keep, stallFreeze] <;> (repeat' split) <;> simp_all

@[simp] theorem homeUp_keep (at_ : Place) (r : HomeReq) (ready : Nat) (s : State) :
    Keep (homeUp at_ r ready s) s := by
  simp only [Keep, homeUp] <;> (repeat' split) <;> simp_all

@[simp] theorem closeWindow_keep (at_ : Place) (m : MergeRec) (s : State) :
    Keep (closeWindow at_ m s) s := by
  simp only [Keep, closeWindow] <;> (repeat' split) <;> simp_all

@[simp] theorem homeThrough_keep (at_ : Place) (r : HomeReq) (s : State) :
    Keep (homeThrough at_ r s) s := by
  simp only [Keep, homeThrough] <;> (repeat' split) <;> simp_all

@[simp] theorem combineSignal_keep (at_ : Place) (r : HomeReq) (s : State) :
    Keep (combineSignal at_ r s) s := by
  simp only [Keep, combineSignal] <;> (repeat' split) <;> simp_all

@[simp] theorem setAbstain_keep (at_ : Place) (slot m k : Nat) (asleep : Bool) (s : State) :
    Keep (setAbstain at_ slot m k asleep s) s := by
  simp only [Keep, setAbstain] <;> (repeat' split) <;> simp_all

@[simp] theorem clearAbstain_keep (at_ : Place) (slot m : Nat) (s : State) :
    Keep (clearAbstain at_ slot m s) s := by
  simp only [Keep, clearAbstain] <;> (repeat' split) <;> simp_all

@[simp] theorem abstainAt_keep (at_ : Place) (slot m k : Nat) (asleep : Bool) (s : State) :
    Keep (abstainAt at_ slot m k asleep s) s := by
  simp only [Keep, abstainAt] <;> (repeat' split) <;> simp_all

@[simp] theorem rejoinAt_keep (at_ : Place) (slot m : Nat) (s : State) :
    Keep (rejoinAt at_ slot m s) s := by
  simp only [Keep, rejoinAt] <;> (repeat' split) <;> simp_all

@[simp] theorem voidCall_keep (slot st : Nat) (s : State) :
    Keep (voidCall slot st s) s := by
  simp only [Keep, voidCall] <;> (repeat' split) <;> simp_all

@[simp] theorem bootAtStall_keep (k : Nat) (p : Partial) (c : PendCall) (s : State) :
    Keep (bootAtStall k p c s) s := by
  simp only [Keep, bootAtStall] <;> (repeat' split) <;> simp_all

@[simp] theorem callAtStall_keep (k : Nat) (p : Partial) (s : State) :
    Keep (callAtStall k p s) s := by
  simp only [Keep, callAtStall] <;> (repeat' split) <;> simp_all

@[simp] theorem ctrlLanded_keep (c : CtrlPkt) (s : State) :
    Keep (ctrlLanded c s) s := by
  simp only [Keep, ctrlLanded] <;> (repeat' split) <;> simp_all

@[simp] theorem postedRefusal_keep (st : Nat) (w : W32) (s : State) :
    Keep (postedRefusal st w s) s := by
  simp only [Keep, postedRefusal] <;> (repeat' split) <;> simp_all

@[simp] theorem ctrlAtStall_keep (k : Nat) (c : CtrlPkt) (s0 : State) :
    Keep (ctrlAtStall k c s0) s0 := by
  simp only [Keep, ctrlAtStall] <;> (repeat' split) <;> simp_all

@[simp] theorem tallyThrough_keep (at_ : Place) (r : TallyReq) (s : State) :
    Keep (tallyThrough at_ r s) s := by
  simp only [Keep, tallyThrough] <;> (repeat' split) <;> simp_all

@[simp] theorem homeCross_keep (r : HomeReq) (s : State) :
    Keep (homeCross r s) s := by
  simp only [Keep, homeCross] <;> (repeat' split) <;> simp_all

@[simp] theorem hostArrive_keep (p : Partial) (s : State) :
    Keep (hostArrive p s) s := by
  simp only [Keep, hostArrive] <;> (repeat' split) <;> simp_all

@[simp] theorem hostCtrl_keep (c : CtrlPkt) (s : State) :
    Keep (hostCtrl c s) s := by
  simp only [Keep, hostCtrl] <;> (repeat' split) <;> simp_all

@[simp] theorem upArrive_keep (at_ : Place) (pkt : UpPkt) (s : State) :
    Keep (upArrive at_ pkt s) s := by
  simp only [Keep, upArrive] <;> (repeat' split) <;> simp_all

@[simp] theorem freezeArrive_keep (st cause fromT : Nat) (s : State) :
    Keep (freezeArrive st cause fromT s) s := by
  simp only [Keep, freezeArrive] <;> (repeat' split) <;> simp_all

@[simp] theorem idleArrive_keep (at_ : Place) (slot c : Nat) (g : BitVec 6) (s : State) :
    Keep (idleArrive at_ slot c g s) s := by
  simp only [Keep, idleArrive] <;> (repeat' split) <;> simp_all

@[simp] theorem sendAck_keep (at_ : Place) (slot c : Nat) (e : W32) (s : State) :
    Keep (sendAck at_ slot c e s) s := by
  simp only [Keep, sendAck] <;> (repeat' split) <;> simp_all

@[simp] theorem activeArrive_keep (at_ : Place) (slot c : Nat) (s : State) :
    Keep (activeArrive at_ slot c s) s := by
  simp only [Keep, activeArrive] <;> (repeat' split) <;> simp_all

@[simp] theorem ackArrive_keep (at_ : Place) (slot : Nat) (e : W32) (s : State) :
    Keep (ackArrive at_ slot e s) s := by
  simp only [Keep, ackArrive] <;> (repeat' split) <;> simp_all

@[simp] theorem rearmArrive_keep (at_ : Place) (slot : Nat) (gen : BitVec 6) (stalls : List Nat) (s : State) :
    Keep (rearmArrive at_ slot gen stalls s) s := by
  simp only [Keep, rearmArrive] <;> (repeat' split) <;> simp_all

/-! ## HomeBase -/

@[simp] theorem setJournal_keep (p : Nat) (j : Journal) (s : State) :
    Keep (setJournal p j s) s := by
  simp only [Keep, setJournal] <;> (repeat' split) <;> simp_all

@[simp] theorem setWaiter_keep (e : Nat) (w : Waiter) (s : State) :
    Keep (setWaiter e w s) s := by
  simp only [Keep, setWaiter] <;> (repeat' split) <;> simp_all

@[simp] theorem freeWaiter_keep (e : Nat) (s : State) :
    Keep (freeWaiter e s) s := by
  simp only [Keep, freeWaiter] <;> (repeat' split) <;> simp_all

@[simp] theorem freeKept_keep (p : Nat) (s : State) :
    Keep (freeKept p s) s := by
  simp only [Keep, freeKept] <;> (repeat' split) <;> simp_all

@[simp] theorem freeUnnamed_keep (p : Nat) (s : State) :
    Keep (freeUnnamed p s) s := by
  simp only [Keep, freeUnnamed] <;> (repeat' split) <;> simp_all

@[simp] theorem closeJournal_keep (p : Nat) (s : State) :
    Keep (closeJournal p s) s := by
  simp only [Keep, closeJournal] <;> (repeat' split) <;> simp_all

@[simp] theorem journalAdd_keep (p : Nat) (l : List JEntry) (s : State) :
    Keep (journalAdd p l s) s := by
  simp only [Keep, journalAdd] <;> (repeat' split) <;> simp_all

@[simp] theorem journalReopen_keep (p : Nat) (s : State) :
    Keep (journalReopen p s) s := by
  simp only [Keep, journalReopen] <;> (repeat' split) <;> simp_all

@[simp] theorem journalDrop_keep (p : Nat) (s : State) :
    Keep (journalDrop p s) s := by
  simp only [Keep, journalDrop] <;> (repeat' split) <;> simp_all

@[simp] theorem journalObj_keep (p : Nat) (tok : Bool) (i : Nat) (l : List JEntry) (s : State) :
    Keep (journalObj p tok i l s) s := by
  simp only [Keep, journalObj] <;> (repeat' split) <;> simp_all

@[simp] theorem putVal_keep (r : HomeReq) (v : W32) (s : State) :
    Keep (putVal r v s) s := by
  simp only [Keep, putVal] <;> (repeat' split) <;> simp_all

@[simp] theorem setFly_keep (p n : Nat) (s : State) :
    Keep (setFly p n s) s := by
  simp only [Keep, setFly] <;> (repeat' split) <;> simp_all

@[simp] theorem updDesc_keep (d : DescState) (s : State) :
    Keep (updDesc d s) s := by
  simp only [Keep, updDesc] <;> (repeat' split) <;> simp_all

@[simp] theorem homeDirect_keep (r : HomeReq) (entry : Option Nat) (delay : Nat) (s : State) :
    Keep (homeDirect r entry delay s) s := by
  simp only [Keep, homeDirect] <;> (repeat' split) <;> simp_all

@[simp] theorem hostPump_keep (x : Desc) (n : Nat) (s : State) :
    Keep (hostPump x n s) s := by
  induction n generalizing s with
  | zero => exact ⟨rfl, rfl, rfl, rfl⟩
  | succ n ih => simp only [Keep, hostPump] at ih ⊢ <;> (repeat' split) <;> simp_all

@[simp] theorem hostPumpAll_keep (p : Nat) (s : State) :
    Keep (hostPumpAll p s) s := by
  simp only [Keep, hostPumpAll] <;> (repeat' split) <;> simp_all

@[simp] theorem hostDone_keep (r : HomeReq) (status : BitVec 5) (pay : W128) (s : State) :
    Keep (hostDone r status pay s) s := by
  simp only [Keep, hostDone] <;> (repeat' split) <;> simp_all

@[simp] theorem respond_keep (r : HomeReq) (status : BitVec 5) (pay : W128) (poll : Bool) (s : State) :
    Keep (respond r status pay poll s) s := by
  simp only [Keep, respond] <;> (repeat' split) <;> simp_all

@[simp] theorem countOp_keep (r : HomeReq) (s : State) :
    Keep (countOp r s) s := by
  simp only [Keep, countOp] <;> (repeat' split) <;> simp_all

@[simp] theorem done_keep (r : HomeReq) (status : BitVec 5) (pay : W128) (s : State) :
    Keep (done r status pay s) s := by
  simp only [Keep, done] <;> (repeat' split) <;> simp_all

@[simp] theorem refuse_keep (r : HomeReq) (cause : Nat) (s : State) :
    Keep (refuse r cause s) s := by
  simp only [Keep, refuse] <;> (repeat' split) <;> simp_all

@[simp] theorem refuseNull_keep (r : HomeReq) (s : State) :
    Keep (refuseNull r s) s := by
  simp only [Keep, refuseNull] <;> (repeat' split) <;> simp_all

@[simp] theorem eclkLag_keep (s : State) :
    Keep (eclkLag s).2 s := by
  simp only [Keep, eclkLag] <;> (repeat' split) <;> simp_all

@[simp] theorem unlinkFrom_keep (tok : Bool) (i e : Nat) (s : State) :
    Keep (unlinkFrom tok i e s) s := by
  simp only [Keep, unlinkFrom] <;> (repeat' split) <;> simp_all

@[simp] theorem unlinkAll_keep (e : Nat) (s : State) :
    Keep (unlinkAll e s) s := by
  simp [Keep, unlinkAll]

@[simp] theorem linkTail_keep (tok : Bool) (i e : Nat) (s : State) :
    Keep (linkTail tok i e s) s := by
  simp only [Keep, linkTail] <;> (repeat' split) <;> simp_all

@[simp] theorem enqueue_keep (r : HomeReq) (n : W32) (deadline : Option W64) (lag : Nat) (s : State) :
    Keep (enqueue r n deadline lag s).1 s := by
  simp only [Keep, enqueue] <;> (repeat' split) <;> simp_all

@[simp] theorem leaveFifos_keep (e : Nat) (s : State) :
    Keep (leaveFifos e s) s := by
  simp only [Keep, leaveFifos] <;> (repeat' split) <;> simp_all

@[simp] theorem markPass_keep (tok : Bool) (i src : Nat) (picked : Bool) (s : State) :
    Keep (markPass tok i src picked s) s := by
  simp only [Keep, markPass] <;> (repeat' split) <;> simp_all

@[simp] theorem endPass_keep (tok : Bool) (i : Nat) (s : State) :
    Keep (endPass tok i s) s := by
  simp only [Keep, endPass] <;> (repeat' split) <;> simp_all

@[simp] theorem passNext_keep (tok : Bool) (i : Nat) (s : State) :
    Keep (passNext tok i s) s := by
  simp only [Keep, passNext] <;> (repeat' split) <;> simp_all

@[simp] theorem startPass_keep (tok : Bool) (i src : Nat) (s : State) :
    Keep (startPass tok i src s) s := by
  simp only [Keep, startPass] <;> (repeat' split) <;> simp_all

@[simp] theorem homeResume_keep (p : Nat) (s : State) :
    Keep (homeResume p s) s := by
  simp only [Keep, homeResume] <;> (repeat' split) <;> simp_all

/-! ## Home -/

@[simp] theorem addSat_keep (r : HomeReq) (n : Nat) (s : State) :
    Keep (addSat r n s) s := by
  simp only [Keep, addSat] <;> (repeat' split) <;> simp_all

@[simp] theorem semSignal_keep (r : HomeReq) (s : State) :
    Keep (semSignal r s) s := by
  simp only [Keep, semSignal] <;> (repeat' split) <;> simp_all

@[simp] theorem takeNow_keep (r : HomeReq) (n : W32) (s : State) :
    Keep (takeNow r n s) s := by
  simp only [Keep, takeNow] <;> (repeat' split) <;> simp_all

@[simp] theorem semWait_keep (r : HomeReq) (s : State) :
    Keep (semWait r s) s := by
  simp only [Keep, semWait] <;> (repeat' split) <;> simp_all

@[simp] theorem semTrywait_keep (r : HomeReq) (s : State) :
    Keep (semTrywait r s) s := by
  simp only [Keep, semTrywait] <;> (repeat' split) <;> simp_all

@[simp] theorem semWaitTo_keep (r : HomeReq) (s : State) :
    Keep (semWaitTo r s) s := by
  simp only [Keep, semWaitTo] <;> (repeat' split) <;> simp_all

@[simp] theorem semRead_keep (r : HomeReq) (s : State) :
    Keep (semRead r s) s := by
  simp only [Keep, semRead] <;> (repeat' split) <;> simp_all

@[simp] theorem rmw_keep (r : HomeReq) (v : W32) (s : State) :
    Keep (rmw r v s) s := by
  simp only [Keep, rmw] <;> (repeat' split) <;> simp_all

@[simp] theorem semSet_keep (r : HomeReq) (s : State) :
    Keep (semSet r s) s := by
  simp only [Keep, semSet] <;> (repeat' split) <;> simp_all

@[simp] theorem semFetchAdd_keep (r : HomeReq) (s : State) :
    Keep (semFetchAdd r s) s := by
  simp only [Keep, semFetchAdd] <;> (repeat' split) <;> simp_all

@[simp] theorem semCas_keep (r : HomeReq) (s : State) :
    Keep (semCas r s) s := by
  simp only [Keep, semCas] <;> (repeat' split) <;> simp_all

@[simp] theorem semFetchMax_keep (r : HomeReq) (s : State) :
    Keep (semFetchMax r s) s := by
  simp only [Keep, semFetchMax] <;> (repeat' split) <;> simp_all

@[simp] theorem semFetchOr_keep (r : HomeReq) (s : State) :
    Keep (semFetchOr r s) s := by
  simp only [Keep, semFetchOr] <;> (repeat' split) <;> simp_all

@[simp] theorem tokPost_keep (r : HomeReq) (s : State) :
    Keep (tokPost r s) s := by
  simp only [Keep, tokPost] <;> (repeat' split) <;> simp_all

@[simp] theorem tokAcquire_keep (r : HomeReq) (s : State) :
    Keep (tokAcquire r s) s := by
  simp only [Keep, tokAcquire] <;> (repeat' split) <;> simp_all

@[simp] theorem tokTryacquire_keep (r : HomeReq) (s : State) :
    Keep (tokTryacquire r s) s := by
  simp only [Keep, tokTryacquire] <;> (repeat' split) <;> simp_all

@[simp] theorem tokAcquirePri_keep (r : HomeReq) (s : State) :
    Keep (tokAcquirePri r s) s := by
  have h := enqueue_keep r (pay0 r.pay) none 0 s
  simp only [Keep, tokAcquirePri] at h ⊢ <;> (repeat' split) <;> simp_all

@[simp] theorem priSecond_keep (r : HomeReq) (e : Nat) (s : State) :
    Keep (priSecond r e s) s := by
  simp only [Keep, priSecond] <;> (repeat' split) <;> simp_all

@[simp] theorem tokPostTag_keep (r : HomeReq) (s : State) :
    Keep (tokPostTag r s) s := by
  simp only [Keep, tokPostTag] <;> (repeat' split) <;> simp_all

@[simp] theorem tokAcquireTag_keep (r : HomeReq) (s : State) :
    Keep (tokAcquireTag r s) s := by
  simp only [Keep, tokAcquireTag] <;> (repeat' split) <;> simp_all

@[simp] theorem tokLevel_keep (r : HomeReq) (s : State) :
    Keep (tokLevel r s) s := by
  simp only [Keep, tokLevel] <;> (repeat' split) <;> simp_all

@[simp] theorem homeEffect_keep (r : HomeReq) (entry : Option Nat) (s : State) :
    Keep (homeEffect r entry s) s := by
  simp only [Keep, homeEffect] <;> (repeat' split) <;> simp_all

@[simp] theorem setInput_keep (pipe : Nat) (l : List HomeItem) (s : State) :
    Keep (setInput pipe l s) s := by
  simp only [Keep, setInput] <;> (repeat' split) <;> simp_all

@[simp] theorem setBucket_keep (p n : Nat) (s : State) :
    Keep (setBucket p n s) s := by
  simp only [Keep, setBucket] <;> (repeat' split) <;> simp_all

@[simp] theorem setDeficit_keep (pipe p n : Nat) (s : State) :
    Keep (setDeficit pipe p n s) s := by
  simp only [Keep, setDeficit] <;> (repeat' split) <;> simp_all

@[simp] theorem dropDeficits_keep (pipe : Nat) (ready : List Nat) (s : State) :
    Keep (dropDeficits pipe ready s) s := by
  simp only [Keep, dropDeficits] <;> (repeat' split) <;> simp_all

@[simp] theorem weighted_keep (pipe : Nat) (ready : List Nat) (s : State) :
    Keep (weighted pipe ready s).2 s := by
  simp only [Keep, weighted] <;> (repeat' split) <;> simp_all

@[simp] theorem afterOp_keep (r : HomeReq) (s0 s1 : State) : Keep (afterOp r s0 s1) s1 := by
  simp only [Keep, afterOp] <;> (repeat' split) <;> simp_all

@[simp] theorem takeTurn_keep (pipe p : Nat) (s : State) :
    Keep (takeTurn pipe p s) s := by
  simp only [Keep, takeTurn] <;> (repeat' split) <;> simp_all

@[simp] theorem homePick_keep (pipe : Nat) (s : State) :
    Keep (homePick pipe s) s := by
  simp only [Keep, homePick] <;> (repeat' split)
  · simp
  · simp
  · next q s2 heq => have h : _ = s2 := congrArg Prod.snd heq; subst h; simp
  · next s2 heq => have h : _ = s2 := congrArg Prod.snd heq; subst h; simp

@[simp] theorem abortItem_keep (it : HomeItem) (s : State) :
    Keep (abortItem it s) s := by
  simp only [Keep, abortItem] <;> (repeat' split) <;> simp_all

@[simp] theorem enterOne_keep (s : State) (c : Crossing) :
    Keep (enterOne s c) s := by
  simp only [Keep, enterOne] <;> (repeat' split) <;> simp_all

@[simp] theorem homeEntry_keep (s : State) :
    Keep (homeEntry s) s := by
  simp only [Keep, homeEntry] <;> (repeat' split) <;> simp_all

@[simp] theorem wakeTake_keep (tok : Bool) (i e : Nat) (sq : W32) (src : Nat) (s : State) :
    Keep (wakeTake tok i e sq src s) s := by
  simp only [Keep, wakeTake] <;> (repeat' split) <;> simp_all

@[simp] theorem removeWaiter_keep (e : Nat) (status : BitVec 5) (tell : Bool) (s : State) :
    Keep (removeWaiter e status tell s) s := by
  simp only [Keep, removeWaiter] <;> (repeat' split) <;> simp_all

@[simp] theorem removeAndPass_keep (e : Nat) (status : BitVec 5) (tell : Bool) (s : State) :
    Keep (removeAndPass e status tell s) s := by
  simp only [Keep, removeAndPass] <;> (repeat' split) <;> simp_all

@[simp] theorem wakePass_keep (tok : Bool) (i : Nat) (s : State) :
    Keep (wakePass tok i s) s := by
  simp only [Keep, wakePass] <;> (repeat' split) <;> simp_all

@[simp] theorem waiterExpiry_keep (e : Nat) (s : State) :
    Keep (waiterExpiry e s) s := by
  simp only [Keep, waiterExpiry] <;> (repeat' split) <;> simp_all

@[simp] theorem waiterRemoval_keep (st : Nat) (tell : Bool) (s : State) :
    Keep (waiterRemoval st tell s) s := by
  simp only [Keep, waiterRemoval] <;> (repeat' split) <;> simp_all

@[simp] theorem loadRate_keep (p : Nat) (full : Bool) (s : State) :
    Keep (loadRate p full s) s := by
  simp only [Keep, loadRate] <;> (repeat' split) <;> simp_all

@[simp] theorem refillPart_keep (p : Nat) (s : State) :
    Keep (refillPart p s) s := by
  simp only [Keep, refillPart] <;> (repeat' split) <;> simp_all

@[simp] theorem pollResend_keep (r : HomeReq) (s : State) :
    Keep (pollResend r s) s := by
  simp only [Keep, pollResend] <;> (repeat' split) <;> simp_all

@[simp] theorem rspAtStirrup_keep (st : Nat) (r : HomeRsp) (s : State) :
    Keep (rspAtStirrup st r s) s := by
  simp only [Keep, rspAtStirrup] <;> (repeat' split) <;> simp_all

@[simp] theorem dropMerge_keep (at_ : Place) (rec : Nat) (s : State) :
    Keep (dropMerge at_ rec s) s := by
  simp only [Keep, dropMerge] <;> (repeat' split) <;> simp_all

@[simp] theorem copies_keep (at_ : Place) (m : MergeRec) (r : HomeRsp) (s : State) :
    Keep (copies at_ m r s) s := by
  simp only [Keep, copies] <;> (repeat' split) <;> simp_all

@[simp] theorem rspDown_keep (to_ : Place) (r : HomeRsp) (s : State) :
    Keep (rspDown to_ r s) s := by
  simp only [Keep, rspDown] <;> (repeat' split) <;> simp_all

@[simp] theorem homeRsp_keep (at_ : Place) (r : HomeRsp) (s : State) :
    Keep (homeRsp at_ r s) s := by
  simp only [Keep, homeRsp] <;> (repeat' split) <;> simp_all

@[simp] theorem relink_keep (e : Nat) (s : State) :
    Keep (relink e s) s := by
  simp only [Keep, relink] <;> (repeat' split) <;> simp_all

@[simp] theorem undoEntry_keep (j : JEntry) (s : State) :
    Keep (undoEntry j s) s := by
  unfold undoEntry; dsimp only
  repeat' split
  all_goals simp [Keep]

@[simp] theorem noteChanged_keep (pipe : Nat) (j : JEntry) (s : State) :
    Keep (noteChanged pipe j s) s := by
  simp only [Keep, noteChanged] <;> (repeat' split) <;> simp_all

@[simp] theorem undoEnd_keep (p : Nat) (s : State) :
    Keep (undoEnd p s) s := by
  simp only [Keep, undoEnd] <;> (repeat' split) <;> simp_all

@[simp] theorem undoPipeEnd_keep (p pipe : Nat) (s : State) :
    Keep (undoPipeEnd p pipe s) s := by
  simp only [Keep, undoPipeEnd] <;> (repeat' split) <;> simp_all

@[simp] theorem undoStep_keep (p pipe : Nat) (s : State) :
    Keep (undoStep p pipe s) s := by
  simp only [Keep, undoStep] <;> (repeat' split) <;> simp_all

@[simp] theorem marker_keep (m : Marker) (s : State) :
    Keep (marker m s) s := by
  simp only [Keep, marker] <;> (repeat' split) <;> simp_all

@[simp] theorem mark_keep (p : Nat) (k : MarkKind) (s : State) :
    Keep (mark p k s) s := by
  simp only [Keep, mark] <;> (repeat' split) <;> simp_all

@[simp] theorem runMarks_keep (s : State) :
    Keep (runMarks s) s := by
  simp only [Keep, runMarks] <;> (repeat' split) <;> simp_all

@[simp] theorem abortWaiter_keep (e : Nat) (s : State) :
    Keep (abortWaiter e s) s := by
  simp only [Keep, abortWaiter] <;> (repeat' split) <;> simp_all

@[simp] theorem abortWaiters_keep (q : Nat → Waiter → Bool) (s : State) :
    Keep (abortWaiters q s) s := by
  simp only [Keep, abortWaiters] <;> (repeat' split) <;> simp_all

@[simp] theorem abortInputs_keep (p : Nat) (s : State) :
    Keep (abortInputs p s) s := by
  simp only [Keep, abortInputs] <;> (repeat' split) <;> simp_all

@[simp] theorem abortHome_keep (p : Nat) (s : State) :
    Keep (abortHome p s) s := by
  simp only [Keep, abortHome] <;> (repeat' split) <;> simp_all

@[simp] theorem clearObj_keep (tok : Bool) (i : Nat) (s : State) :
    Keep (clearObj tok i s) s := by
  simp only [Keep, clearObj] <;> (repeat' split) <;> simp_all

@[simp] theorem clearObjs_keep (q : Bool → Nat → Bool) (s : State) :
    Keep (clearObjs q s) s := by
  simp only [Keep, clearObjs] <;> (repeat' split) <;> simp_all

@[simp] theorem resetHome_keep (p : Nat) (s : State) :
    Keep (resetHome p s) s := by
  simp only [Keep, resetHome] <;> (repeat' split) <;> simp_all

/-! ## Tally -/

@[simp] theorem strobe_keep (t : Nat) (drop : Bool) (s : State) :
    Keep (strobe t drop s) s := by
  simp only [Keep, strobe] <;> (repeat' split) <;> simp_all

@[simp] theorem drainStrobes_keep (s : State) :
    Keep (drainStrobes s) s := by
  simp only [Keep, drainStrobes] <;> (repeat' split) <;> simp_all

@[simp] theorem addUnits_keep (t n : Nat) (op : Nat) (s : State) :
    Keep (addUnits t n op s) s := by
  simp only [Keep, addUnits] <;> (repeat' split) <;> simp_all

@[simp] theorem armTally_keep (t : Nat) (v : W32) (s : State) :
    Keep (armTally t v s) s := by
  simp only [Keep, armTally] <;> (repeat' split) <;> simp_all

@[simp] theorem completeRound_keep (t : Nat) (s : State) :
    Keep (completeRound t s) s := by
  simp only [Keep, completeRound] <;> (repeat' split) <;> simp_all

@[simp] theorem flagReport_keep (t : Nat) (s : State) :
    Keep (flagReport t s) s := by
  simp only [Keep, flagReport] <;> (repeat' split) <;> simp_all

@[simp] theorem tallyAnswer_keep (r : TallyReq) (status : BitVec 5) (pay : W128) (s : State) :
    Keep (tallyAnswer r status pay s) s := by
  simp only [Keep, tallyAnswer] <;> (repeat' split) <;> simp_all

@[simp] theorem tallyCycle_keep (reps : List (Nat × Nat × BitVec 7)) (reqs : List TallyReq) (t : Nat) (s : State) :
    Keep (tallyCycle reps reqs t s) s := by
  simp only [Keep, tallyCycle] <;> (repeat' split) <;> simp_all

@[simp] theorem tallyUnit_keep (s : State) :
    Keep (tallyUnit s) s := by
  simp only [Keep, tallyUnit] <;> (repeat' split) <;> simp_all

@[simp] theorem tallyAt_keep (due : Nat) (act : TallyAct) (s : State) :
    Keep (tallyAt due act s) s := by
  simp only [Keep, tallyAt] <;> (repeat' split) <;> simp_all

@[simp] theorem landReport_keep (half lane t : Nat) (u : BitVec 7) (s : State) :
    Keep (landReport half lane t u s) s := by
  simp only [Keep, landReport] <;> (repeat' split) <;> simp_all

@[simp] theorem tallyRspAt_keep (st : Nat) (r : TallyRsp) (s : State) :
    Keep (tallyRspAt st r s) s := by
  simp only [Keep, tallyRspAt] <;> (repeat' split) <;> simp_all

@[simp] theorem tallyResponse_keep (at_ : Place) (r : TallyRsp) (s : State) :
    Keep (tallyResponse at_ r s) s := by
  simp only [Keep, tallyResponse] <;> (repeat' split) <;> simp_all

@[simp] theorem copyStart_keep (p : Nat) (s : State) :
    Keep (copyStart p s) s := by
  simp only [Keep, copyStart] <;> (repeat' split) <;> simp_all

@[simp] theorem restoreTallies_keep (p : Nat) (s : State) :
    Keep (restoreTallies p s) s := by
  simp only [Keep, restoreTallies] <;> (repeat' split) <;> simp_all

@[simp] theorem resetTally_keep (t : Nat) (s : State) :
    Keep (resetTally t s) s := by
  simp only [Keep, resetTally] <;> (repeat' split) <;> simp_all

@[simp] theorem abortTallyNow_keep (p : Nat) (s : State) :
    Keep (abortTallyNow p s) s := by
  simp only [Keep, abortTallyNow] <;> (repeat' split) <;> simp_all

@[simp] theorem resetTallies_keep (p : Nat) (s : State) :
    Keep (resetTallies p s) s := by
  simp only [Keep, resetTallies] <;> (repeat' split) <;> simp_all

/-! ## CueBase -/

@[simp] theorem passNode_keep (at_ : Place) (slot : Nat) (e nx : W32) (s : State) :
    Keep (passNode at_ slot e nx s) s := by
  simp only [Keep, passNode] <;> (repeat' split) <;> simp_all

@[simp] theorem sendCue_keep (to_ : Place) (c : Cue) (s : State) :
    Keep (sendCue to_ c s) s := by
  simp only [Keep, sendCue] <;> (repeat' split) <;> simp_all

@[simp] theorem deliver_keep (st : Nat) (c : Cue) (s : State) :
    Keep (deliver st c s) s := by
  simp only [Keep, deliver] <;> (repeat' split) <;> simp_all

@[simp] theorem reportVotes_keep (k slot : Nat) (s : State) :
    Keep (reportVotes k slot s) s := by
  simp only [Keep, reportVotes] <;> (repeat' split) <;> simp_all

@[simp] theorem slotVotes_keep (slot : Nat) (s : State) :
    Keep (slotVotes slot s) s := by
  simp only [Keep, slotVotes] <;> (repeat' split) <;> simp_all

@[simp] theorem reportHost_keep (slot : Nat) (s : State) :
    Keep (reportHost slot s) s := by
  simp only [Keep, reportHost] <;> (repeat' split) <;> simp_all

@[simp] theorem stallForward_keep (k : Nat) (c : Cue) (s : State) :
    Keep (stallForward k c s) s := by
  simp only [Keep, stallForward] <;> (repeat' split) <;> simp_all

@[simp] theorem mapCut_keep (k : Nat) (c : Cue) (s : State) :
    Keep (mapCut k c s).2 s := by
  simp only [Keep, mapCut] <;> (repeat' split) <;> simp_all

@[simp] theorem stallArrive_keep (k : Nat) (c0 : Cue) (s0 : State) :
    Keep (stallArrive k c0 s0) s0 := by
  simp only [Keep, stallArrive] <;> (repeat' split) <;> simp_all

@[simp] theorem sendCut_keep (at_ : Place) (c : Cue) (k : Nat × Nat) (s : State) :
    Keep (sendCut at_ c k s) s := by
  simp only [Keep, sendCut] <;> (repeat' split) <;> simp_all

@[simp] theorem cueArrive_keep (at_ : Place) (c : Cue) (s : State) :
    Keep (cueArrive at_ c s) s := by
  simp only [Keep, cueArrive] <;> (repeat' split) <;> simp_all

@[simp] theorem waveRelease_keep (k : Nat) (c : Cue) (s : State) :
    Keep (waveRelease k c s) s := by
  simp only [Keep, waveRelease] <;> (repeat' split) <;> simp_all

@[simp] theorem cueAtStirrup_keep (st : Nat) (c : Cue) (s : State) :
    Keep (cueAtStirrup st c s) s := by
  simp only [Keep, cueAtStirrup] <;> (repeat' split) <;> simp_all

@[simp] theorem syncEvent_keep (at_ : Place) (c : Cue) (s : State) :
    Keep (syncEvent at_ c s) s := by
  simp only [Keep, syncEvent] <;> (repeat' split) <;> simp_all

@[simp] theorem tellHost_keep (c : Cue) (s : State) :
    Keep (tellHost c s) s := by
  simp only [Keep, tellHost] <;> (repeat' split) <;> simp_all

@[simp] theorem freezeBy_keep (slot : Nat) (s : State) :
    Keep (freezeBy slot s) s := by
  simp only [Keep, freezeBy] <;> (repeat' split) <;> simp_all

@[simp] theorem startDown_keep (at_ : Place) (c : Cue) (s : State) :
    Keep (startDown at_ c s) s := by
  simp only [Keep, startDown] <;> (repeat' split) <;> simp_all

@[simp] theorem wpMark_keep (slot : Nat) (e : W32) (s : State) (w : Nat) :
    Keep (wpMark slot e s w) s := by
  simp only [Keep, wpMark] <;> (repeat' split) <;> simp_all

@[simp] theorem cueOut_keep (at_ : Place) (c : Cue) (s : State) :
    Keep (cueOut at_ c s) s := by
  simp only [Keep, cueOut] <;> (repeat' split) <;> simp_all

@[simp] theorem passRoot_keep (at_ : Place) (slot : Nat) (e nx : W32) (s : State) :
    Keep (passRoot at_ slot e nx s) s := by
  simp only [Keep, passRoot] <;> (repeat' split) <;> simp_all

@[simp] theorem purgeCount_keep (slot : Nat) (nx : W32) (s : State) :
    Keep (purgeCount slot nx s) s := by
  simp only [Keep, purgeCount] <;> (repeat' split) <;> simp_all

@[simp] theorem applyAfter_keep (slot : Nat) (s : State) :
    Keep (applyAfter slot s) s := by
  simp only [Keep, applyAfter] <;> (repeat' split) <;> simp_all

@[simp] theorem abortTo_keep (nx : W32) (slot : Nat) (root : Place) (stalls : List Nat) (s : State) :
    Keep (abortTo nx slot root stalls s) s := by
  simp only [Keep, abortTo] <;> (repeat' split) <;> simp_all

@[simp] theorem abortSlot_keep (slot : Nat) (root : Place) (stalls : List Nat) (s : State) :
    Keep (abortSlot slot root stalls s) s := by
  simp only [Keep, abortSlot] <;> (repeat' split) <;> simp_all

@[simp] theorem dropQueued_keep (id : BitVec 20) (skip : Option Nat) (s : State) :
    Keep (dropQueued id skip s) s := by
  simp only [Keep, dropQueued] <;> (repeat' split) <;> simp_all

@[simp] theorem reopen_keep (slot : Nat) (s : State) :
    Keep (reopen slot s) s := by
  simp only [Keep, reopen] <;> (repeat' split) <;> simp_all

@[simp] theorem endEpoch_keep (slot e : Nat) (s : State) :
    Keep (endEpoch slot e s) s := by
  simp only [Keep, endEpoch] <;> (repeat' split) <;> simp_all

@[simp] theorem loseSpan_keep (skip : Option Nat) (e : Nat) (s : State) :
    Keep (loseSpan skip e s) s := by
  simp only [Keep, loseSpan] <;> (repeat' split) <;> simp_all

@[simp] theorem abortWaiting_keep (slot : Nat) (s : State) :
    Keep (abortWaiting slot s) s := by
  simp only [Keep, abortWaiting] <;> (repeat' split) <;> simp_all

@[simp] theorem lossReport_keep (port : Nat) (es : List Nat) (s : State) :
    Keep (lossReport port es s) s := by
  simp only [Keep, lossReport] <;> (repeat' split) <;> simp_all

@[simp] theorem linkLoss_keep (port : Nat) (es : List Nat) (s : State) :
    Keep (linkLoss port es s) s := by
  simp only [Keep, linkLoss] <;> (repeat' split) <;> simp_all

@[simp] theorem allPortsLost_keep (es : List Nat) (s : State) :
    Keep (allPortsLost es s) s := by
  simp only [Keep, allPortsLost] <;> (repeat' split) <;> simp_all

@[simp] theorem setFabPort_keep (p : Nat) (x : FabPort) (s : State) :
    Keep (setFabPort p x s) s := by
  simp only [Keep, setFabPort] <;> (repeat' split) <;> simp_all

@[simp] theorem portLost_keep (port : Nat) (s : State) :
    Keep (portLost port s) s := by
  simp only [Keep, portLost] <;> (repeat' split) <;> simp_all

@[simp] theorem clockLost_keep (s : State) :
    Keep (clockLost s) s := by
  simp only [Keep, clockLost] <;> (repeat' split) <;> simp_all

@[simp] theorem checkSpan_keep (e : Nat) (s : State) :
    Keep (checkSpan e s) s := by
  simp only [Keep, checkSpan] <;> (repeat' split) <;> simp_all

/-! ## Apply -/

@[simp] theorem applyWords_keep (keys : List Nat) (s : State) :
    Keep (applyWords keys s) s := by
  simp only [Keep, applyWords] <;> (repeat' split) <;> simp_all

@[simp] theorem dropWords_keep (keys : List Nat) (s : State) :
    Keep (dropWords keys s) s := by
  simp only [Keep, dropWords] <;> (repeat' split) <;> simp_all

@[simp] theorem memberSync_keep (slot st : Nat) (s : State) :
    Keep (memberSync slot st s) s := by
  simp only [Keep, memberSync] <;> (repeat' split) <;> simp_all

@[simp] theorem slotSync_keep (slot : Nat) (s : State) :
    Keep (slotSync slot s) s := by
  simp only [Keep, slotSync] <;> (repeat' split) <;> simp_all

@[simp] theorem reinit_keep (slot : Nat) (root : Place) (stalls : List Nat) (s : State) :
    Keep (reinit slot root stalls s) s := by
  simp only [Keep, reinit] <;> (repeat' split) <;> simp_all

@[simp] theorem recount_keep (slot : Nat) (s : State) :
    Keep (recount slot s) s := by
  simp only [Keep, recount] <;> (repeat' split) <;> simp_all

@[simp] theorem reshape_pending (l : List Nat) (f : State → State) (h : ∀ a, (f a).pending = a.pending) (s : State) :
    (reshape l f s).pending = s.pending := by
  simp only [reshape] <;> (repeat' split) <;> simp_all

@[simp] theorem reshape_dbg (l : List Nat) (f : State → State) (h : ∀ a, (f a).dbg = a.dbg) (s : State) :
    (reshape l f s).dbg = s.dbg := by
  simp only [reshape] <;> (repeat' split) <;> simp_all

@[simp] theorem reshape_inReset (l : List Nat) (f : State → State) (h : ∀ a, (f a).boot.inReset = a.boot.inReset) (s : State) :
    (reshape l f s).boot.inReset = s.boot.inReset := by
  simp only [reshape] <;> (repeat' split) <;> simp_all

@[simp] theorem reshape_tclk (l : List Nat) (f : State → State) (h : ∀ a, (f a).clk.tclk = a.clk.tclk) (s : State) :
    (reshape l f s).clk.tclk = s.clk.tclk := by
  simp only [reshape] <;> (repeat' split) <;> simp_all

@[simp] theorem putRoster_keep (keys : List Nat) (s : State) :
    Keep (putRoster keys s) s := by
  simp only [Keep, putRoster] <;> (repeat' split) <;> simp_all

@[simp] theorem applyChange_keep (keys : List Nat) (s : State) :
    Keep (applyChange keys s) s := by
  simp only [Keep, applyChange] <;> (repeat' split) <;> simp_all

@[simp] theorem applyRosterOf_keep (p : Nat) (s : State) :
    Keep (applyRosterOf p s) s := by
  simp only [Keep, applyRosterOf] <;> (repeat' split) <;> simp_all

@[simp] theorem clearGroups_keep (gs : List (Nat × Nat)) (s : State) :
    Keep (clearGroups gs s) s := by
  simp only [Keep, clearGroups] <;> (repeat' split) <;> simp_all

@[simp] theorem freshGroups_keep (gs : List (Nat × Nat)) (s : State) :
    Keep (freshGroups gs s) s := by
  simp only [Keep, freshGroups] <;> (repeat' split) <;> simp_all

@[simp] theorem abortGroups_keep (gs : List (Nat × Nat)) (s : State) :
    Keep (abortGroups gs s) s := by
  simp only [Keep, abortGroups] <;> (repeat' split) <;> simp_all

@[simp] theorem changeMap_pending (p : Nat) (f : State → State) (h : ∀ a, (f a).pending = a.pending) (s : State) :
    (changeMap p f s).pending = s.pending := by
  simp only [changeMap] <;> (repeat' split) <;> simp_all

@[simp] theorem changeMap_dbg (p : Nat) (f : State → State) (h : ∀ a, (f a).dbg = a.dbg) (s : State) :
    (changeMap p f s).dbg = s.dbg := by
  simp only [changeMap] <;> (repeat' split) <;> simp_all

@[simp] theorem changeMap_inReset (p : Nat) (f : State → State) (h : ∀ a, (f a).boot.inReset = a.boot.inReset) (s : State) :
    (changeMap p f s).boot.inReset = s.boot.inReset := by
  simp only [changeMap] <;> (repeat' split) <;> simp_all

@[simp] theorem changeMap_tclk (p : Nat) (f : State → State) (h : ∀ a, (f a).clk.tclk = a.clk.tclk) (s : State) :
    (changeMap p f s).clk.tclk = s.clk.tclk := by
  simp only [changeMap] <;> (repeat' split) <;> simp_all

@[simp] theorem putPart_keep (p : Nat) (keys : List Nat) (s : State) :
    Keep (putPart p keys s) s := by
  simp only [Keep, putPart] <;> (repeat' split) <;> simp_all

@[simp] theorem applyPart_keep (p : Nat) (s : State) :
    Keep (applyPart p s).1 s := by
  simp only [Keep, applyPart] <;> (repeat' split) <;> simp_all

@[simp] theorem epochTo0_keep (slot : Nat) (s : State) :
    Keep (epochTo0 slot s) s := by
  simp only [Keep, epochTo0] <;> (repeat' split) <;> simp_all

@[simp] theorem putSpan_keep (e : Nat) (keys : List Nat) (s : State) :
    Keep (putSpan e keys s) s := by
  simp only [Keep, putSpan] <;> (repeat' split) <;> simp_all

@[simp] theorem applySpan_keep (row e : Nat) (s : State) :
    Keep (applySpan row e s) s := by
  simp only [Keep, applySpan] <;> (repeat' split) <;> simp_all

@[simp] theorem applySpans_keep (p : Nat) (s : State) :
    Keep (applySpans p s) s := by
  simp only [Keep, applySpans] <;> (repeat' split) <;> simp_all

@[simp] theorem rejectEvent_keep (s : State) (p kind rel : Nat) :
    Keep (rejectEvent s p kind rel) s := by
  simp only [Keep, rejectEvent] <;> (repeat' split) <;> simp_all

@[simp] theorem applySlot_keep (p slot : Nat) (s : State) :
    Keep (applySlot p slot s) s := by
  simp only [Keep, applySlot] <;> (repeat' split) <;> simp_all

@[simp] theorem applySlots_keep (p : Nat) (s : State) :
    Keep (applySlots p s) s := by
  simp only [Keep, applySlots] <;> (repeat' split) <;> simp_all

@[simp] theorem applyObj_keep (p k : Nat) (s : State) :
    Keep (applyObj p k s) s := by
  simp only [Keep, applyObj] <;> (repeat' split) <;> simp_all

@[simp] theorem applyObjects_keep (p : Nat) (s : State) :
    Keep (applyObjects p s) s := by
  simp only [Keep, applyObjects] <;> (repeat' split) <;> simp_all

@[simp] theorem applyWp_keep (p w : Nat) (s : State) :
    Keep (applyWp p w s) s := by
  simp only [Keep, applyWp] <;> (repeat' split) <;> simp_all

@[simp] theorem applyWatch_keep (p : Nat) (s : State) :
    Keep (applyWatch p s) s := by
  simp only [Keep, applyWatch] <;> (repeat' split) <;> simp_all

@[simp] theorem applyPoint_keep (p : Nat) (s0 : State) :
    Keep (applyPoint p s0) s0 := by
  simp only [Keep, applyPoint] <;> (repeat' split) <;> simp_all

@[simp] theorem emptyBoundaryApply_keep (p : Nat) (s : State) :
    Keep (emptyBoundaryApply p s) s := by
  simp only [Keep, emptyBoundaryApply] <;> (repeat' split) <;> simp_all

@[simp] theorem dwRestart_keep (s : State) :
    Keep (dwRestart s) s := by
  simp only [Keep, dwRestart] <;> (repeat' split) <;> simp_all

@[simp] theorem applyGait_keep (p : Nat) (s : State) :
    Keep (applyGait p s) s := by
  simp only [Keep, applyGait] <;> (repeat' split) <;> simp_all

@[simp] theorem applyTrace_keep (s : State) :
    Keep (applyTrace s) s := by
  simp only [Keep, applyTrace] <;> (repeat' split) <;> simp_all

@[simp] theorem applyUs_keep (b : Nat) (s : State) :
    Keep (applyUs b s) s := by
  simp only [Keep, applyUs] <;> (repeat' split) <;> simp_all

@[simp] theorem applyRecipe_keep (s : State) :
    Keep (applyRecipe s) s := by
  simp only [Keep, applyRecipe] <;> (repeat' split) <;> simp_all

@[simp] theorem dieWideApply_keep (s : State) :
    Keep (dieWideApply s) s := by
  simp only [Keep, dieWideApply] <;> (repeat' split) <;> simp_all

@[simp] theorem cancelDw_keep (s : State) :
    Keep (cancelDw s) s := by
  simp only [Keep, cancelDw] <;> (repeat' split) <;> simp_all

@[simp] theorem stageDone_keep (s : State) :
    Keep (stageDone s) s := by
  simp only [Keep, stageDone] <;> (repeat' split) <;> simp_all

@[simp] theorem wbAck_keep (k : Nat) (s : State) :
    Keep (wbAck k s) s := by
  simp only [Keep, wbAck] <;> (repeat' split) <;> simp_all

/-! ## Cues -/

@[simp] theorem logLate_keep (slot : Nat) (c : Cue) (late : Nat) (s : State) :
    Keep (logLate slot c late s) s := by
  simp only [Keep, logLate] <;> (repeat' split) <;> simp_all

@[simp] theorem leaveNow_keep (at_ : Place) (c : Cue) (s : State) :
    Keep (leaveNow at_ c s) s := by
  simp only [Keep, leaveNow] <;> (repeat' split) <;> simp_all

@[simp] theorem sendKids_keep (slot : Nat) (pkt : SpanPkt) (s : State) :
    Keep (sendKids slot pkt s) s := by
  simp only [Keep, sendKids] <;> (repeat' split) <;> simp_all

@[simp] theorem schedCue_keep (t : W64) (c : Cue) (s : State) :
    Keep (schedCue t c s) s := by
  simp only [Keep, schedCue] <;> (repeat' split) <;> simp_all

@[simp] theorem release_keep (at_ : Place) (c : Cue) (s : State) :
    Keep (release at_ c s) s := by
  simp only [Keep, release] <;> (repeat' split) <;> simp_all

@[simp] theorem releaseSched_keep (x : Sched) (s : State) :
    Keep (releaseSched x s) s := by
  simp only [Keep, releaseSched] <;> (repeat' split) <;> simp_all

@[simp] theorem scheduledRelease_keep (slot : Nat) (s : State) :
    Keep (scheduledRelease slot s) s := by
  simp only [Keep, scheduledRelease] <;> (repeat' split) <;> simp_all

@[simp] theorem holdOrRelease_keep (at_ : Place) (c : Cue) (t : Nat) (s : State) :
    Keep (holdOrRelease at_ c t s) s := by
  simp only [Keep, holdOrRelease] <;> (repeat' split) <;> simp_all

@[simp] theorem dropHeld_keep (h : HeldCue) (s : State) :
    Keep (dropHeld h s) s := by
  simp only [Keep, dropHeld] <;> (repeat' split) <;> simp_all

@[simp] theorem setDue_keep (h : HeldCue) (s : State) :
    Keep (setDue h s) s := by
  simp only [Keep, setDue] <;> (repeat' split) <;> simp_all

@[simp] theorem holdExpiry_keep (slot : Nat) (s : State) :
    Keep (holdExpiry slot s) s := by
  simp only [Keep, holdExpiry] <;> (repeat' split) <;> simp_all

@[simp] theorem spacedRelease_keep (slot : Nat) (s : State) :
    Keep (spacedRelease slot s) s := by
  simp only [Keep, spacedRelease] <;> (repeat' split) <;> simp_all

@[simp] theorem budgetChange_keep (b : BitVec 2) (s : State) :
    Keep (budgetChange b s) s := by
  simp only [Keep, budgetChange] <;> (repeat' split) <;> simp_all

@[simp] theorem nextDraw_keep (p : Nat) (s : State) :
    Keep (nextDraw p s).2 s := by
  simp only [Keep, nextDraw] <;> (repeat' split) <;> simp_all

@[simp] theorem pushDraw_keep (p : Nat) (s : State) :
    Keep (pushDraw p s) s := by
  simp only [Keep, pushDraw] <;> (repeat' split) <;> simp_all

@[simp] theorem auditPush_keep (p : Nat) (draw : BitVec 29) (s : State) :
    Keep (auditPush p draw s) s := by
  simp only [Keep, auditPush] <;> (repeat' split) <;> simp_all

@[simp] theorem commitStep_keep (p : Nat) (s : State) :
    Keep (commitStep p s) s := by
  simp only [Keep, commitStep] <;> (repeat' split) <;> simp_all

@[simp] theorem startReplay_keep (p : Nat) (at_ : Place) (c : Cue) (s : State) :
    Keep (startReplay p at_ c s) s := by
  simp only [Keep, startReplay] <;> (repeat' split) <;> simp_all

@[simp] theorem abortStep_keep (p slot : Nat) (e : W32) (s : State) :
    Keep (abortStep p slot e s) s := by
  simp only [Keep, abortStep] <;> (repeat' split) <;> simp_all

@[simp] theorem wpNote_keep (slot : Nat) (e : W32) (s : State) (w : Nat) :
    Keep (wpNote slot e s w) s := by
  simp only [Keep, wpNote] <;> (repeat' split) <;> simp_all

@[simp] theorem wpSignal_keep (s : State) (w : Nat) :
    Keep (wpSignal s w) s := by
  simp only [Keep, wpSignal] <;> (repeat' split) <;> simp_all

@[simp] theorem wpCurtain_keep (s : State) (w : Nat) :
    Keep (wpCurtain s w) s := by
  simp only [Keep, wpCurtain] <;> (repeat' split) <;> simp_all

@[simp] theorem dropCounted_keep (at_ : Place) (slot : Nat) (s : State) :
    Keep (dropCounted at_ slot s) s := by
  simp only [Keep, dropCounted] <;> (repeat' split) <;> simp_all

@[simp] theorem rearmRoot_keep (at_ : Place) (slot : Nat) (s : State) :
    Keep (rearmRoot at_ slot s) s := by
  simp only [Keep, rearmRoot] <;> (repeat' split) <;> simp_all

@[simp] theorem noteDies_keep (slot : Nat) (p : Option Partial) (s : State) :
    Keep (noteDies slot p s) s := by
  simp only [Keep, noteDies] <;> (repeat' split) <;> simp_all

theorem Keep.trans {u t s : State} (a : Keep u t) (b : Keep t s) : Keep u s :=
  ⟨a.1.trans b.1, a.2.1.trans b.2.1, a.2.2.1.trans b.2.2.1, a.2.2.2.trans b.2.2.2⟩

theorem Keep.refl (s : State) : Keep s s := ⟨rfl, rfl, rfl, rfl⟩

theorem Keep.foldl {α : Type} (f : State → α → State) (h : ∀ a x, Keep (f a x) a) (l : List α) (s : State) : Keep (l.foldl f s) s := by
  induction l generalizing s with
  | nil => exact Keep.refl s
  | cons a l ih => exact (ih (f s a)).trans (h s a)

@[simp] theorem markCounted_keep (slot : Nat) (e : W32) (n : Nat) (at_ : Place) (cut : Nat) (s : State) :
    Keep (markCounted slot e n at_ cut s) s := by
  induction n generalizing at_ cut s with
  | zero => exact Keep.refl s
  | succ n ih =>
    unfold markCounted
    refine (Keep.foldl _ (fun a k => ?_) _ _).trans (by simp [Keep])
    split
    · exact ih _ _ _
    · exact Keep.refl a

@[simp] theorem noteCounted_keep (at_ : Place) (c : Cue) (s : State) :
    Keep (noteCounted at_ c s) s := by
  unfold noteCounted
  refine Keep.foldl _ (fun a k => ?_) _ _
  split <;> simp [Keep]

@[simp] theorem sendDecided_keep (at_ : Place) (c : Cue) (s : State) :
    Keep (sendDecided at_ c s) s := by
  simp only [Keep, sendDecided] <;> (repeat' split) <;> simp_all

@[simp] theorem undoWait_keep (own : Nat) (at_ : Place) (slot : Nat) (s : State) :
    Keep (undoWait own at_ slot s) s := by
  simp only [Keep, undoWait] <;> (repeat' split) <;> simp_all

@[simp] theorem verdictDone_keep (at_ : Place) (slot own : Nat) (e : W32) (base : BitVec 5) (s : State) :
    Keep (verdictDone at_ slot own e base s) s := by
  simp only [Keep, verdictDone] <;> (repeat' split) <;> simp_all

@[simp] theorem decide__keep (at_ : Place) (slot : Nat) (s : State) :
    Keep (decide_ at_ slot s) s := by
  simp only [Keep, decide_] <;> (repeat' split) <;> simp_all

@[simp] theorem firstCue_keep (s : State) :
    Keep (firstCue s) s := by
  simp only [Keep, firstCue] <;> (repeat' split) <;> simp_all

@[simp] theorem rootDecision_keep (at_ : Place) (slot : Nat) (s : State) :
    Keep (rootDecision at_ slot s) s := by
  simp only [Keep, rootDecision] <;> (repeat' split) <;> simp_all

@[simp] theorem followVerdict_keep (slot : Nat) (c : Cue) (s : State) :
    Keep (followVerdict slot c s).2 s := by
  simp only [Keep, followVerdict] <;> (repeat' split) <;> simp_all

@[simp] theorem followSpan_keep (x : Sched) (s : State) :
    Keep (followSpan x s) s := by
  simp only [Keep, followSpan] <;> (repeat' split) <;> simp_all

@[simp] theorem laterSpan_keep (own : Nat) (x : Sched) (s : State) :
    Keep (laterSpan own x s) s := by
  simp only [Keep, laterSpan] <;> (repeat' split) <;> simp_all

@[simp] theorem takeSpan_keep (own : Nat) (x : Sched) (s : State) :
    Keep (takeSpan own x s) s := by
  simp only [Keep, takeSpan] <;> (repeat' split) <;> simp_all

@[simp] theorem undoComplete_keep (p : Nat) (s : State) :
    Keep (undoComplete p s) s := by
  simp only [Keep, undoComplete] <;> (repeat' split) <;> simp_all

@[simp] theorem hostCallCompletion_keep (c : Cue) (s : State) :
    Keep (hostCallCompletion c s) s := by
  simp only [Keep, hostCallCompletion] <;> (repeat' split) <;> simp_all

/-! ## Fabric -/

@[simp] theorem linkBytes_keep (port dir n : Nat) (s : State) :
    Keep (linkBytes port dir n s) s := by
  simp only [Keep, linkBytes] <;> (repeat' split) <;> simp_all

@[simp] theorem noteRx_keep (port n : Nat) (s : State) :
    Keep (noteRx port n s) s := by
  simp only [Keep, noteRx] <;> (repeat' split) <;> simp_all

@[simp] theorem badFlit_keep (port : Nat) (s : State) :
    Keep (badFlit port s) s := by
  simp only [Keep, badFlit] <;> (repeat' split) <;> simp_all

@[simp] theorem fabricRecord_keep (port : Nat) (p : SpanPkt) (s : State) :
    Keep (fabricRecord port p s) s := by
  simp only [Keep, fabricRecord] <;> (repeat' split) <;> simp_all

@[simp] theorem discardSpan_keep (port : Nat) (own : Option Nat) (p : SpanPkt) (s : State) :
    Keep (discardSpan port own p s) s := by
  simp only [Keep, discardSpan] <;> (repeat' split) <;> simp_all

@[simp] theorem assemble_keep (port : Nat) (p : SpanPkt) (s : State) :
    Keep (assemble port p s).2 s := by
  simp only [Keep, assemble] <;> (repeat' split) <;> simp_all

theorem spanTake_keep (port : Nat) (p : SpanPkt) (f : Nat → State → State) (h : ∀ e a, Keep (f e a) a) (s : State) :
    Keep (spanTake port p f s) s := by
  unfold spanTake
  split
  · simp [Keep]
  · split
    · simp [Keep]
    · exact h _ _

theorem spanAssembled_keep (port : Nat) (row : SpanPkt → Instr) (f : SpanPkt → Nat → State → State)
    (h : ∀ q e a, Keep (f q e a) a) (s s3 : State) (q : SpanPkt) (g : Keep s3 s) :
    Keep (if bufferT s3 port q.fkind = 0 then spanTake port q (f q) s3 else afterT (bufferT s3 port q.fkind) (row q) s3) s := by
  split
  · exact (spanTake_keep _ _ _ (h _) _).trans g
  · exact Keep.trans (by simp [Keep]) g

theorem spanReceive_keep (port : Nat) (p : SpanPkt) (row : SpanPkt → Instr) (f : SpanPkt → Nat → State → State)
    (h : ∀ q e a, Keep (f q e a) a) (s : State) : Keep (spanReceive port p row f s) s := by
  unfold spanReceive
  dsimp only
  have h2 : ∀ u, Keep u s → Keep (assemble port p u).2 s := fun u g => (assemble_keep port p u).trans g
  have h3 := h2 (match (spanFor s p.span).bind fun e => slotOwner s (spanSlot s e) with
    | some q => count q 15 (unitBytes port 1) (noteRx port 1 s)
    | none => noteRx port 1 s) (by split <;> simp [Keep])
  split
  · next e => exact (congrArg (fun x => Keep x.2 s) e).mp h3
  · next e => exact spanAssembled_keep _ _ _ h _ _ _ ((congrArg (fun x => Keep x.2 s) e).mp h3)

@[simp] theorem spanPartial_keep (port : Nat) (p : SpanPkt) (e : Nat) (s : State) :
    Keep (spanPartial port p e s) s := by
  simp only [Keep, spanPartial] <;> (repeat' split) <;> simp_all

@[simp] theorem spanCue_keep (port : Nat) (p : SpanPkt) (e : Nat) (s : State) :
    Keep (spanCue port p e s) s := by
  simp only [Keep, spanCue] <;> (repeat' split) <;> simp_all

@[simp] theorem spanIdleness_keep (active : Bool) (port : Nat) (p : SpanPkt) (e : Nat) (s : State) :
    Keep (spanIdleness active port p e s) s := by
  simp only [Keep, spanIdleness] <;> (repeat' split) <;> simp_all

@[simp] theorem spanAborted_keep (port e : Nat) (s : State) :
    Keep (spanAborted port e s) s := by
  simp only [Keep, spanAborted] <;> (repeat' split) <;> simp_all

@[simp] theorem queueOut_keep (port : Nat) (pkt : SpanPkt) (s : State) :
    Keep (queueOut port pkt s) s := by
  simp only [Keep, queueOut] <;> (repeat' split) <;> simp_all

@[simp] theorem tugTrained_keep (port : Nat) (up : Bool) (s : State) :
    Keep (tugTrained port up s) s := by
  simp only [Keep, tugTrained] <;> (repeat' split) <;> simp_all

@[simp] theorem tugTraining_keep (port transit peerN : Nat) (s : State) :
    Keep (tugTraining port transit peerN s) s := by
  simp only [Keep, tugTraining] <;> (repeat' split) <;> simp_all

@[simp] theorem tugResend_keep (port : Nat) (s : State) :
    Keep (tugResend port s) s := by
  simp only [Keep, tugResend] <;> (repeat' split) <;> simp_all

@[simp] theorem retrainTugs_keep (s : State) :
    Keep (retrainTugs s) s := by
  simp only [Keep, retrainTugs] <;> (repeat' split) <;> simp_all

@[simp] theorem reinUp_keep (up : Bool) (s : State) :
    Keep (reinUp up s) s := by
  simp only [Keep, reinUp] <;> (repeat' split) <;> simp_all

@[simp] theorem sentUnit_keep (u : FabUnit) (part_ : Option Nat) (s : State) :
    Keep (sentUnit u part_ s) s := by
  simp only [Keep, sentUnit] <;> (repeat' split) <;> simp_all

@[simp] theorem sendUnit_keep (o : FabOut) (s : State) :
    Keep (sendUnit o s) s := by
  simp only [Keep, sendUnit] <;> (repeat' split) <;> simp_all

@[simp] theorem reinTurn_keep (l : List FabOut) (s : State) :
    Keep (reinTurn l s).2 s := by
  simp only [Keep, reinTurn] <;> (repeat' split) <;> simp_all

@[simp] theorem stampOut_keep (o : FabOut) (s : State) :
    Keep (stampOut o s).2 s := by
  simp only [Keep, stampOut] <;> (repeat' split) <;> simp_all

@[simp] theorem sendFlit_keep (o : FabOut) (s : State) :
    Keep (sendFlit o s) s := by
  simp only [Keep, sendFlit] <;> (repeat' split) <;> simp_all

@[simp] theorem reinFlitSend_keep (bulk : Bool) (s : State) :
    Keep (reinFlitSend bulk s) s := by
  simp only [Keep, reinFlitSend] <;> (repeat' split) <;> simp_all

@[simp] theorem tugOut_keep (port : Nat) (s : State) :
    Keep (tugOut port s) s := by
  simp only [Keep, tugOut] <;> (repeat' split) <;> simp_all

/-! ## House -/

@[simp] theorem houseRecord_keep (cause : Nat) (s : State) :
    Keep (houseRecord cause s) s := by
  simp only [Keep, houseRecord] <;> (repeat' split) <;> simp_all

@[simp] theorem setHc_keep (x : HcState) (s : State) :
    Keep (setHc x s) s := by
  simp only [Keep, setHc] <;> (repeat' split) <;> simp_all

@[simp] theorem hrefTurn_keep (s : State) :
    Keep (hrefTurn s) s := by
  simp only [Keep, hrefTurn] <;> (repeat' split) <;> simp_all

@[simp] theorem houseEdge_keep (s : State) :
    Keep (houseEdge s) s := by
  simp only [Keep, houseEdge] <;> (repeat' split) <;> simp_all

@[simp] theorem nextSlew_keep (s : State) :
    Keep (nextSlew s) s := by
  simp only [Keep, nextSlew] <;> (repeat' split) <;> simp_all

@[simp] theorem sendHouse_keep (s : State) :
    Keep (sendHouse s) s := by
  simp only [Keep, sendHouse] <;> (repeat' split) <;> simp_all

@[simp] theorem frameSends_keep (s : State) :
    Keep (frameSends s) s := by
  simp only [Keep, frameSends] <;> (repeat' split) <;> simp_all

@[simp] theorem retune_tclk (mult wait : Nat) (c : Clocks) : (retune mult wait c).tclk = c.tclk := rfl

@[simp] theorem frameZero_keep (edges : Nat) (s : State) :
    Keep (frameZero edges s) s := by
  simp only [Keep, frameZero] <;> (repeat' split) <;> simp_all

@[simp] theorem nextFrame_keep (edges : Nat) (href : W64) (s : State) :
    Keep (nextFrame edges href s) s := by
  simp only [Keep, nextFrame] <;> (repeat' split) <;> simp_all

@[simp] theorem houseFrame_keep (edges : Nat) (href : W64) (s : State) :
    Keep (houseFrame edges href s) s := by
  simp only [Keep, houseFrame] <;> (repeat' split) <;> simp_all

@[simp] theorem announce_keep (kind : Nat) (value : W64) (frame : Nat) (s : State) :
    Keep (announce kind value frame s) s := by
  simp only [Keep, announce] <;> (repeat' split) <;> simp_all

@[simp] theorem adoptTime_keep (port : Nat) (start : W64) (s : State) :
    Keep (adoptTime port start s) s := by
  simp only [Keep, adoptTime] <;> (repeat' split) <;> simp_all

@[simp] theorem housePacket_keep (port : Nat) (start : W64) (st kind : BitVec 2) (value : W64) (frame : Nat) (s : State) :
    Keep (housePacket port start st kind value frame s) s := by
  simp only [Keep, housePacket] <;> (repeat' split) <;> simp_all

@[simp] theorem missed_keep (s : State) :
    Keep (missed s) s := by
  simp only [Keep, missed] <;> (repeat' split) <;> simp_all

@[simp] theorem houseExchange_keep (s : State) :
    Keep (houseExchange s) s := by
  simp only [Keep, houseExchange] <;> (repeat' split) <;> simp_all

@[simp] theorem lockingStep_keep (o : Int) (s : State) :
    Keep (lockingStep o s) s := by
  simp only [Keep, lockingStep] <;> (repeat' split) <;> simp_all

@[simp] theorem measured_keep (o : Int) (s0 : State) :
    Keep (measured o s0) s0 := by
  simp only [Keep, measured] <;> (repeat' split) <;> simp_all

@[simp] theorem exchangeReply_keep (port : Nat) (t1 t2 t3 : W64) (asPeer : Bool) (s : State) :
    Keep (exchangeReply port t1 t2 t3 asPeer s) s := by
  simp only [Keep, exchangeReply] <;> (repeat' split) <;> simp_all

@[simp] theorem restartLocking_keep (s : State) :
    Keep (restartLocking s) s := by
  simp only [Keep, restartLocking] <;> (repeat' split) <;> simp_all

@[simp] theorem seedHouse_keep (hi : W32) (s : State) :
    Keep (seedHouse hi s) s := by
  simp only [Keep, seedHouse] <;> (repeat' split) <;> simp_all

/-! ## Curtain -/

@[simp] theorem curtainDone_keep (p act : Nat) (src : CurtainSrc) (s : State) :
    Keep (curtainDone p act src s) s := by
  simp only [Keep, curtainDone] <;> (repeat' split) <;> simp_all

@[simp] theorem refuseDesc_keep (x : Desc) (cause : Nat) (s : State) :
    Keep (refuseDesc x cause s) s := by
  simp only [Keep, refuseDesc] <;> (repeat' split) <;> simp_all

@[simp] theorem curtainRefuse_keep (p act : Nat) (src : CurtainSrc) (s : State) :
    Keep (curtainRefuse p act src s) s := by
  simp only [Keep, curtainRefuse] <;> (repeat' split) <;> simp_all

@[simp] theorem curtainRaise_keep (p : Nat) (src : CurtainSrc) (inForce : Bool) (s : State) :
    Keep (curtainRaise p src inForce s) s := by
  simp only [Keep, curtainRaise] <;> (repeat' split) <;> simp_all

@[simp] theorem resumePart_keep (p : Nat) (s : State) :
    Keep (resumePart p s) s := by
  simp only [Keep, resumePart] <;> (repeat' split) <;> simp_all

@[simp] theorem curtainFall_keep (p : Nat) (src : CurtainSrc) (how : Nat) (s : State) :
    Keep (curtainFall p src how s) s := by
  simp only [Keep, curtainFall] <;> (repeat' split) <;> simp_all

@[simp] theorem clearCauses_keep (p : Nat) (src : CurtainSrc) (act : Nat) (s : State) :
    Keep (clearCauses p src act s) s := by
  simp only [Keep, clearCauses] <;> (repeat' split) <;> simp_all

@[simp] theorem curtainLift_keep (p : Nat) (src : CurtainSrc) (inForce : Bool) (s : State) :
    Keep (curtainLift p src inForce s) s := by
  simp only [Keep, curtainLift] <;> (repeat' split) <;> simp_all

@[simp] theorem abortQueue_keep (st : Nat) (s : State) :
    Keep (abortQueue st s) s := by
  simp only [Keep, abortQueue] <;> (repeat' split) <;> simp_all

@[simp] theorem voidWaves_keep (q : Nat → Bool) (s : State) : Keep (voidWaves q s) s := by
  unfold voidWaves
  refine (Keep.foldl _ (fun a x => ?_) _ _).trans ?_
  · split <;> simp [Keep]
  · simp [Keep]

@[simp] theorem voidWaiting_keep (p : Nat) (s : State) :
    Keep (voidWaiting p s) s := by
  simp only [Keep, voidWaiting] <;> (repeat' split) <;> simp_all

@[simp] theorem releaseHeld_keep (p : Nat) (s : State) :
    Keep (releaseHeld p s) s := by
  simp only [Keep, releaseHeld] <;> (repeat' split) <;> simp_all

@[simp] theorem abortTallies_keep (p : Nat) (s : State) :
    Keep (abortTallies p s) s := by
  simp only [Keep, abortTallies] <;> (repeat' split) <;> simp_all

@[simp] theorem dropSnaps_keep (q : Desc → Bool) (s : State) :
    Keep (dropSnaps q s) s := by
  simp only [Keep, dropSnaps] <;> (repeat' split) <;> simp_all

@[simp] theorem abortDescs_keep (q : DescState → Bool) (p : Nat) (s : State) :
    Keep (abortDescs q p s) s := by
  simp only [Keep, abortDescs] <;> (repeat' split) <;> simp_all

@[simp] theorem abortWork_keep (p : Nat) (s : State) :
    Keep (abortWork p s) s := by
  simp only [Keep, abortWork] <;> (repeat' split) <;> simp_all

@[simp] theorem curtainLiftAbort_keep (p : Nat) (src : CurtainSrc) (inForce : Bool) (s : State) :
    Keep (curtainLiftAbort p src inForce s) s := by
  simp only [Keep, curtainLiftAbort] <;> (repeat' split) <;> simp_all

@[simp] theorem askDie_keep (act due : Nat) (s : State) :
    Keep (askDie act due s) s := by
  simp only [Keep, askDie] <;> (repeat' split) <;> simp_all

@[simp] theorem setDie_keep (act : Nat) (s : State) :
    Keep (setDie act s) s := by
  simp only [Keep, setDie] <;> (repeat' split) <;> simp_all

@[simp] theorem allDieDone_keep (act : Nat) (s : State) :
    Keep (allDieDone act s) s := by
  simp only [Keep, allDieDone] <;> (repeat' split) <;> simp_all

@[simp] theorem dieEffect_keep (s : State) :
    Keep (dieEffect s) s := by
  simp only [Keep, dieEffect] <;> (repeat' split) <;> simp_all

@[simp] theorem allOut_keep (die seq act : Nat) (skip : Option Nat) (s : State) :
    Keep (allOut die seq act skip s) s := by
  simp only [Keep, allOut] <;> (repeat' split) <;> simp_all

@[simp] theorem dieCurtain_keep (act : Nat) (propagate : Bool) (s : State) :
    Keep (dieCurtain act propagate s) s := by
  simp only [Keep, dieCurtain] <;> (repeat' split) <;> simp_all

@[simp] theorem scan_keep (s : State) :
    Keep (scan s) s := by
  simp only [Keep, scan] <;> (repeat' split) <;> simp_all

@[simp] theorem rememberPacket_keep (die seq : Nat) (s : State) :
    Keep (rememberPacket die seq s) s := by
  simp only [Keep, rememberPacket] <;> (repeat' split) <;> simp_all

@[simp] theorem curtainActs_keep (port p die seq act code : Nat) (s : State) :
    Keep (curtainActs port p die seq act code s) s := by
  simp only [Keep, curtainActs] <;> (repeat' split) <;> simp_all

@[simp] theorem curtainPacket_keep (port : Nat) (pkt : SpanPkt) (s : State) :
    Keep (curtainPacket port pkt s) s := by
  simp only [Keep, curtainPacket] <;> (repeat' split) <;> simp_all

@[simp] theorem thaw_keep (st : Nat) (s : State) :
    Keep (thaw st s) s := by
  simp only [Keep, thaw] <;> (repeat' split) <;> simp_all

@[simp] theorem dropFrom_keep (st : Nat) (s : State) :
    Keep (dropFrom st s) s := by
  simp only [Keep, dropFrom] <;> (repeat' split) <;> simp_all

@[simp] theorem isoOn_keep (st : Nat) (s0 : State) :
    Keep (isoOn st s0) s0 := by
  simp only [Keep, isoOn] <;> (repeat' split) <;> simp_all

@[simp] theorem isoOff_keep (st : Nat) (s0 : State) :
    Keep (isoOff st s0) s0 := by
  simp only [Keep, isoOff] <;> (repeat' split) <;> simp_all

@[simp] theorem tileIso_keep (st : Nat) (on : Bool) (s : State) :
    Keep (tileIso st on s) s := by
  simp only [Keep, tileIso] <;> (repeat' split) <;> simp_all

@[simp] theorem regionSleep_keep (line : Nat) (on : Bool) (s : State) :
    Keep (regionSleep line on s) s := by
  simp only [Keep, regionSleep] <;> (repeat' split) <;> simp_all

@[simp] theorem dropSlots_keep (slots : List Nat) (s : State) :
    Keep (dropSlots slots s) s := by
  simp only [Keep, dropSlots] <;> (repeat' split) <;> simp_all

@[simp] theorem abortCall_keep (st : Nat) (s : State) :
    Keep (abortCall st s) s := by
  simp only [Keep, abortCall] <;> (repeat' split) <;> simp_all

@[simp] theorem abortCalls_keep (p : Nat) (s : State) :
    Keep (abortCalls p s) s := by
  simp only [Keep, abortCalls] <;> (repeat' split) <;> simp_all

@[simp] theorem flushHost_keep (p : Nat) (s : State) :
    Keep (flushHost p s) s := by
  simp only [Keep, flushHost] <;> (repeat' split) <;> simp_all

@[simp] theorem resetActions_keep (p : Nat) (s : State) :
    Keep (resetActions p s) s := by
  simp only [Keep, resetActions] <;> (repeat' split) <;> simp_all

@[simp] theorem finishCmd_keep (result cause : Nat) (s : State) :
    Keep (finishCmd result cause s) s := by
  simp only [Keep, finishCmd] <;> (repeat' split) <;> simp_all

@[simp] theorem freePart_keep (p : Nat) (s : State) :
    Keep (freePart p s) s := by
  simp only [Keep, freePart] <;> (repeat' split) <;> simp_all

@[simp] theorem dropRaises_keep (p : Nat) (s : State) :
    Keep (dropRaises p s) s := by
  simp only [Keep, dropRaises] <;> (repeat' split) <;> simp_all

@[simp] theorem resetEnd_keep (p cause : Nat) (s0 : State) :
    Keep (resetEnd p cause s0) s0 := by
  simp only [Keep, resetEnd] <;> (repeat' split) <;> simp_all

@[simp] theorem partReset_keep (p cause : Nat) (ends : Bool) (s : State) :
    Keep (partReset p cause ends s) s := by
  simp only [Keep, partReset] <;> (repeat' split) <;> simp_all

@[simp] theorem dieError_keep (unit addr : Nat) (s : State) :
    Keep (dieError unit addr s) s := by
  simp only [Keep, dieError] <;> (repeat' split) <;> simp_all

/-! ## Faults -/

@[simp] theorem setAttr_keep (i : Nat) (x : Attr) (s : State) :
    Keep (setAttr i x s) s := by
  simp only [Keep, setAttr] <;> (repeat' split) <;> simp_all

@[simp] theorem pushSignature_keep (r : Report) (s : State) :
    Keep (pushSignature r s) s := by
  simp only [Keep, pushSignature] <;> (repeat' split) <;> simp_all

@[simp] theorem gasp_keep (x : FaultRec) (s : State) :
    Keep (gasp x s) s := by
  simp only [Keep, gasp] <;> (repeat' split) <;> simp_all

@[simp] theorem writeRecord_keep (r : Report) (s : State) :
    Keep (writeRecord r s) s := by
  simp only [Keep, writeRecord] <;> (repeat' split) <;> simp_all

@[simp] theorem countType_keep (t : Nat) (s : State) :
    Keep (countType t s) s := by
  simp only [Keep, countType] <;> (repeat' split) <;> simp_all

@[simp] theorem produce_keep (r : Report) (s : State) :
    Keep (produce r s) s := by
  simp only [Keep, produce] <;> (repeat' split) <;> simp_all

@[simp] theorem attrRecord_keep (type i n : Nat) (s : State) :
    Keep (attrRecord type i n s) s := by
  simp only [Keep, attrRecord] <;> (repeat' split) <;> simp_all

@[simp] theorem judgeAttr_keep (i : Nat) (was : Bool × Bool) (s : State) :
    Keep (judgeAttr i was s) s := by
  simp only [Keep, judgeAttr] <;> (repeat' split) <;> simp_all

@[simp] theorem stamp_keep (i : Nat) (s : State) :
    Keep (stamp i s) s := by
  simp only [Keep, stamp] <;> (repeat' split) <;> simp_all

@[simp] theorem rejudge_pending (f : State → State) (s : State) (h : (f s).pending = s.pending) : (rejudge f s).pending = s.pending :=
  (Keep.foldl _ (fun a i => judgeAttr_keep _ _ _) _ _).1.trans h

@[simp] theorem rejudge_dbg (f : State → State) (s : State) (h : (f s).dbg = s.dbg) : (rejudge f s).dbg = s.dbg :=
  (Keep.foldl _ (fun a i => judgeAttr_keep _ _ _) _ _).2.1.trans h

@[simp] theorem rejudge_inReset (f : State → State) (s : State) (h : (f s).boot.inReset = s.boot.inReset) : (rejudge f s).boot.inReset = s.boot.inReset :=
  (Keep.foldl _ (fun a i => judgeAttr_keep _ _ _) _ _).2.2.1.trans h

@[simp] theorem rejudge_tclk (f : State → State) (s : State) (h : (f s).clk.tclk = s.clk.tclk) : (rejudge f s).clk.tclk = s.clk.tclk :=
  (Keep.foldl _ (fun a i => judgeAttr_keep _ _ _) _ _).2.2.2.trans h

@[simp] theorem suspect_keep (i : Nat) (s : State) :
    Keep (suspect i s) s := by
  simp only [Keep, suspect] <;> (repeat' split) <;> simp_all

@[simp] theorem attributeVotes_keep (r : Report) (s : State) :
    Keep (attributeVotes r s) s := by
  simp only [Keep, attributeVotes] <;> (repeat' split) <;> simp_all

@[simp] theorem faultReport_keep (r : Report) (s : State) :
    Keep (faultReport r s) s := by
  simp only [Keep, faultReport] <;> (repeat' split) <;> simp_all

@[simp] theorem fltTailWrite_keep (v : W32) (s : State) :
    Keep (fltTailWrite v s) s := by
  simp only [Keep, fltTailWrite] <;> (repeat' split) <;> simp_all

@[simp] theorem attrClear_keep (index : Nat) (s : State) :
    Keep (attrClear index s) s := by
  simp only [Keep, attrClear] <;> (repeat' split) <;> simp_all

@[simp] theorem exportPop_keep (s : State) :
    Keep (exportPop s) s := by
  simp only [Keep, exportPop] <;> (repeat' split) <;> simp_all

@[simp] theorem countError_keep (at_ : Place) (slot : Nat) (s : State) :
    Keep (countError at_ slot s) s := by
  simp only [Keep, countError] <;> (repeat' split) <;> simp_all

@[simp] theorem slotError_keep (at_ : Place) (slot : Nat) (e : Option W32) (s : State) :
    Keep (slotError at_ slot e s) s := by
  simp only [Keep, slotError] <;> (repeat' split) <;> simp_all

@[simp] theorem lockstepError_keep (at_ : Place) (slot output : Nat) (s : State) :
    Keep (lockstepError at_ slot output s) s := by
  simp only [Keep, lockstepError] <;> (repeat' split) <;> simp_all

@[simp] theorem dropNextPacket_keep (lower : Place) (down : Bool) (s : State) :
    Keep (dropNextPacket lower down s) s := by
  simp only [Keep, dropNextPacket] <;> (repeat' split) <;> simp_all

@[simp] theorem packetError_keep (lower : Place) (down : Bool) (s : State) :
    Keep (packetError lower down s) s := by
  simp only [Keep, packetError] <;> (repeat' split) <;> simp_all

@[simp] theorem reloadRetention_keep (st : Nat) (s : State) :
    Keep (reloadRetention st s) s := by
  simp only [Keep, reloadRetention] <;> (repeat' split) <;> simp_all

@[simp] theorem logMemory_keep (addr : Nat) (s : State) :
    Keep (logMemory addr s) s := by
  simp only [Keep, logMemory] <;> (repeat' split) <;> simp_all

@[simp] theorem scrub_keep (e : Option MemError) (s : State) :
    Keep (scrub e s) s := by
  simp only [Keep, scrub] <;> (repeat' split) <;> simp_all

@[simp] theorem bistRecord_keep (kind i result fails : Nat) (s : State) :
    Keep (bistRecord kind i result fails s) s := by
  simp only [Keep, bistRecord] <;> (repeat' split) <;> simp_all

@[simp] theorem bistStart_keep (kind i : Nat) (s : State) :
    Keep (bistStart kind i s) s := by
  simp only [Keep, bistStart] <;> (repeat' split) <;> simp_all

@[simp] theorem bistDone_keep (pass : Bool) (fails : Nat) (s : State) :
    Keep (bistDone pass fails s) s := by
  simp only [Keep, bistDone] <;> (repeat' split) <;> simp_all

@[simp] theorem mbFinish_keep (result : Nat) (s : State) :
    Keep (mbFinish result s) s := by
  simp only [Keep, mbFinish] <;> (repeat' split) <;> simp_all

@[simp] theorem acceptRecipe_keep (sq : Nat) (r : Recipe) (mn rn wd : Option Nat) (s : State) :
    Keep (acceptRecipe sq r mn rn wd s) s := by
  simp only [Keep, acceptRecipe] <;> (repeat' split) <;> simp_all

@[simp] theorem judgeRecipe_keep (msg : List (BitVec 8)) (s : State) :
    Keep (judgeRecipe msg s).2 s := by
  simp only [Keep, judgeRecipe] <;> (repeat' split) <;> simp_all

@[simp] theorem recipe_keep (msg : List (BitVec 8)) (s : State) :
    Keep (recipe msg s) s := by
  simp only [Keep, recipe] <;> (repeat' split) <;> simp_all

/-! ## Map -/

@[simp] theorem stageWord_keep (k : Nat) (v mask : W32) (s : State) :
    Keep (stageWord k v mask s) s := by
  simp only [Keep, stageWord] <;> (repeat' split) <;> simp_all

/-! ## Partitions -/

@[simp] theorem reject_keep (cause : Nat) (s : State) :
    Keep (reject cause s) s := by
  simp only [Keep, reject] <;> (repeat' split) <;> simp_all

@[simp] theorem cmdBusy_keep (s : State) :
    Keep (cmdBusy s) s := by
  simp only [Keep, cmdBusy] <;> (repeat' split) <;> simp_all

@[simp] theorem create_keep (p : Nat) (s : State) :
    Keep (create p s) s := by
  simp only [Keep, create] <;> (repeat' split) <;> simp_all

@[simp] theorem destroy_keep (p : Nat) (s : State) :
    Keep (destroy p s) s := by
  simp only [Keep, destroy] <;> (repeat' split) <;> simp_all

@[simp] theorem resetCmd_keep (p : Nat) (s : State) :
    Keep (resetCmd p s) s := by
  simp only [Keep, resetCmd] <;> (repeat' split) <;> simp_all

@[simp] theorem narrow_keep (p : Nat) (s : State) :
    Keep (narrow p s) s := by
  simp only [Keep, narrow] <;> (repeat' split) <;> simp_all

@[simp] theorem revoke_keep (p : Nat) (s : State) :
    Keep (revoke p s) s := by
  simp only [Keep, revoke] <;> (repeat' split) <;> simp_all

@[simp] theorem takeRequests_keep (p : Nat) (gs : List (Nat × Nat)) (s : State) :
    Keep (takeRequests p gs s).2 s := by
  simp only [Keep, takeRequests] <;> (repeat' split) <;> simp_all

@[simp] theorem takeTallies_keep (p : Nat) (gs : List (Nat × Nat)) (s : State) :
    Keep (takeTallies p gs s).2 s := by
  simp only [Keep, takeTallies] <;> (repeat' split) <;> simp_all

@[simp] theorem voidHeld_keep (gs : List (Nat × Nat)) (s : State) :
    Keep (voidHeld gs s) s := by
  simp only [Keep, voidHeld] <;> (repeat' split) <;> simp_all

@[simp] theorem doneForced_keep (p : Nat) (s : State) :
    Keep (doneForced p s) s := by
  simp only [Keep, doneForced] <;> (repeat' split) <;> simp_all

@[simp] theorem resume_keep (p : Nat) (s : State) :
    Keep (resume p s) s := by
  simp only [Keep, resume] <;> (repeat' split) <;> simp_all

@[simp] theorem putEntry_keep (p : Nat) (f : Nat → W32) (s : State) :
    Keep (putEntry p f s) s := by
  simp only [Keep, putEntry] <;> (repeat' split) <;> simp_all

@[simp] theorem putBoundary_keep (slot : Nat) (s : State) :
    Keep (putBoundary slot s) s := by
  simp only [Keep, putBoundary] <;> (repeat' split) <;> simp_all

@[simp] theorem splitOne_keep (k i : Nat) (s : State) :
    Keep (splitOne k i s) s := by
  simp only [Keep, splitOne] <;> (repeat' split) <;> simp_all

@[simp] theorem splitAll_keep (k : Nat) (s : State) :
    Keep (splitAll k s) s := by
  simp only [Keep, splitAll] <;> (repeat' split) <;> simp_all

@[simp] theorem split_keep (k : Nat) (s : State) :
    Keep (split k s) s := by
  simp only [Keep, split] <;> (repeat' split) <;> simp_all

@[simp] theorem loadShare_keep (p : Nat) (s : State) :
    Keep (loadShare p s) s := by
  simp only [Keep, loadShare] <;> (repeat' split) <;> simp_all

@[simp] theorem accountingWindow_keep (w : Window) (s : State) :
    Keep (accountingWindow w s) s := by
  simp only [Keep, accountingWindow] <;> (repeat' split) <;> simp_all

@[simp] theorem dirtyClear_keep (s : State) :
    Keep (dirtyClear s) s := by
  simp only [Keep, dirtyClear] <;> (repeat' split) <;> simp_all

/-! ## Host -/

@[simp] theorem ppErr_keep (p : Nat) (s : State) :
    Keep (ppErr p s) s := by
  simp only [Keep, ppErr] <;> (repeat' split) <;> simp_all

@[simp] theorem stopRing_keep (p q : Nat) (idx : W32) (cause op : Nat) (s : State) :
    Keep (stopRing p q idx cause op s) s := by
  simp only [Keep, stopRing] <;> (repeat' split) <;> simp_all

@[simp] theorem doorbell_keep (p q : Nat) (w : W32) (s : State) :
    Keep (doorbell p q w s) s := by
  simp only [Keep, doorbell] <;> (repeat' split) <;> simp_all

@[simp] theorem sqRestart_keep (p q : Nat) (s : State) :
    Keep (sqRestart p q s) s := by
  simp only [Keep, sqRestart] <;> (repeat' split) <;> simp_all

@[simp] theorem writeSqCtl_keep (p q : Nat) (v : W32) (s : State) :
    Keep (writeSqCtl p q v s) s := by
  simp only [Keep, writeSqCtl] <;> (repeat' split) <;> simp_all

@[simp] theorem outReset_keep (p o : Nat) (s : State) :
    Keep (outReset p o s) s := by
  simp only [Keep, outReset] <;> (repeat' split) <;> simp_all

@[simp] theorem writeOutCtl_keep (p o : Nat) (v : W32) (s : State) :
    Keep (writeOutCtl p o v s) s := by
  simp only [Keep, writeOutCtl] <;> (repeat' split) <;> simp_all

@[simp] theorem fetchOne_keep (p q : Nat) (s : State) :
    Keep (fetchOne p q s) s := by
  simp only [Keep, fetchOne] <;> (repeat' split) <;> simp_all

@[simp] theorem descriptorFetch_keep (s : State) :
    Keep (descriptorFetch s) s := by
  simp only [Keep, descriptorFetch] <;> (repeat' split) <;> simp_all

@[simp] theorem descriptorDecode_keep (x : Desc) (s : State) :
    Keep (descriptorDecode x s) s := by
  simp only [Keep, descriptorDecode] <;> (repeat' split) <;> simp_all

@[simp] theorem begin__keep (x : Desc) (s : State) :
    Keep (begin_ x s) s := by
  simp only [Keep, begin_] <;> (repeat' split) <;> simp_all

@[simp] theorem chargeRefusal_keep (p : Nat) (s : State) :
    Keep (chargeRefusal p s) s := by
  simp only [Keep, chargeRefusal] <;> (repeat' split) <;> simp_all

@[simp] theorem runDesc_pending (x : Desc) (f : DescState → State → State) (h : ∀ d a, (f d a).pending = a.pending) (s : State) :
    (runDesc x f s).pending = s.pending := by
  simp only [runDesc] <;> (repeat' split) <;> simp_all

@[simp] theorem runDesc_dbg (x : Desc) (f : DescState → State → State) (h : ∀ d a, (f d a).dbg = a.dbg) (s : State) :
    (runDesc x f s).dbg = s.dbg := by
  simp only [runDesc] <;> (repeat' split) <;> simp_all

@[simp] theorem runDesc_inReset (x : Desc) (f : DescState → State → State) (h : ∀ d a, (f d a).boot.inReset = a.boot.inReset) (s : State) :
    (runDesc x f s).boot.inReset = s.boot.inReset := by
  simp only [runDesc] <;> (repeat' split) <;> simp_all

@[simp] theorem runDesc_tclk (x : Desc) (f : DescState → State → State) (h : ∀ d a, (f d a).clk.tclk = a.clk.tclk) (s : State) :
    (runDesc x f s).clk.tclk = s.clk.tclk := by
  simp only [runDesc] <;> (repeat' split) <;> simp_all

@[simp] theorem answerRefused_keep (s : State) :
    Keep (answerRefused s) s := by
  simp only [Keep, answerRefused] <;> (repeat' split) <;> simp_all

@[simp] theorem completeOk_keep (d : DescState) (s : State) :
    Keep (completeOk d s) s := by
  simp only [Keep, completeOk] <;> (repeat' split) <;> simp_all

@[simp] theorem callHost_keep (d : DescState) (s : State) :
    Keep (callHost d s) s := by
  simp only [Keep, callHost] <;> (repeat' split) <;> simp_all

@[simp] theorem ctrlHost_keep (op : Nat) (d : DescState) (s : State) :
    Keep (ctrlHost op d s) s := by
  simp only [Keep, ctrlHost] <;> (repeat' split) <;> simp_all

@[simp] theorem runHome_keep (d : DescState) (s : State) :
    Keep (runHome d s) s := by
  simp only [Keep, runHome] <;> (repeat' split) <;> simp_all

@[simp] theorem runTally_keep (d : DescState) (s : State) :
    Keep (runTally d s) s := by
  simp only [Keep, runTally] <;> (repeat' split) <;> simp_all

@[simp] theorem stageDesc_keep (k : Nat) (v : W32) (s : State) :
    Keep (stageDesc k v s) s := by
  simp only [Keep, stageDesc] <;> (repeat' split) <;> simp_all

@[simp] theorem runStage_keep (d : DescState) (s : State) :
    Keep (runStage d s) s := by
  simp only [Keep, runStage] <;> (repeat' split) <;> simp_all

@[simp] theorem runWatch_keep (d : DescState) (s : State) :
    Keep (runWatch d s) s := by
  simp only [Keep, runWatch] <;> (repeat' split) <;> simp_all

@[simp] theorem runMark_keep (d : DescState) (s : State) :
    Keep (runMark d s) s := by
  simp only [Keep, runMark] <;> (repeat' split) <;> simp_all

@[simp] theorem startCurtain_keep (x : Desc) (s : State) :
    Keep (startCurtain x s) s := by
  simp only [Keep, startCurtain] <;> (repeat' split) <;> simp_all

@[simp] theorem runQuiesce_keep (d : DescState) (s : State) :
    Keep (runQuiesce d s) s := by
  simp only [Keep, runQuiesce] <;> (repeat' split) <;> simp_all

@[simp] theorem quiesced_keep (p : Nat) (s : State) :
    Keep (quiesced p s) s := by
  simp only [Keep, quiesced] <;> (repeat' split) <;> simp_all

@[simp] theorem dropSnap_keep (x : Desc) (s : State) :
    Keep (dropSnap x s) s := by
  simp only [Keep, dropSnap] <;> (repeat' split) <;> simp_all

@[simp] theorem dmaFault_keep (p : Nat) (k : DmaKind) (s : State) :
    Keep (dmaFault p k s) s := by
  simp only [Keep, dmaFault] <;> (repeat' split) <;> simp_all

@[simp] theorem irqTimer_keep (p : Nat) (s : State) :
    Keep (irqTimer p s) s := by
  simp only [Keep, irqTimer] <;> (repeat' split) <;> simp_all

@[simp] theorem indexWriteback_keep (p : Nat) (s : State) :
    Keep (indexWriteback p s) s := by
  simp only [Keep, indexWriteback] <;> (repeat' split) <;> simp_all

/-! ## Snapshot -/

@[simp] theorem setSnap_keep (y : SnapRun) (s : State) :
    Keep (setSnap y s) s := by
  simp only [Keep, setSnap] <;> (repeat' split) <;> simp_all

@[simp] theorem snapClear_keep (p : Nat) (src : CurtainSrc) (s : State) :
    Keep (snapClear p src s) s := by
  simp only [Keep, snapClear] <;> (repeat' split) <;> simp_all

@[simp] theorem snapFall_keep (p : Nat) (src : CurtainSrc) (s : State) :
    Keep (snapFall p src s) s := by
  simp only [Keep, snapFall] <;> (repeat' split) <;> simp_all

@[simp] theorem snapPages_keep (x : Desc) (s : State) :
    Keep (snapPages x s) s := by
  simp only [Keep, snapPages] <;> (repeat' split) <;> simp_all

@[simp] theorem snapAdvance_keep (y : SnapRun) (s : State) :
    Keep (snapAdvance y s) s := by
  simp only [Keep, snapAdvance] <;> (repeat' split) <;> simp_all

@[simp] theorem snapJoin_keep (d : DescState) (s : State) :
    Keep (snapJoin d s) s := by
  simp only [Keep, snapJoin] <;> (repeat' split) <;> simp_all

@[simp] theorem runSnapshot_keep (x : Desc) (s : State) :
    Keep (runSnapshot x s) s := by
  simp only [Keep, runSnapshot] <;> (repeat' split) <;> simp_all

@[simp] theorem flushSnap_keep (s : State) :
    Keep (flushSnap s) s := by
  simp only [Keep, flushSnap] <;> (repeat' split) <;> simp_all

@[simp] theorem hostOff_keep (s : State) :
    Keep (hostOff s) s := by
  simp only [Keep, hostOff] <;> (repeat' split) <;> simp_all

@[simp] theorem hostFlush_keep (s : State) :
    Keep (hostFlush s) s := by
  simp only [Keep, hostFlush] <;> (repeat' split) <;> simp_all

@[simp] theorem powerDown_keep (s : State) :
    Keep (powerDown s) s := by
  simp only [Keep, powerDown] <;> (repeat' split) <;> simp_all

/-! ## Boot -/

@[simp] theorem putFuseRoster_keep (logical : Nat) (s : State) :
    Keep (putFuseRoster logical s) s := by
  simp only [Keep, putFuseRoster] <;> (repeat' split) <;> simp_all

@[simp] theorem drivePins_keep (s : State) :
    Keep (drivePins s) s := by
  simp only [Keep, drivePins] <;> (repeat' split) <;> simp_all

@[simp] theorem stage0_keep (s : State) :
    Keep (stage0 s) s := by
  simp only [Keep, stage0] <;> (repeat' split) <;> simp_all

@[simp] theorem flashRead_keep (c : FlashCopy) (s : State) :
    Keep (flashRead c s) s := by
  simp only [Keep, flashRead] <;> (repeat' split) <;> simp_all

@[simp] theorem copyFails_keep (copyB : Bool) (code : Nat) (s : State) :
    Keep (copyFails copyB code s) s := by
  simp only [Keep, copyFails] <;> (repeat' split) <;> simp_all

@[simp] theorem stageGait_keep (r : BookRec) (s : State) :
    Keep (stageGait r s) s := by
  simp only [Keep, stageGait] <;> (repeat' split) <;> simp_all

@[simp] theorem stageBook_keep (c : FlashCopy) (s : State) :
    Keep (stageBook c s) s := by
  simp only [Keep, stageBook] <;> (repeat' split) <;> simp_all

@[simp] theorem judgeRecords_keep (c : FlashCopy) (s : State) :
    Keep (judgeRecords c s) s := by
  simp only [Keep, judgeRecords] <;> (repeat' split) <;> simp_all

@[simp] theorem bookCheck_keep (c : FlashCopy) (s : State) :
    Keep (bookCheck c s) s := by
  simp only [Keep, bookCheck] <;> (repeat' split) <;> simp_all

@[simp] theorem firstcue_keep (s : State) :
    Keep (firstcue s) s := by
  simp only [Keep, firstcue] <;> (repeat' split) <;> simp_all

@[simp] theorem retry_keep (s : State) :
    Keep (retry s) s := by
  simp only [Keep, retry] <;> (repeat' split) <;> simp_all

@[simp] theorem putSupplement_keep (l : List Nat) (s : State) :
    Keep (putSupplement l s) s := by
  simp only [Keep, putSupplement] <;> (repeat' split) <;> simp_all

@[simp] theorem putFieldSig_keep (x : Nat) (s : State) :
    Keep (putFieldSig x s) s := by
  simp only [Keep, putFieldSig] <;> (repeat' split) <;> simp_all

@[simp] theorem lockBits_keep (s : State) (b : W32) :
    Keep (lockBits s b) s := by
  simp only [Keep, lockBits] <;> (repeat' split) <;> simp_all

@[simp] theorem putLocked_keep (k : Nat) (v : W32) (s : State) :
    Keep (putLocked k v s) s := by
  simp only [Keep, putLocked] <;> (repeat' split) <;> simp_all

@[simp] theorem putFabric_keep (v : Bytes) (s : State) :
    Keep (putFabric v s) s := by
  simp only [Keep, putFabric] <;> (repeat' split) <;> simp_all

@[simp] theorem putRecord_keep (s : State) (r : BookRec) :
    Keep (putRecord s r) s := by
  simp only [Keep, putRecord] <;> (repeat' split) <;> simp_all

@[simp] theorem stage2Switch_keep (s : State) :
    Keep (stage2Switch s) s := by
  simp only [Keep, stage2Switch] <;> (repeat' split) <;> simp_all

/-! ## Observe -/

@[simp] theorem regRead_keep (v : W32) (f : State → State) (s : State) (hf : ∀  a, Keep (f  a) a) :
    Keep (regRead v f s) s := by
  simp only [Keep, regRead] <;> (repeat' split) <;> simp_all

-- TODO rcManager : Option (W32 × State)

-- TODO rcRead : Path → Nat → Option (W32 × State)

theorem rcManager_keep {s : State} {off : Nat} {x : W32 × (W32 → State)} (h : rcManager s off = some x) (v : W32) : Keep (x.2 v) s := by
  unfold rcManager at h
  repeat' split at h
  all_goals first
    | (injection h with h; subst h; exact Keep.refl s)
    | exact absurd h (by simp)

theorem rcRead_keep {s : State} {path : Path} {off : Nat} {x : Nat × W32 × (W32 → State)} (h : rcRead s path off = some x) (v : W32) :
    Keep (x.2.2 v) s := by
  unfold rcRead at h
  repeat' split at h
  all_goals first
    | (obtain ⟨y, hy, rfl⟩ := Option.map_eq_some_iff.mp h; exact rcManager_keep hy v)
    | (injection h with h; subst h; simp [Keep])
    | contradiction

theorem rcTake_keep {s : State} {path : Path} {off : Nat} {x : W32 × State} (h : rcTake s path off = some x) : Keep x.2 s := by
  unfold rcTake at h
  obtain ⟨y, hy, rfl⟩ := Option.map_eq_some_iff.mp h
  exact (rcTaken_keep _ _).trans (rcRead_keep hy _)

@[simp] theorem armFreeze_keep (s : State) :
    Keep (armFreeze s) s := by
  simp only [Keep, armFreeze] <;> (repeat' split) <;> simp_all

@[simp] theorem freezePart_keep (seq : BitVec 8) (p : Nat) (s : State) :
    Keep (freezePart seq p s) s := by
  simp only [Keep, freezePart] <;> (repeat' split) <;> simp_all

@[simp] theorem freeze_keep (timed : Bool) (s : State) :
    Keep (freeze timed s) s := by
  simp only [Keep, freeze] <;> (repeat' split) <;> simp_all

@[simp] theorem freezeEnd_keep (s : State) :
    Keep (freezeEnd s) s := by
  simp only [Keep, freezeEnd] <;> (repeat' split) <;> simp_all

@[simp] theorem windowEnd_keep (s : State) :
    Keep (windowEnd s) s := by
  simp only [Keep, windowEnd] <;> (repeat' split) <;> simp_all

@[simp] theorem dropPhaseEnd_keep (s : State) :
    Keep (dropPhaseEnd s) s := by
  simp only [Keep, dropPhaseEnd] <;> (repeat' split) <;> simp_all

@[simp] theorem traceOut_keep (s : State) :
    Keep (traceOut s) s := by
  simp only [Keep, traceOut] <;> (repeat' split) <;> simp_all

@[simp] theorem pcSample_keep (st : Nat) (pc : BitVec 24) (own : BitVec 4) (s : State) :
    Keep (pcSample st pc own s) s := by
  simp only [Keep, pcSample] <;> (repeat' split) <;> simp_all

@[simp] theorem wpOwnerWrite_keep (w : Nat) (v : W32) (s : State) :
    Keep (wpOwnerWrite w v s) s := by
  simp only [Keep, wpOwnerWrite] <;> (repeat' split) <;> simp_all

/-! ## Regs -/

@[simp] theorem badRead_keep (path : Path) (off : Nat) (s : State) :
    Keep (badRead path off s) s := by
  simp only [Keep, badRead] <;> (repeat' split) <;> simp_all

/-! ## Writes -/

@[simp] theorem writeWord_keep (off k : Nat) (v : W32) (s : State) :
    Keep (writeWord off k v s) s := by
  simp only [Keep, writeWord] <;> (repeat' split) <;> simp_all

@[simp] theorem writeFields_keep (k : Nat) (v : W32) (s : State) :
    Keep (writeFields k v s) s := by
  simp only [Keep, writeFields] <;> (repeat' split) <;> simp_all

@[simp] theorem lockWrite_keep (v : W32) (s : State) :
    Keep (lockWrite v s) s := by
  simp only [Keep, lockWrite] <;> (repeat' split) <;> simp_all

@[simp] theorem hcSeedWrite_keep (hi : W32) (s : State) :
    Keep (hcSeedWrite hi s) s := by
  simp only [Keep, hcSeedWrite] <;> (repeat' split) <;> simp_all

@[simp] theorem hcCtlWrite_keep (v : W32) (s : State) :
    Keep (hcCtlWrite v s) s := by
  simp only [Keep, hcCtlWrite] <;> (repeat' split) <;> simp_all

@[simp] theorem rosterStage_keep (st : Nat) (v : W32) (s : State) :
    Keep (rosterStage st v s) s := by
  simp only [Keep, rosterStage] <;> (repeat' split) <;> simp_all

@[simp] theorem thawWrite_keep (v : W32) (s : State) :
    Keep (thawWrite v s) s := by
  simp only [Keep, thawWrite] <;> (repeat' split) <;> simp_all

@[simp] theorem setupRequest_keep (tok : Bool) (i : Nat) (op : BitVec 5) (v : W32) (s : State) :
    Keep (setupRequest tok i op v s) s := by
  simp only [Keep, setupRequest] <;> (repeat' split) <;> simp_all

@[simp] theorem objSelWrite_keep (v : W32) (s : State) :
    Keep (objSelWrite v s) s := by
  simp only [Keep, objSelWrite] <;> (repeat' split) <;> simp_all

@[simp] theorem objValueWrite_keep (v : W32) (s : State) :
    Keep (objValueWrite v s) s := by
  simp only [Keep, objValueWrite] <;> (repeat' split) <;> simp_all

@[simp] theorem objCfgWrite_keep (v : W32) (s : State) :
    Keep (objCfgWrite v s) s := by
  simp only [Keep, objCfgWrite] <;> (repeat' split) <;> simp_all

@[simp] theorem objBusyClear_keep (value cfg : W32) (waiters : Nat) (s : State) :
    Keep (objBusyClear value cfg waiters s) s := by
  simp only [Keep, objBusyClear] <;> (repeat' split) <;> simp_all

@[simp] theorem partCmdWrite_keep (v : W32) (s : State) :
    Keep (partCmdWrite v s) s := by
  simp only [Keep, partCmdWrite] <;> (repeat' split) <;> simp_all

@[simp] theorem updDirty_keep (f : Dirty → Dirty) (s : State) :
    Keep (updDirty f s) s := by
  simp only [Keep, updDirty] <;> (repeat' split) <;> simp_all

@[simp] theorem dirtyCtlWrite_keep (v : W32) (s : State) :
    Keep (dirtyCtlWrite v s) s := by
  simp only [Keep, dirtyCtlWrite] <;> (repeat' split) <;> simp_all

@[simp] theorem curCtlWrite_keep (v : W32) (s : State) :
    Keep (curCtlWrite v s) s := by
  simp only [Keep, curCtlWrite] <;> (repeat' split) <;> simp_all

@[simp] theorem mailboxRun_keep (n : Nat) (c : Instr) (s : State) :
    Keep (mailboxRun n c s) s := by
  simp only [Keep, mailboxRun] <;> (repeat' split) <;> simp_all

@[simp] theorem mailboxGo_keep (s : State) :
    Keep (mailboxGo s) s := by
  simp only [Keep, mailboxGo] <;> (repeat' split) <;> simp_all

@[simp] theorem mailboxCmdWrite_keep (v : W32) (s : State) :
    Keep (mailboxCmdWrite v s) s := by
  simp only [Keep, mailboxCmdWrite] <;> (repeat' split) <;> simp_all

@[simp] theorem messageWrite_keep (o : Nat) (v : W32) (s : State) :
    Keep (messageWrite o v s) s := by
  simp only [Keep, messageWrite] <;> (repeat' split) <;> simp_all

@[simp] theorem wpCtlWrite_keep (k : Nat) (v : W32) (s : State) :
    Keep (wpCtlWrite k v s) s := by
  simp only [Keep, wpCtlWrite] <;> (repeat' split) <;> simp_all

@[simp] theorem peerWrite_keep (o : Nat) (v : W32) (s : State) :
    Keep (peerWrite o v s) s := by
  simp only [Keep, peerWrite] <;> (repeat' split) <;> simp_all

@[simp] theorem clearPpErr_keep (v : W64) (s : State) :
    Keep (clearPpErr v s) s := by
  simp only [Keep, clearPpErr] <;> (repeat' split) <;> simp_all

@[simp] theorem writeMailbox_keep (o : Nat) (v : W32) (s : State) :
    Keep (writeMailbox o v s) s := by
  simp only [Keep, writeMailbox] <;> (repeat' split) <;> simp_all

@[simp] theorem ringBaseWrite_keep (p ctl o : Nat) (v : W32) (s : State) :
    Keep (ringBaseWrite p ctl o v s) s := by
  simp only [Keep, ringBaseWrite] <;> (repeat' split) <;> simp_all

@[simp] theorem writeRing_keep (p q o : Nat) (v : W32) (s : State) :
    Keep (writeRing p q o v s) s := by
  simp only [Keep, writeRing] <;> (repeat' split) <;> simp_all

@[simp] theorem writePage_keep (p o : Nat) (v : W32) (s : State) :
    Keep (writePage p o v s) s := by
  simp only [Keep, writePage] <;> (repeat' split) <;> simp_all

@[simp] theorem writeTile_keep (st o : Nat) (v : W32) (s : State) :
    Keep (writeTile st o v s) s := by
  simp only [Keep, writeTile] <;> (repeat' split) <;> simp_all

@[simp] theorem eachWord_pending (f : Nat → W32 → State → State) (off size : Nat) (v : W64) (h : ∀ o w a, (f o w a).pending = a.pending) (s : State) :
    (eachWord f off size v s).pending = s.pending := by
  simp only [eachWord] <;> (repeat' split) <;> simp_all

@[simp] theorem eachWord_dbg (f : Nat → W32 → State → State) (off size : Nat) (v : W64) (h : ∀ o w a, (f o w a).dbg = a.dbg) (s : State) :
    (eachWord f off size v s).dbg = s.dbg := by
  simp only [eachWord] <;> (repeat' split) <;> simp_all

@[simp] theorem eachWord_inReset (f : Nat → W32 → State → State) (off size : Nat) (v : W64) (h : ∀ o w a, (f o w a).boot.inReset = a.boot.inReset) (s : State) :
    (eachWord f off size v s).boot.inReset = s.boot.inReset := by
  simp only [eachWord] <;> (repeat' split) <;> simp_all

@[simp] theorem eachWord_tclk (f : Nat → W32 → State → State) (off size : Nat) (v : W64) (h : ∀ o w a, (f o w a).clk.tclk = a.clk.tclk) (s : State) :
    (eachWord f off size v s).clk.tclk = s.clk.tclk := by
  simp only [eachWord] <;> (repeat' split) <;> simp_all

/-! ## Tick -/

@[simp] theorem startNext_keep (s : State) :
    Keep (startNext s).2 s := by
  simp only [Keep, startNext] <;> (repeat' split) <;> simp_all

@[simp] theorem eclkWork_keep (s : State) :
    Keep (eclkWork s).2 s := by
  simp only [Keep, eclkWork] <;> (repeat' split) <;> simp_all

@[simp] theorem settleStirrups_keep (s : State) :
    Keep (settleStirrups s) s := by
  simp only [Keep, settleStirrups] <;> (repeat' split) <;> simp_all

@[simp] theorem countWaves_keep (s : State) :
    Keep (countWaves s) s := by
  simp only [Keep, countWaves] <;> (repeat' split) <;> simp_all

@[simp] theorem wakeLines_keep (s : State) :
    Keep (wakeLines s) s := by
  simp only [Keep, wakeLines] <;> (repeat' split) <;> simp_all

@[simp] theorem drive_keep (s : State) :
    Keep (drive s) s := by
  simp only [Keep, drive] <;> (repeat' split) <;> simp_all

@[simp] theorem endTclk_keep (s : State) :
    Keep (endTclk s) s := by
  simp only [Keep, endTclk] <;> (repeat' split) <;> simp_all

@[simp] theorem frameTurn_keep (s : State) :
    Keep (frameTurn s) s := by
  simp only [Keep, frameTurn] <;> (repeat' split) <;> simp_all

@[simp] theorem tugMissed_keep (s : State) :
    Keep (tugMissed s) s := by
  simp only [Keep, tugMissed] <;> (repeat' split) <;> simp_all

@[simp] theorem nextEdge_pending (s : State) : (nextEdge s).pending = s.pending := by simp [nextEdge]

@[simp] theorem nextEdge_dbg (s : State) : (nextEdge s).dbg = s.dbg := by simp [nextEdge]

@[simp] theorem nextEdge_inReset (s : State) : (nextEdge s).boot.inReset = s.boot.inReset := by simp [nextEdge]

@[simp] theorem frameEdge_keep (before s : State) : Keep (frameEdge before s) s := by
  simp only [Keep, frameEdge] <;> (repeat' split) <;> simp_all

@[simp] theorem gapFrame_keep (s : State) :
    Keep (gapFrame s) s := by
  simp only [Keep, gapFrame] <;> (repeat' split) <;> simp_all

/-! ## The writes of the manager window, which may end an authorisation (R251) -/

/-- As `Keep`, but a debug authorisation may have ended. -/
def KeepAuth (t s : State) : Prop :=
  t.pending = s.pending ∧ t.dbg.disabled = s.dbg.disabled ∧ t.boot.inReset = s.boot.inReset
    ∧ (t.dbg.auth = s.dbg.auth ∨ t.dbg.auth = 0#2)

theorem Keep.toAuth {t s : State} (h : Keep t s) : KeepAuth t s := by
  obtain ⟨a, b, c, -⟩ := h
  exact ⟨a, by rw [b], c, .inl (by rw [b])⟩

theorem KeepAuth.trans {u t s : State} (h : KeepAuth u t) (g : KeepAuth t s) : KeepAuth u s := by
  obtain ⟨a, b, c, d⟩ := h
  obtain ⟨a', b', c', d'⟩ := g
  refine ⟨a.trans a', b.trans b', c.trans c', ?_⟩
  rcases d with d | d
  · rcases d' with e | e
    · exact .inl (d.trans e)
    · exact .inr (d.trans e)
  · exact .inr d

theorem endAuth_keepAuth (s : State) : KeepAuth (endAuth s) s := ⟨rfl, rfl, rfl, .inr rfl⟩

theorem writeManager_keepAuth (o : Nat) (v : W32) (s : State) : KeepAuth (writeManager o v s) s := by
  unfold writeManager
  repeat' split
  all_goals first | exact endAuth_keepAuth _ | exact Keep.toAuth (by simp [Keep])

theorem writeMgmt_keepAuth (o : Nat) (v : W32) (s : State) : KeepAuth (writeMgmt o v s) s := by
  unfold writeMgmt
  split
  · exact writeManager_keepAuth _ _ _
  · exact Keep.toAuth (by simp [Keep])

theorem eachWord_keepAuth (f : Nat → W32 → State → State) (h : ∀ o w a, KeepAuth (f o w a) a) (off size : Nat) (v : W64)
    (s : State) : KeepAuth (eachWord f off size v s) s := by
  unfold eachWord
  split
  · exact (h _ _ _).trans (h _ _ _)
  · exact h _ _ _

theorem regWrite_keepAuth (f : State → State) (h : ∀ a, KeepAuth (f a) a) (s : State) : KeepAuth (regWrite f s) s := by
  unfold regWrite
  split
  · exact Keep.toAuth (by simp [Keep])
  · exact h _

theorem registerWrite_keepAuth (path : Path) (off size : Nat) (v : W64) (s : State) :
    KeepAuth (registerWrite path off size v s) s := by
  unfold registerWrite
  split
  · split <;> exact Keep.toAuth (by simp [Keep])
  · refine regWrite_keepAuth _ (fun a => ?_) s
    split
    · exact eachWord_keepAuth _ writeManager_keepAuth _ _ _ _
    · exact Keep.toAuth (by simp [Keep])
  · refine regWrite_keepAuth _ (fun a => ?_) s
    split
    · exact eachWord_keepAuth _ writeMgmt_keepAuth _ _ _ _
    · exact Keep.toAuth (by simp [Keep])
  · refine regWrite_keepAuth _ (fun a => ?_) s
    split
    · exact Keep.toAuth (by simp [Keep])
    · exact Keep.toAuth (by simp [Keep])

theorem nonceRead_keepAuth (s : State) : KeepAuth (nonceRead s) s := ⟨rfl, rfl, rfl, .inl rfl⟩

theorem readStep_keepAuth (path : Path) (o : Nat) (s : State) : KeepAuth (readStep path o s).2 s := by
  unfold readStep
  split
  · next h => exact Keep.toAuth (rcTake_keep h)
  · dsimp only
    repeat' split
    all_goals first | exact nonceRead_keepAuth _ | exact Keep.toAuth (by simp [Keep])

theorem readWords_keepAuth (path : Path) (off size : Nat) (s : State) : KeepAuth (readWords path off size s) s := by
  unfold readWords
  dsimp only
  split
  · exact (Keep.toAuth (present_keep _ _)).trans ((readStep_keepAuth _ _ _).trans (readStep_keepAuth _ _ _))
  · exact (Keep.toAuth (present_keep _ _)).trans (readStep_keepAuth _ _ _)

theorem registerRead_keepAuth (path : Path) (off size : Nat) (s : State) : KeepAuth (registerRead path off size s) s := by
  unfold registerRead
  repeat' split
  all_goals first | exact readWords_keepAuth _ _ _ _ | exact Keep.toAuth (by simp [Keep])

/-! ## The clock edges: the queue grows, the rest is kept -/

@[simp] theorem takeDue_dbg (l : List Instr) (s : State) : (takeDue l s).dbg = s.dbg := by simp [takeDue]
@[simp] theorem takeDue_inReset (l : List Instr) (s : State) : (takeDue l s).boot.inReset = s.boot.inReset := by simp [takeDue]
@[simp] theorem eclkEdge_dbg (s : State) : (eclkEdge s).dbg = s.dbg := by simp [eclkEdge]
@[simp] theorem eclkEdge_inReset (s : State) : (eclkEdge s).boot.inReset = s.boot.inReset := by simp [eclkEdge]
@[simp] theorem mclkEdge_dbg (s : State) : (mclkEdge s).dbg = s.dbg := by simp [mclkEdge]
@[simp] theorem mclkEdge_inReset (s : State) : (mclkEdge s).boot.inReset = s.boot.inReset := by simp [mclkEdge]
@[simp] theorem tclkEdge_dbg (s : State) : (tclkEdge s).dbg = s.dbg := by simp [tclkEdge]
@[simp] theorem tclkEdge_inReset (s : State) : (tclkEdge s).boot.inReset = s.boot.inReset := by simp [tclkEdge]
@[simp] theorem tick_dbg (s : State) : (tick s).dbg = s.dbg := by unfold tick; repeat' split <;> simp
@[simp] theorem tick_inReset (s : State) : (tick s).boot.inReset = s.boot.inReset := by unfold tick; repeat' split <;> simp

end Sys2Proof.Machine
end

