-- ==== Sys2Proof/Laws/State.lean ====
section
/-! SUPPORT. What each update of the state leaves in each field. -/

namespace Sys2Proof.Machine

section setReg
variable (key : Nat) (v : W32) (s : State)

@[simp] theorem setReg_clk : (setReg key v s).clk = s.clk := rfl
@[simp] theorem setReg_house : (setReg key v s).house = s.house := rfl
@[simp] theorem setReg_force : (setReg key v s).force = Tbl.set (resetWord key) key v s.force := rfl
@[simp] theorem setReg_staged : (setReg key v s).staged = s.staged := rfl
@[simp] theorem setReg_su : (setReg key v s).su = s.su := rfl
@[simp] theorem setReg_stirs : (setReg key v s).stirs = s.stirs := rfl
@[simp] theorem setReg_tree : (setReg key v s).tree = s.tree := rfl
@[simp] theorem setReg_agenda : (setReg key v s).agenda = s.agenda := rfl
@[simp] theorem setReg_home : (setReg key v s).home = s.home := rfl
@[simp] theorem setReg_objs : (setReg key v s).objs = s.objs := rfl
@[simp] theorem setReg_waiters : (setReg key v s).waiters = s.waiters := rfl
@[simp] theorem setReg_journals : (setReg key v s).journals = s.journals := rfl
@[simp] theorem setReg_tly : (setReg key v s).tly = s.tly := rfl
@[simp] theorem setReg_parts : (setReg key v s).parts = s.parts := rfl
@[simp] theorem setReg_cur : (setReg key v s).cur = s.cur := rfl
@[simp] theorem setReg_flt : (setReg key v s).flt = s.flt := rfl
@[simp] theorem setReg_pwr : (setReg key v s).pwr = s.pwr := rfl
@[simp] theorem setReg_bist : (setReg key v s).bist = s.bist := rfl
@[simp] theorem setReg_fab : (setReg key v s).fab = s.fab := rfl
@[simp] theorem setReg_page : (setReg key v s).page = s.page := rfl
@[simp] theorem setReg_hq : (setReg key v s).hq = s.hq := rfl
@[simp] theorem setReg_obs : (setReg key v s).obs = s.obs := rfl
@[simp] theorem setReg_boot : (setReg key v s).boot = s.boot := rfl
@[simp] theorem setReg_dbg : (setReg key v s).dbg = s.dbg := rfl
@[simp] theorem setReg_out : (setReg key v s).out = s.out := rfl
@[simp] theorem setReg_cyc : (setReg key v s).cyc = s.cyc := rfl
@[simp] theorem setReg_free : (setReg key v s).free = s.free := rfl
@[simp] theorem setReg_pending : (setReg key v s).pending = s.pending := rfl

end setReg

section setPage
variable (p o : Nat) (v : W32) (s : State)

@[simp] theorem setPage_clk : (setPage p o v s).clk = s.clk := rfl
@[simp] theorem setPage_house : (setPage p o v s).house = s.house := rfl
@[simp] theorem setPage_force : (setPage p o v s).force = s.force := rfl
@[simp] theorem setPage_staged : (setPage p o v s).staged = s.staged := rfl
@[simp] theorem setPage_su : (setPage p o v s).su = s.su := rfl
@[simp] theorem setPage_stirs : (setPage p o v s).stirs = s.stirs := rfl
@[simp] theorem setPage_tree : (setPage p o v s).tree = s.tree := rfl
@[simp] theorem setPage_agenda : (setPage p o v s).agenda = s.agenda := rfl
@[simp] theorem setPage_home : (setPage p o v s).home = s.home := rfl
@[simp] theorem setPage_objs : (setPage p o v s).objs = s.objs := rfl
@[simp] theorem setPage_waiters : (setPage p o v s).waiters = s.waiters := rfl
@[simp] theorem setPage_journals : (setPage p o v s).journals = s.journals := rfl
@[simp] theorem setPage_tly : (setPage p o v s).tly = s.tly := rfl
@[simp] theorem setPage_parts : (setPage p o v s).parts = s.parts := rfl
@[simp] theorem setPage_cur : (setPage p o v s).cur = s.cur := rfl
@[simp] theorem setPage_flt : (setPage p o v s).flt = s.flt := rfl
@[simp] theorem setPage_pwr : (setPage p o v s).pwr = s.pwr := rfl
@[simp] theorem setPage_bist : (setPage p o v s).bist = s.bist := rfl
@[simp] theorem setPage_fab : (setPage p o v s).fab = s.fab := rfl
@[simp] theorem setPage_page : (setPage p o v s).page = Tbl.set (pageReset (pageKey p o)) (pageKey p o) v s.page := rfl
@[simp] theorem setPage_hq : (setPage p o v s).hq = s.hq := rfl
@[simp] theorem setPage_obs : (setPage p o v s).obs = s.obs := rfl
@[simp] theorem setPage_boot : (setPage p o v s).boot = s.boot := rfl
@[simp] theorem setPage_dbg : (setPage p o v s).dbg = s.dbg := rfl
@[simp] theorem setPage_out : (setPage p o v s).out = s.out := rfl
@[simp] theorem setPage_cyc : (setPage p o v s).cyc = s.cyc := rfl
@[simp] theorem setPage_free : (setPage p o v s).free = s.free := rfl
@[simp] theorem setPage_pending : (setPage p o v s).pending = s.pending := rfl

end setPage

section setStir
variable (i : Nat) (x : Stirrup) (s : State)

@[simp] theorem setStir_clk : (setStir i x s).clk = s.clk := rfl
@[simp] theorem setStir_house : (setStir i x s).house = s.house := rfl
@[simp] theorem setStir_force : (setStir i x s).force = s.force := rfl
@[simp] theorem setStir_staged : (setStir i x s).staged = s.staged := rfl
@[simp] theorem setStir_su : (setStir i x s).su = s.su := rfl
@[simp] theorem setStir_stirs : (setStir i x s).stirs = Tbl.set Stirrup.initial i x s.stirs := rfl
@[simp] theorem setStir_tree : (setStir i x s).tree = s.tree := rfl
@[simp] theorem setStir_agenda : (setStir i x s).agenda = s.agenda := rfl
@[simp] theorem setStir_home : (setStir i x s).home = s.home := rfl
@[simp] theorem setStir_objs : (setStir i x s).objs = s.objs := rfl
@[simp] theorem setStir_waiters : (setStir i x s).waiters = s.waiters := rfl
@[simp] theorem setStir_journals : (setStir i x s).journals = s.journals := rfl
@[simp] theorem setStir_tly : (setStir i x s).tly = s.tly := rfl
@[simp] theorem setStir_parts : (setStir i x s).parts = s.parts := rfl
@[simp] theorem setStir_cur : (setStir i x s).cur = s.cur := rfl
@[simp] theorem setStir_flt : (setStir i x s).flt = s.flt := rfl
@[simp] theorem setStir_pwr : (setStir i x s).pwr = s.pwr := rfl
@[simp] theorem setStir_bist : (setStir i x s).bist = s.bist := rfl
@[simp] theorem setStir_fab : (setStir i x s).fab = s.fab := rfl
@[simp] theorem setStir_page : (setStir i x s).page = s.page := rfl
@[simp] theorem setStir_hq : (setStir i x s).hq = s.hq := rfl
@[simp] theorem setStir_obs : (setStir i x s).obs = s.obs := rfl
@[simp] theorem setStir_boot : (setStir i x s).boot = s.boot := rfl
@[simp] theorem setStir_dbg : (setStir i x s).dbg = s.dbg := rfl
@[simp] theorem setStir_out : (setStir i x s).out = s.out := rfl
@[simp] theorem setStir_cyc : (setStir i x s).cyc = s.cyc := rfl
@[simp] theorem setStir_free : (setStir i x s).free = s.free := rfl
@[simp] theorem setStir_pending : (setStir i x s).pending = s.pending := rfl

end setStir

section setNode
variable (at_ : Place) (slot : Nat) (x : NodeSlot) (s : State)

@[simp] theorem setNode_clk : (setNode at_ slot x s).clk = s.clk := rfl
@[simp] theorem setNode_house : (setNode at_ slot x s).house = s.house := rfl
@[simp] theorem setNode_force : (setNode at_ slot x s).force = s.force := rfl
@[simp] theorem setNode_staged : (setNode at_ slot x s).staged = s.staged := rfl
@[simp] theorem setNode_su : (setNode at_ slot x s).su = s.su := rfl
@[simp] theorem setNode_stirs : (setNode at_ slot x s).stirs = s.stirs := rfl
@[simp] theorem setNode_tree : (setNode at_ slot x s).tree = { s.tree with nodes := Tbl.set NodeSlot.none (nodeKey at_ slot) x s.tree.nodes } := rfl
@[simp] theorem setNode_agenda : (setNode at_ slot x s).agenda = s.agenda := rfl
@[simp] theorem setNode_home : (setNode at_ slot x s).home = s.home := rfl
@[simp] theorem setNode_objs : (setNode at_ slot x s).objs = s.objs := rfl
@[simp] theorem setNode_waiters : (setNode at_ slot x s).waiters = s.waiters := rfl
@[simp] theorem setNode_journals : (setNode at_ slot x s).journals = s.journals := rfl
@[simp] theorem setNode_tly : (setNode at_ slot x s).tly = s.tly := rfl
@[simp] theorem setNode_parts : (setNode at_ slot x s).parts = s.parts := rfl
@[simp] theorem setNode_cur : (setNode at_ slot x s).cur = s.cur := rfl
@[simp] theorem setNode_flt : (setNode at_ slot x s).flt = s.flt := rfl
@[simp] theorem setNode_pwr : (setNode at_ slot x s).pwr = s.pwr := rfl
@[simp] theorem setNode_bist : (setNode at_ slot x s).bist = s.bist := rfl
@[simp] theorem setNode_fab : (setNode at_ slot x s).fab = s.fab := rfl
@[simp] theorem setNode_page : (setNode at_ slot x s).page = s.page := rfl
@[simp] theorem setNode_hq : (setNode at_ slot x s).hq = s.hq := rfl
@[simp] theorem setNode_obs : (setNode at_ slot x s).obs = s.obs := rfl
@[simp] theorem setNode_boot : (setNode at_ slot x s).boot = s.boot := rfl
@[simp] theorem setNode_dbg : (setNode at_ slot x s).dbg = s.dbg := rfl
@[simp] theorem setNode_out : (setNode at_ slot x s).out = s.out := rfl
@[simp] theorem setNode_cyc : (setNode at_ slot x s).cyc = s.cyc := rfl
@[simp] theorem setNode_free : (setNode at_ slot x s).free = s.free := rfl
@[simp] theorem setNode_pending : (setNode at_ slot x s).pending = s.pending := rfl

end setNode

section setEpoch
variable (slot : Nat) (e : W32) (s : State)

@[simp] theorem setEpoch_clk : (setEpoch slot e s).clk = s.clk := rfl
@[simp] theorem setEpoch_house : (setEpoch slot e s).house = s.house := rfl
@[simp] theorem setEpoch_force : (setEpoch slot e s).force = s.force := rfl
@[simp] theorem setEpoch_staged : (setEpoch slot e s).staged = s.staged := rfl
@[simp] theorem setEpoch_su : (setEpoch slot e s).su = s.su := rfl
@[simp] theorem setEpoch_stirs : (setEpoch slot e s).stirs = s.stirs := rfl
@[simp] theorem setEpoch_tree : (setEpoch slot e s).tree = { s.tree with epochs := Tbl.set 0#32 slot e s.tree.epochs } := rfl
@[simp] theorem setEpoch_agenda : (setEpoch slot e s).agenda = s.agenda := rfl
@[simp] theorem setEpoch_home : (setEpoch slot e s).home = s.home := rfl
@[simp] theorem setEpoch_objs : (setEpoch slot e s).objs = s.objs := rfl
@[simp] theorem setEpoch_waiters : (setEpoch slot e s).waiters = s.waiters := rfl
@[simp] theorem setEpoch_journals : (setEpoch slot e s).journals = s.journals := rfl
@[simp] theorem setEpoch_tly : (setEpoch slot e s).tly = s.tly := rfl
@[simp] theorem setEpoch_parts : (setEpoch slot e s).parts = s.parts := rfl
@[simp] theorem setEpoch_cur : (setEpoch slot e s).cur = s.cur := rfl
@[simp] theorem setEpoch_flt : (setEpoch slot e s).flt = s.flt := rfl
@[simp] theorem setEpoch_pwr : (setEpoch slot e s).pwr = s.pwr := rfl
@[simp] theorem setEpoch_bist : (setEpoch slot e s).bist = s.bist := rfl
@[simp] theorem setEpoch_fab : (setEpoch slot e s).fab = s.fab := rfl
@[simp] theorem setEpoch_page : (setEpoch slot e s).page = s.page := rfl
@[simp] theorem setEpoch_hq : (setEpoch slot e s).hq = s.hq := rfl
@[simp] theorem setEpoch_obs : (setEpoch slot e s).obs = s.obs := rfl
@[simp] theorem setEpoch_boot : (setEpoch slot e s).boot = s.boot := rfl
@[simp] theorem setEpoch_dbg : (setEpoch slot e s).dbg = s.dbg := rfl
@[simp] theorem setEpoch_out : (setEpoch slot e s).out = s.out := rfl
@[simp] theorem setEpoch_cyc : (setEpoch slot e s).cyc = s.cyc := rfl
@[simp] theorem setEpoch_free : (setEpoch slot e s).free = s.free := rfl
@[simp] theorem setEpoch_pending : (setEpoch slot e s).pending = s.pending := rfl

end setEpoch

section setObj
variable (tok : Bool) (i : Nat) (x : Obj) (s : State)

@[simp] theorem setObj_clk : (setObj tok i x s).clk = s.clk := rfl
@[simp] theorem setObj_house : (setObj tok i x s).house = s.house := rfl
@[simp] theorem setObj_force : (setObj tok i x s).force = s.force := rfl
@[simp] theorem setObj_staged : (setObj tok i x s).staged = s.staged := rfl
@[simp] theorem setObj_su : (setObj tok i x s).su = s.su := rfl
@[simp] theorem setObj_stirs : (setObj tok i x s).stirs = s.stirs := rfl
@[simp] theorem setObj_tree : (setObj tok i x s).tree = s.tree := rfl
@[simp] theorem setObj_agenda : (setObj tok i x s).agenda = s.agenda := rfl
@[simp] theorem setObj_home : (setObj tok i x s).home = s.home := rfl
@[simp] theorem setObj_objs : (setObj tok i x s).objs = Tbl.set Obj.none (objIx tok i) x s.objs := rfl
@[simp] theorem setObj_waiters : (setObj tok i x s).waiters = s.waiters := rfl
@[simp] theorem setObj_journals : (setObj tok i x s).journals = s.journals := rfl
@[simp] theorem setObj_tly : (setObj tok i x s).tly = s.tly := rfl
@[simp] theorem setObj_parts : (setObj tok i x s).parts = s.parts := rfl
@[simp] theorem setObj_cur : (setObj tok i x s).cur = s.cur := rfl
@[simp] theorem setObj_flt : (setObj tok i x s).flt = s.flt := rfl
@[simp] theorem setObj_pwr : (setObj tok i x s).pwr = s.pwr := rfl
@[simp] theorem setObj_bist : (setObj tok i x s).bist = s.bist := rfl
@[simp] theorem setObj_fab : (setObj tok i x s).fab = s.fab := rfl
@[simp] theorem setObj_page : (setObj tok i x s).page = s.page := rfl
@[simp] theorem setObj_hq : (setObj tok i x s).hq = s.hq := rfl
@[simp] theorem setObj_obs : (setObj tok i x s).obs = s.obs := rfl
@[simp] theorem setObj_boot : (setObj tok i x s).boot = s.boot := rfl
@[simp] theorem setObj_dbg : (setObj tok i x s).dbg = s.dbg := rfl
@[simp] theorem setObj_out : (setObj tok i x s).out = s.out := rfl
@[simp] theorem setObj_cyc : (setObj tok i x s).cyc = s.cyc := rfl
@[simp] theorem setObj_free : (setObj tok i x s).free = s.free := rfl
@[simp] theorem setObj_pending : (setObj tok i x s).pending = s.pending := rfl

end setObj

section setPart
variable (p : Nat) (x : Part) (s : State)

@[simp] theorem setPart_clk : (setPart p x s).clk = s.clk := rfl
@[simp] theorem setPart_house : (setPart p x s).house = s.house := rfl
@[simp] theorem setPart_force : (setPart p x s).force = s.force := rfl
@[simp] theorem setPart_staged : (setPart p x s).staged = s.staged := rfl
@[simp] theorem setPart_su : (setPart p x s).su = s.su := rfl
@[simp] theorem setPart_stirs : (setPart p x s).stirs = s.stirs := rfl
@[simp] theorem setPart_tree : (setPart p x s).tree = s.tree := rfl
@[simp] theorem setPart_agenda : (setPart p x s).agenda = s.agenda := rfl
@[simp] theorem setPart_home : (setPart p x s).home = s.home := rfl
@[simp] theorem setPart_objs : (setPart p x s).objs = s.objs := rfl
@[simp] theorem setPart_waiters : (setPart p x s).waiters = s.waiters := rfl
@[simp] theorem setPart_journals : (setPart p x s).journals = s.journals := rfl
@[simp] theorem setPart_tly : (setPart p x s).tly = s.tly := rfl
@[simp] theorem setPart_parts : (setPart p x s).parts = Tbl.set partFree p x s.parts := rfl
@[simp] theorem setPart_cur : (setPart p x s).cur = s.cur := rfl
@[simp] theorem setPart_flt : (setPart p x s).flt = s.flt := rfl
@[simp] theorem setPart_pwr : (setPart p x s).pwr = s.pwr := rfl
@[simp] theorem setPart_bist : (setPart p x s).bist = s.bist := rfl
@[simp] theorem setPart_fab : (setPart p x s).fab = s.fab := rfl
@[simp] theorem setPart_page : (setPart p x s).page = s.page := rfl
@[simp] theorem setPart_hq : (setPart p x s).hq = s.hq := rfl
@[simp] theorem setPart_obs : (setPart p x s).obs = s.obs := rfl
@[simp] theorem setPart_boot : (setPart p x s).boot = s.boot := rfl
@[simp] theorem setPart_dbg : (setPart p x s).dbg = s.dbg := rfl
@[simp] theorem setPart_out : (setPart p x s).out = s.out := rfl
@[simp] theorem setPart_cyc : (setPart p x s).cyc = s.cyc := rfl
@[simp] theorem setPart_free : (setPart p x s).free = s.free := rfl
@[simp] theorem setPart_pending : (setPart p x s).pending = s.pending := rfl

end setPart

section setTally
variable (i : Nat) (x : Tally) (s : State)

@[simp] theorem setTally_clk : (setTally i x s).clk = s.clk := rfl
@[simp] theorem setTally_house : (setTally i x s).house = s.house := rfl
@[simp] theorem setTally_force : (setTally i x s).force = s.force := rfl
@[simp] theorem setTally_staged : (setTally i x s).staged = s.staged := rfl
@[simp] theorem setTally_su : (setTally i x s).su = s.su := rfl
@[simp] theorem setTally_stirs : (setTally i x s).stirs = s.stirs := rfl
@[simp] theorem setTally_tree : (setTally i x s).tree = s.tree := rfl
@[simp] theorem setTally_agenda : (setTally i x s).agenda = s.agenda := rfl
@[simp] theorem setTally_home : (setTally i x s).home = s.home := rfl
@[simp] theorem setTally_objs : (setTally i x s).objs = s.objs := rfl
@[simp] theorem setTally_waiters : (setTally i x s).waiters = s.waiters := rfl
@[simp] theorem setTally_journals : (setTally i x s).journals = s.journals := rfl
@[simp] theorem setTally_tly : (setTally i x s).tly = { s.tly with tbl := Tbl.set Tally.none i x s.tly.tbl } := rfl
@[simp] theorem setTally_parts : (setTally i x s).parts = s.parts := rfl
@[simp] theorem setTally_cur : (setTally i x s).cur = s.cur := rfl
@[simp] theorem setTally_flt : (setTally i x s).flt = s.flt := rfl
@[simp] theorem setTally_pwr : (setTally i x s).pwr = s.pwr := rfl
@[simp] theorem setTally_bist : (setTally i x s).bist = s.bist := rfl
@[simp] theorem setTally_fab : (setTally i x s).fab = s.fab := rfl
@[simp] theorem setTally_page : (setTally i x s).page = s.page := rfl
@[simp] theorem setTally_hq : (setTally i x s).hq = s.hq := rfl
@[simp] theorem setTally_obs : (setTally i x s).obs = s.obs := rfl
@[simp] theorem setTally_boot : (setTally i x s).boot = s.boot := rfl
@[simp] theorem setTally_dbg : (setTally i x s).dbg = s.dbg := rfl
@[simp] theorem setTally_out : (setTally i x s).out = s.out := rfl
@[simp] theorem setTally_cyc : (setTally i x s).cyc = s.cyc := rfl
@[simp] theorem setTally_free : (setTally i x s).free = s.free := rfl
@[simp] theorem setTally_pending : (setTally i x s).pending = s.pending := rfl

end setTally

section schedule
variable (c : Clk) (due : Nat) (ev : Instr) (s : State)

@[simp] theorem schedule_clk : (schedule c due ev s).clk = s.clk := rfl
@[simp] theorem schedule_house : (schedule c due ev s).house = s.house := rfl
@[simp] theorem schedule_force : (schedule c due ev s).force = s.force := rfl
@[simp] theorem schedule_staged : (schedule c due ev s).staged = s.staged := rfl
@[simp] theorem schedule_su : (schedule c due ev s).su = s.su := rfl
@[simp] theorem schedule_stirs : (schedule c due ev s).stirs = s.stirs := rfl
@[simp] theorem schedule_tree : (schedule c due ev s).tree = s.tree := rfl
@[simp] theorem schedule_agenda : (schedule c due ev s).agenda = s.agenda ++ [{ clk := c, due := due, ev := ev }] := rfl
@[simp] theorem schedule_home : (schedule c due ev s).home = s.home := rfl
@[simp] theorem schedule_objs : (schedule c due ev s).objs = s.objs := rfl
@[simp] theorem schedule_waiters : (schedule c due ev s).waiters = s.waiters := rfl
@[simp] theorem schedule_journals : (schedule c due ev s).journals = s.journals := rfl
@[simp] theorem schedule_tly : (schedule c due ev s).tly = s.tly := rfl
@[simp] theorem schedule_parts : (schedule c due ev s).parts = s.parts := rfl
@[simp] theorem schedule_cur : (schedule c due ev s).cur = s.cur := rfl
@[simp] theorem schedule_flt : (schedule c due ev s).flt = s.flt := rfl
@[simp] theorem schedule_pwr : (schedule c due ev s).pwr = s.pwr := rfl
@[simp] theorem schedule_bist : (schedule c due ev s).bist = s.bist := rfl
@[simp] theorem schedule_fab : (schedule c due ev s).fab = s.fab := rfl
@[simp] theorem schedule_page : (schedule c due ev s).page = s.page := rfl
@[simp] theorem schedule_hq : (schedule c due ev s).hq = s.hq := rfl
@[simp] theorem schedule_obs : (schedule c due ev s).obs = s.obs := rfl
@[simp] theorem schedule_boot : (schedule c due ev s).boot = s.boot := rfl
@[simp] theorem schedule_dbg : (schedule c due ev s).dbg = s.dbg := rfl
@[simp] theorem schedule_out : (schedule c due ev s).out = s.out := rfl
@[simp] theorem schedule_cyc : (schedule c due ev s).cyc = s.cyc := rfl
@[simp] theorem schedule_free : (schedule c due ev s).free = s.free := rfl
@[simp] theorem schedule_pending : (schedule c due ev s).pending = s.pending := rfl

end schedule

section report
variable (type unit index : Nat) (p : Option Nat) (d : List Nat) (s : State)

@[simp] theorem report_clk : (report type unit index p d s).clk = s.clk := rfl
@[simp] theorem report_house : (report type unit index p d s).house = s.house := rfl
@[simp] theorem report_force : (report type unit index p d s).force = s.force := rfl
@[simp] theorem report_staged : (report type unit index p d s).staged = s.staged := rfl
@[simp] theorem report_su : (report type unit index p d s).su = s.su := rfl
@[simp] theorem report_stirs : (report type unit index p d s).stirs = s.stirs := rfl
@[simp] theorem report_tree : (report type unit index p d s).tree = s.tree := rfl
@[simp] theorem report_home : (report type unit index p d s).home = s.home := rfl
@[simp] theorem report_objs : (report type unit index p d s).objs = s.objs := rfl
@[simp] theorem report_waiters : (report type unit index p d s).waiters = s.waiters := rfl
@[simp] theorem report_journals : (report type unit index p d s).journals = s.journals := rfl
@[simp] theorem report_tly : (report type unit index p d s).tly = s.tly := rfl
@[simp] theorem report_parts : (report type unit index p d s).parts = s.parts := rfl
@[simp] theorem report_cur : (report type unit index p d s).cur = s.cur := rfl
@[simp] theorem report_flt : (report type unit index p d s).flt = s.flt := rfl
@[simp] theorem report_pwr : (report type unit index p d s).pwr = s.pwr := rfl
@[simp] theorem report_bist : (report type unit index p d s).bist = s.bist := rfl
@[simp] theorem report_fab : (report type unit index p d s).fab = s.fab := rfl
@[simp] theorem report_page : (report type unit index p d s).page = s.page := rfl
@[simp] theorem report_hq : (report type unit index p d s).hq = s.hq := rfl
@[simp] theorem report_obs : (report type unit index p d s).obs = s.obs := rfl
@[simp] theorem report_boot : (report type unit index p d s).boot = s.boot := rfl
@[simp] theorem report_dbg : (report type unit index p d s).dbg = s.dbg := rfl
@[simp] theorem report_out : (report type unit index p d s).out = s.out := rfl
@[simp] theorem report_cyc : (report type unit index p d s).cyc = s.cyc := rfl
@[simp] theorem report_free : (report type unit index p d s).free = s.free + 1 := rfl
@[simp] theorem report_pending : (report type unit index p d s).pending = s.pending := rfl

end report

section setStage
variable (key : Nat) (g : Staged) (s : State)

@[simp] theorem setStage_clk : (setStage key g s).clk = s.clk := rfl
@[simp] theorem setStage_house : (setStage key g s).house = s.house := rfl
@[simp] theorem setStage_force : (setStage key g s).force = s.force := rfl
@[simp] theorem setStage_staged : (setStage key g s).staged = Tbl.set noStage key g s.staged := rfl
@[simp] theorem setStage_su : (setStage key g s).su = s.su := rfl
@[simp] theorem setStage_stirs : (setStage key g s).stirs = s.stirs := rfl
@[simp] theorem setStage_tree : (setStage key g s).tree = s.tree := rfl
@[simp] theorem setStage_agenda : (setStage key g s).agenda = s.agenda := rfl
@[simp] theorem setStage_home : (setStage key g s).home = s.home := rfl
@[simp] theorem setStage_objs : (setStage key g s).objs = s.objs := rfl
@[simp] theorem setStage_waiters : (setStage key g s).waiters = s.waiters := rfl
@[simp] theorem setStage_journals : (setStage key g s).journals = s.journals := rfl
@[simp] theorem setStage_tly : (setStage key g s).tly = s.tly := rfl
@[simp] theorem setStage_parts : (setStage key g s).parts = s.parts := rfl
@[simp] theorem setStage_cur : (setStage key g s).cur = s.cur := rfl
@[simp] theorem setStage_flt : (setStage key g s).flt = s.flt := rfl
@[simp] theorem setStage_pwr : (setStage key g s).pwr = s.pwr := rfl
@[simp] theorem setStage_bist : (setStage key g s).bist = s.bist := rfl
@[simp] theorem setStage_fab : (setStage key g s).fab = s.fab := rfl
@[simp] theorem setStage_page : (setStage key g s).page = s.page := rfl
@[simp] theorem setStage_hq : (setStage key g s).hq = s.hq := rfl
@[simp] theorem setStage_obs : (setStage key g s).obs = s.obs := rfl
@[simp] theorem setStage_boot : (setStage key g s).boot = s.boot := rfl
@[simp] theorem setStage_dbg : (setStage key g s).dbg = s.dbg := rfl
@[simp] theorem setStage_out : (setStage key g s).out = s.out := rfl
@[simp] theorem setStage_cyc : (setStage key g s).cyc = s.cyc := rfl
@[simp] theorem setStage_free : (setStage key g s).free = s.free := rfl
@[simp] theorem setStage_pending : (setStage key g s).pending = s.pending := rfl

end setStage

section setFabPort
variable (p : Nat) (x : FabPort) (s : State)

@[simp] theorem setFabPort_clk : (setFabPort p x s).clk = s.clk := rfl
@[simp] theorem setFabPort_house : (setFabPort p x s).house = s.house := rfl
@[simp] theorem setFabPort_force : (setFabPort p x s).force = s.force := rfl
@[simp] theorem setFabPort_staged : (setFabPort p x s).staged = s.staged := rfl
@[simp] theorem setFabPort_su : (setFabPort p x s).su = s.su := rfl
@[simp] theorem setFabPort_stirs : (setFabPort p x s).stirs = s.stirs := rfl
@[simp] theorem setFabPort_tree : (setFabPort p x s).tree = s.tree := rfl
@[simp] theorem setFabPort_agenda : (setFabPort p x s).agenda = s.agenda := rfl
@[simp] theorem setFabPort_home : (setFabPort p x s).home = s.home := rfl
@[simp] theorem setFabPort_objs : (setFabPort p x s).objs = s.objs := rfl
@[simp] theorem setFabPort_waiters : (setFabPort p x s).waiters = s.waiters := rfl
@[simp] theorem setFabPort_journals : (setFabPort p x s).journals = s.journals := rfl
@[simp] theorem setFabPort_tly : (setFabPort p x s).tly = s.tly := rfl
@[simp] theorem setFabPort_parts : (setFabPort p x s).parts = s.parts := rfl
@[simp] theorem setFabPort_cur : (setFabPort p x s).cur = s.cur := rfl
@[simp] theorem setFabPort_flt : (setFabPort p x s).flt = s.flt := rfl
@[simp] theorem setFabPort_pwr : (setFabPort p x s).pwr = s.pwr := rfl
@[simp] theorem setFabPort_bist : (setFabPort p x s).bist = s.bist := rfl
@[simp] theorem setFabPort_fab : (setFabPort p x s).fab = { s.fab with ports := Tbl.set FabPort.none p x s.fab.ports } := rfl
@[simp] theorem setFabPort_page : (setFabPort p x s).page = s.page := rfl
@[simp] theorem setFabPort_hq : (setFabPort p x s).hq = s.hq := rfl
@[simp] theorem setFabPort_obs : (setFabPort p x s).obs = s.obs := rfl
@[simp] theorem setFabPort_boot : (setFabPort p x s).boot = s.boot := rfl
@[simp] theorem setFabPort_dbg : (setFabPort p x s).dbg = s.dbg := rfl
@[simp] theorem setFabPort_out : (setFabPort p x s).out = s.out := rfl
@[simp] theorem setFabPort_cyc : (setFabPort p x s).cyc = s.cyc := rfl
@[simp] theorem setFabPort_free : (setFabPort p x s).free = s.free := rfl
@[simp] theorem setFabPort_pending : (setFabPort p x s).pending = s.pending := rfl

end setFabPort

section queueDma
variable (l : List DmaItem) (s : State)

@[simp] theorem queueDma_clk : (queueDma l s).clk = s.clk := rfl
@[simp] theorem queueDma_house : (queueDma l s).house = s.house := rfl
@[simp] theorem queueDma_force : (queueDma l s).force = s.force := rfl
@[simp] theorem queueDma_staged : (queueDma l s).staged = s.staged := rfl
@[simp] theorem queueDma_su : (queueDma l s).su = s.su := rfl
@[simp] theorem queueDma_stirs : (queueDma l s).stirs = s.stirs := rfl
@[simp] theorem queueDma_tree : (queueDma l s).tree = s.tree := rfl
@[simp] theorem queueDma_agenda : (queueDma l s).agenda = s.agenda := rfl
@[simp] theorem queueDma_home : (queueDma l s).home = s.home := rfl
@[simp] theorem queueDma_objs : (queueDma l s).objs = s.objs := rfl
@[simp] theorem queueDma_waiters : (queueDma l s).waiters = s.waiters := rfl
@[simp] theorem queueDma_journals : (queueDma l s).journals = s.journals := rfl
@[simp] theorem queueDma_tly : (queueDma l s).tly = s.tly := rfl
@[simp] theorem queueDma_parts : (queueDma l s).parts = s.parts := rfl
@[simp] theorem queueDma_cur : (queueDma l s).cur = s.cur := rfl
@[simp] theorem queueDma_flt : (queueDma l s).flt = s.flt := rfl
@[simp] theorem queueDma_pwr : (queueDma l s).pwr = s.pwr := rfl
@[simp] theorem queueDma_bist : (queueDma l s).bist = s.bist := rfl
@[simp] theorem queueDma_fab : (queueDma l s).fab = s.fab := rfl
@[simp] theorem queueDma_page : (queueDma l s).page = s.page := rfl
@[simp] theorem queueDma_hq : (queueDma l s).hq = { s.hq with dmaQ := s.hq.dmaQ ++ l } := rfl
@[simp] theorem queueDma_obs : (queueDma l s).obs = s.obs := rfl
@[simp] theorem queueDma_boot : (queueDma l s).boot = s.boot := rfl
@[simp] theorem queueDma_dbg : (queueDma l s).dbg = s.dbg := rfl
@[simp] theorem queueDma_out : (queueDma l s).out = s.out := rfl
@[simp] theorem queueDma_cyc : (queueDma l s).cyc = s.cyc := rfl
@[simp] theorem queueDma_free : (queueDma l s).free = s.free := rfl
@[simp] theorem queueDma_pending : (queueDma l s).pending = s.pending := rfl

end queueDma

end Sys2Proof.Machine
end

