-- ==== Sys2Proof/Laws/Forms.lean ====
section
/-! SUPPORT. The meanings' own checks of their operands are those of well-formedness; a descriptor that starts alone; what a
CURTAIN packet leaves. -/

namespace Sys2Proof.Machine

theorem place_ok_eq (a : Place) : a.ok = wfPlace a := by cases a <;> rfl

theorem ports_contains_eq (p : Nat) : ports.contains p = wfPort p := by
  rw [Bool.eq_iff_iff]
  simp [ports, wfPort]
  constructor
  · rintro (h | ⟨a, h1, h2⟩) <;> omega
  · intro h
    by_cases h1 : p < 4
    · exact .inl h1
    · exact .inr ⟨p - 8, by omega, by omega⟩

theorem reqOk_eq (r : HomeReq) : reqOk r = (wfPart r.part && wfObj r.tok r.obj) := by simp [reqOk, wfPart, wfObj]

theorem wordIs_eq (cls op : Nat) (w : W32) : wordIs cls op w = wfWord cls op w := by
  have h : bitsN w 27 23 < 2 ^ 5 := Nat.mod_lt _ (by decide)
  unfold wordIs wfWord cClass cOp
  rw [BitVec.toNat_ofNat, Nat.mod_eq_of_lt h]

theorem ringOk_eq (p q : Nat) : ringOk p q = wfRing p q := by simp [ringOk, wfRing, wfPart]

theorem descOk_eq (x : Desc) : descOk x = (wfRing x.part x.ring && decide (x.d.length = 8)) := by
  rw [Bool.eq_iff_iff]
  simp [descOk, ringOk, wfRing, wfPart]
  omega

/-- A descriptor that waits alone outside a curtain runs its effect as started. -/
theorem runDesc_alone {s : State} {d : DescState} (h1 : s.hq.descs = [d]) (h2 : d.decoded = true) (h3 : d.started = false)
    (h4 : d.refusal = 0) (h5 : covered s d.x.part = false) (f : DescState → State → State) :
    runDesc d.x f s = f { d with started := true, parked := false }
      { s with hq := { s.hq with descs := [{ d with started := true, parked := false }] } } := by
  have : ∀ q, covered { s with hq := q } d.x.part = false := fun q => h5
  simp [runDesc, yetToRun, findDesc, h1, h2, h3, begin_, updDesc, sameDesc, waitsAtUnit, h4, this]

/-- Packets on ports only join the queue of what leaves. -/
theorem foldl_reinQ {α : Type} (g : α → FabOut) (l : List α) (s : State) :
    ∃ q, l.foldl (fun (b : State) a => { b with fab := { b.fab with reinQ := b.fab.reinQ ++ [g a] } }) s = { s with fab := { s.fab with reinQ := q } } := by
  induction l generalizing s with
  | nil => exact ⟨_, rfl⟩
  | cons a l ih =>
    obtain ⟨q, hq⟩ := ih { s with fab := { s.fab with reinQ := s.fab.reinQ ++ [g a] } }
    exact ⟨q, hq⟩

end Sys2Proof.Machine
end

