-- ==== Sys2Proof/Laws/Home.lean ====
section
/-! SUPPORT. What the home's shared operations can do: counting, journalling, answering and the look after an operation leave every
object; a value write leaves all but one. -/

namespace Sys2Proof.Machine

/-- A home operation that also leaves every object. -/
def HomeQuiet (t s : State) : Prop := HomeFrame t s ∧ t.objs = s.objs

theorem HomeQuiet.refl (s) : HomeQuiet s s := ⟨rfl, rfl⟩

theorem HomeFrame.trans {u t s} (h : HomeFrame u t) (g : HomeFrame t s) : HomeFrame u s := by unfold HomeFrame at *; rw [h, g]

theorem HomeQuiet.trans {u t s} (h : HomeQuiet u t) (g : HomeQuiet t s) : HomeQuiet u s := ⟨HomeFrame.trans h.1 g.1, h.2.trans g.2⟩

theorem count_quiet (p i n s) : HomeQuiet (count p i n s) s := ⟨rfl, rfl⟩

theorem countOp_quiet (r s) : HomeQuiet (countOp r s) s := by unfold countOp; split; exact .refl _; exact count_quiet _ _ _ _

theorem report_quiet (a b c d e s) : HomeQuiet (report a b c d e s) s := ⟨rfl, rfl⟩

theorem across_quiet (a b c d e s) : HomeQuiet (across a b c d e s) s := ⟨rfl, rfl⟩

theorem pushDma_quiet (w s) : HomeQuiet (pushDma w s) s := ⟨rfl, rfl⟩

theorem dirtyLog_quiet (p k a s) : HomeQuiet (dirtyLog p k a s) s := by
  unfold dirtyLog; dsimp only; repeat' split
  all_goals first | exact ⟨rfl, rfl⟩

theorem hostWrite_quiet (p k a d s) : HomeQuiet (hostWrite p k a d s) s := by
  unfold hostWrite; dsimp only; repeat' split
  · exact .refl _
  · exact ⟨rfl, rfl⟩
  · exact (pushDma_quiet _ _).trans (dirtyLog_quiet _ _ _ _)

theorem writeEntry_quiet (a b c d e f g h i s) : HomeQuiet (writeEntry a b c d e f g h i s) s := (hostWrite_quiet _ _ _ _ _).trans (hostWrite_quiet _ _ _ _ _)

theorem wantWriteback_quiet (p s) : HomeQuiet (wantWriteback p s) s := by unfold wantWriteback; dsimp only; split <;> exact ⟨rfl, rfl⟩

theorem setPage_quiet (p o v s) : HomeQuiet (setPage p o v s) s := ⟨rfl, rfl⟩

theorem rcBefore_quiet (k v s) : HomeQuiet (rcBefore k v s) s := by unfold rcBefore; split <;> exact ⟨rfl, rfl⟩

theorem raiseIrq_quiet (p v s) : HomeQuiet (raiseIrq p v s) s := by unfold raiseIrq; (repeat' split) <;> exact ⟨rfl, rfl⟩

theorem event_quiet (a b c d s) : HomeQuiet (event a b c d s) s := by
  unfold event; dsimp only; split
  · exact (setPage_quiet _ _ _ _).trans (rcBefore_quiet _ _ _)
  · have : HomeQuiet (wantWriteback a (setPage a 0xAC (pageReg s a 0xAC + 1) (writeEntry a 2 (ringBase (pageReg s a 0xA0) (pageReg s a 0xA4)) (pageReg s a 0xAC) (bitsN (pageReg s a 0xA8) 4 0) (c ++ BitVec.ofNat 32 (b * 256)) (houseNow s) (d.setWidth 64) ((d >>> 64).setWidth 64) s))) s :=
      (wantWriteback_quiet _ _).trans ((show HomeQuiet (setPage _ _ _ _) _ from ⟨rfl, rfl⟩).trans (writeEntry_quiet _ _ _ _ _ _ _ _ _ _))
    split
    · exact (raiseIrq_quiet _ _ _).trans this
    · exact this

theorem journalAdd_quiet (p l s) : HomeQuiet (journalAdd p l s) s := by
  unfold journalAdd; dsimp only; repeat' split
  · exact .refl _
  · exact ⟨rfl, rfl⟩
  · unfold closeJournal; exact (event_quiet _ _ _ _ _).trans ⟨rfl, rfl⟩

theorem journalObj_quiet (p a b l s) : HomeQuiet (journalObj p a b l s) s := by
  unfold journalObj; split; exact .refl _; exact journalAdd_quiet _ _ _

theorem afterOp_quiet (r a s) : HomeQuiet (afterOp r a s) s := by
  unfold afterOp startPass passNext markPass endPass; dsimp only; repeat' split
  all_goals exact ⟨rfl, rfl⟩

theorem afterOp_mem (r a s) (x) (h : x ∈ s.agenda) : x ∈ (afterOp r a s).agenda := by
  unfold afterOp startPass passNext markPass endPass; dsimp only; repeat' split
  all_goals first | exact h | (simp [afterE, schedule]; exact .inl h)

theorem putVal_spec (r v s) : HomeFrame (putVal r v s) s ∧ (putVal r v s).objs = objsWith s r v := by
  unfold putVal objsWith; dsimp only; split
  · exact ⟨rfl, rfl⟩
  · have : ∀ t, HomeQuiet t s → HomeFrame (setObj r.tok r.obj { obj s r.tok r.obj with val := v } t) s ∧ (setObj r.tok r.obj { obj s r.tok r.obj with val := v } t).objs = Tbl.set Obj.none (objIx r.tok r.obj) { obj s r.tok r.obj with val := v } s.objs := by
      intro t ht
      refine ⟨HomeFrame.trans (t := t) rfl ht.1, ?_⟩
      simp [setObj, ht.2]
    split
    · exact this _ (.refl _)
    · exact this _ (journalObj_quiet _ _ _ _ _)

theorem respond_tile (r : HomeReq) (st p s) (h : r.src < nStirrup) : HomeQuiet (respond r st p false s) s ∧ Answers (respond r st p false s) r st p := by
  have h1 : r.src ≠ srcSetup := by simp [srcSetup, nStirrup] at *; omega
  have h2 : r.src ≠ srcWatch := by simp [srcWatch, nStirrup] at *; omega
  have h3 : r.src ≠ srcHost := by simp [srcHost, nStirrup] at *; omega
  simp only [respond, h1, h2, h3, if_false]
  refine ⟨across_quiet _ _ _ _ _ _, ?_⟩
  simp [Answers, across, crossDue, takeFree, schedule, stir]

theorem done_tile (r : HomeReq) (st p s) (h : r.src < nStirrup) : HomeQuiet (done r st p s) s ∧ Answers (done r st p s) r st p := by
  unfold done
  have := respond_tile r st p (countOp r s) h
  exact ⟨this.1.trans (countOp_quiet _ _), this.2⟩

theorem isNull_tile (r : HomeReq) (h : r.src < nStirrup) : isNull r = false := by
  have h3 : r.src ≠ srcHost := by simp [srcHost, nStirrup] at *; omega
  simp [isNull, h3]

theorem afterOp_done (r : HomeReq) (x st p s t) (v) (ht : HomeFrame t s ∧ t.objs = v) (h : r.src < nStirrup) :
   (afterOp r x (done r st p t)).objs = v ∧ Answers (afterOp r x (done r st p t)) r st p ∧ HomeFrame (afterOp r x (done r st p t)) s := by
  have a := afterOp_quiet r x (done r st p t)
  have b := done_tile r st p t h
  refine ⟨a.2.trans (b.1.2.trans ht.2), ?_, HomeFrame.trans a.1 (HomeFrame.trans b.1.1 ht.1)⟩
  obtain ⟨d, hd⟩ := b.2
  refine ⟨d, ?_⟩
  have := afterOp_mem r x _ _ hd
  have e : (afterOp r x (done r st p t)).stirs = (done r st p t).stirs := by rw [a.1]
  simpa [stir, e] using this

end Sys2Proof.Machine
end

