-- ==== Sys2Proof/Laws/Outcome.lean ====
section
/-! SUPPORT. What the shared forms of the meanings answer, and what a fault report leaves. -/

namespace Sys2Proof.Machine

/-- A command that names existing parts answers its state, any other the fault. -/
theorem answer_next {ok : Bool} {t u : State} : answer ok t = .next u ↔ ok = true ∧ t = u := by
  cases ok <;> simp [answer]

theorem completes_next {t : State} {P : State → Prop} : Completes (.next t) P ↔ P t := by
  simp [Completes]

theorem completes_answer {ok : Bool} {t : State} {P : State → Prop} : Completes (answer ok t) P ↔ ok = true ∧ P t := by
  cases ok <;> simp [Completes, answer]

/-- A tile's command answers the state of its STIR_CMD write, for the words of its row alone. -/
theorem tileCmd_next {cls op st : Nat} {w : W32} {s t : State} :
    tileCmd cls op st w s = .next t ↔ wordIs cls op w = true ∧ st < nStirrup ∧ writeCmd st w s = t := by
  cases h : wordIs cls op w <;> simp [tileCmd, h, answer_next]

/-- A home operation at its unit answers its effect and what follows every operation. -/
theorem homeRow_unit_next {op : Nat} {eff : HomeReq → State → State} {r : HomeReq} {s t : State} :
    homeRow op eff (.unit r) s = .next t ↔
      r.op.toNat = op ∧ reqOk r = true ∧
        (if homeAborted s r then abortItem ⟨r, none⟩ s else afterOp r s (if isNull r then refuseNull r s else eff r s)) = t := by
  by_cases h : r.op.toNat = op <;> simp [homeRow, h, answer_next]

/-- A CTRL command at its stall. -/
theorem execCtrl_unit_next {op : Nat} {c : CtrlPkt} {s t : State} :
    execCtrl op (.unit c) s = .next t ↔ wordIs 4 op c.word = true ∧ c.src < nStirrup ∧ ctrlAtStall (stallOf c.src) c s = t := by
  cases h : wordIs 4 op c.word <;> simp [execCtrl, h, answer_next]

/-- A descriptor row answers for the descriptors its decoding accepts. -/
theorem descRow_next {op : Nat} {x : Desc} {f : DescState → State → State} {s t : State} :
    descRow op x f s = .next t ↔ descIs s op x = true ∧ descOk x = true ∧ runDesc x f s = t := by
  cases h : descIs s op x <;> simp [descRow, h, answer_next]

/-- A fault report is on its way, and nothing else changes but the counter of free values. -/
theorem report_told (type unit index : Nat) (p : Option Nat) (d : List Nat) (s : State) :
    Told (report type unit index p d s) s type unit index p d := by
  simp [Told, report, across, crossDue, takeFree, schedule]

theorem report_frame (type unit index : Nat) (p : Option Nat) (d : List Nat) (s : State) :
    report type unit index p d s = { s with agenda := (report type unit index p d s).agenda, free := s.free + 1 } := rfl

end Sys2Proof.Machine
end

