-- ==== Sys2Proof/Laws/Tbl.lean ====
section
/-! SUPPORT. The laws of sparse stores: a read after a write gives the value written, a write leaves every other key, and every
operation keeps the canonical form. -/

set_option linter.unusedSectionVars false

namespace Sys2Proof.Tbl

variable {α : Type} [DecidableEq α]

theorem get_insert (d : α) (i : Nat) (a : α) (t : Tbl α) (j : Nat) :
    get d (insert i a t) j = if j = i then a else get d t j := by
  induction t with
  | nil => simp [insert, get]
  | cons x t ih =>
    obtain ⟨k, v⟩ := x
    simp only [insert]
    split
    · simp [get]
    · split
      · rename_i h; subst h
        simp only [get]; split <;> simp
      · rename_i h1 h2
        simp only [get]
        by_cases hj : j = k
        · simp [hj]; intro h; omega
        · simp [hj, ih]

theorem get_erase_ne (d : α) (i j : Nat) (t : Tbl α) (h : j ≠ i) : get d (erase i t) j = get d t j := by
  induction t with
  | nil => rfl
  | cons x t ih =>
    obtain ⟨k, v⟩ := x
    simp only [erase]
    split
    · rename_i hk; subst hk; simp [get, h]
    · simp [get, ih]

/-- A write leaves every other key. -/
theorem get_set_ne (d : α) (i j : Nat) (a : α) (t : Tbl α) (h : j ≠ i) : get d (set d i a t) j = get d t j := by
  unfold set
  split
  · exact get_erase_ne d i j t h
  · simp [get_insert, h]

/-- A read after a write of a value that unlisted keys do not read as. -/
theorem get_set_self (d : α) (i : Nat) (a : α) (t : Tbl α) (h : a ≠ d) : get d (set d i a t) i = a := by
  simp [set, h, get_insert]

theorem insert_insert (i : Nat) (a b : α) (t : Tbl α) : insert i b (insert i a t) = insert i b t := by
  induction t with
  | nil => simp [insert]
  | cons x t ih =>
    obtain ⟨k, v⟩ := x
    simp only [insert]
    split
    · simp [insert]
    · split
      · simp [insert]
      · simp [insert, *]

/-- Of two writes of one key the later holds. -/
theorem set_set (d : α) (i : Nat) (a b : α) (t : Tbl α) (ha : a ≠ d) (hb : b ≠ d) :
    set d i b (set d i a t) = set d i b t := by
  simp [set, ha, hb, insert_insert]

theorem wfFrom_mono {d : Nat → α} {t : Tbl α} {lo hi : Nat} (h : wfFrom d hi t = true) (hl : lo ≤ hi) :
    wfFrom d lo t = true := by
  cases t with
  | nil => rfl
  | cons x t =>
    simp only [wfFrom, Bool.and_eq_true, decide_eq_true_eq] at h ⊢
    exact ⟨⟨by omega, h.1.2⟩, h.2⟩

theorem wfFrom_insert (d : Nat → α) (i : Nat) (a : α) (ha : a ≠ d i) (t : Tbl α) (lo : Nat) (hi : lo ≤ i)
    (h : wfFrom d lo t = true) : wfFrom d lo (insert i a t) = true := by
  induction t generalizing lo with
  | nil => simp [insert, wfFrom, hi, ha]
  | cons x t ih =>
    obtain ⟨k, v⟩ := x
    simp only [wfFrom, Bool.and_eq_true, decide_eq_true_eq] at h
    simp only [insert]
    split
    · simp [wfFrom, hi, ha, h.1.2, h.2]; omega
    · split
      · rename_i h2; subst h2; simp [wfFrom, hi, ha, h.2]
      · simp [wfFrom, h.1.1, h.1.2]
        exact ih (k + 1) (by omega) h.2

theorem wfFrom_erase (d : Nat → α) (i : Nat) (t : Tbl α) (lo : Nat) (h : wfFrom d lo t = true) :
    wfFrom d lo (erase i t) = true := by
  induction t generalizing lo with
  | nil => rfl
  | cons x t ih =>
    obtain ⟨k, v⟩ := x
    simp only [wfFrom, Bool.and_eq_true, decide_eq_true_eq] at h
    simp only [erase]
    split
    · exact wfFrom_mono h.2 (by omega)
    · simp [wfFrom, h.1.1, h.1.2]
      exact ih (k + 1) h.2

/-- A write keeps the canonical form. -/
theorem wf_set (d : Nat → α) (i : Nat) (a : α) (t : Tbl α) (h : wf d t = true) : wf d (set (d i) i a t) = true := by
  unfold set wf at *
  split
  · exact wfFrom_erase d i t 0 h
  · rename_i ha; exact wfFrom_insert d i a ha t 0 (Nat.zero_le i) h

theorem get_below (d : α) (e : Nat → α) (t : Tbl α) (lo i : Nat) (h : wfFrom e lo t = true) (hi : i < lo) : get d t i = d := by
  induction t generalizing lo with
  | nil => rfl
  | cons x t ih =>
    obtain ⟨k, v⟩ := x
    simp only [wfFrom, Bool.and_eq_true, decide_eq_true_eq] at h
    have : i ≠ k := by omega
    simp [get, this]
    exact ih (k + 1) h.2 (by omega)

/-- In a canonical store a read after any write gives the value written. -/
theorem get_set_wf (d : Nat → α) (i : Nat) (a : α) (t : Tbl α) (h : wf d t = true) : get (d i) (set (d i) i a t) i = a := by
  by_cases ha : a = d i
  · subst ha
    simp only [set, if_true]
    have : ∀ lo, wfFrom d lo t = true → get (d i) (erase i t) i = d i := by
      induction t with
      | nil => intros; rfl
      | cons x t ih =>
        obtain ⟨k, v⟩ := x
        intro lo hl
        simp only [wfFrom, Bool.and_eq_true, decide_eq_true_eq] at hl
        simp only [erase]
        split
        · rename_i hk; subst hk
          exact get_below _ d t (i + 1) i hl.2 (by omega)
        · rename_i hk
          simp [get, hk]
          exact ih (wfFrom_mono hl.2 (Nat.zero_le _)) (k + 1) hl.2
    exact this 0 h
  · exact get_set_self _ _ _ _ ha

end Sys2Proof.Tbl
end

