-- ==== Sys2Proof/Laws/Tree.lean ====
section
/-! SUPPORT. What settling a node can do (R77, R79): it sends, and changes only what the node has forwarded and whether it is idle or
waits. -/

namespace Sys2Proof.Machine

/-- Only the tree, the agenda and the packets for the ports differ. -/
def TreeOnly (t s : State) : Prop := t = { s with tree := t.tree, agenda := t.agenda, fab := t.fab }

theorem TreeOnly.refl (s : State) : TreeOnly s s := rfl

theorem TreeOnly.trans {u t s : State} (h : TreeOnly u t) (g : TreeOnly t s) : TreeOnly u s := by
  unfold TreeOnly at *
  rw [h, g]

/-- What forwarding and idleness may change in a node's record of a slot. -/
def Stays (x y : NodeSlot) : Prop :=
  y = { x with sent := y.sent, sentN := y.sentN, idleSent := y.idleSent, ackWait := y.ackWait }

/-- A record that no forwarding makes the empty one. -/
def Solid (x : NodeSlot) : Prop := ∀ y, Stays x y → y ≠ NodeSlot.none

theorem Stays.trans {x y z : NodeSlot} (h : Stays x y) (g : Stays y z) : Stays x z := by
  unfold Stays at *
  rw [g, h]

theorem Solid.stays {x y : NodeSlot} (h : Solid x) (g : Stays x y) : Solid y := fun z hz => h z (g.trans hz)

theorem solid_of_epoch {x : NodeSlot} (h : x.epoch ≠ 0) : Solid x := by
  intro y hy hn
  unfold Stays at hy
  rw [hn] at hy
  exact h (by rw [← congrArg NodeSlot.epoch hy]; rfl)

theorem solid_of_cur {x : NodeSlot} (h : x.cur ≠ Hold.none) : Solid x := by
  intro y hy hn
  unfold Stays at hy
  rw [hn] at hy
  exact h (by rw [← congrArg NodeSlot.cur hy]; rfl)

theorem solid_of_idle {x : NodeSlot} (h : x.idle ≠ []) : Solid x := by
  intro y hy hn
  unfold Stays at hy
  rw [hn] at hy
  exact h (by rw [← congrArg NodeSlot.idle hy]; rfl)

theorem solid_of_abst {x : NodeSlot} (h : x.abst ≠ []) : Solid x := by
  intro y hy hn
  unfold Stays at hy
  rw [hn] at hy
  exact h (by rw [← congrArg NodeSlot.abst hy]; rfl)

theorem solid_of_lastEv {x : NodeSlot} (h : x.lastEv ≠ 0) : Solid x := by
  intro y hy hn
  unfold Stays at hy
  rw [hn] at hy
  exact h (by rw [← congrArg NodeSlot.lastEv hy]; rfl)

theorem solid_of_passT {x : NodeSlot} (h : x.passT ≠ 0) : Solid x := by
  intro y hy hn
  unfold Stays at hy
  rw [hn] at hy
  exact h (by rw [← congrArg NodeSlot.passT hy]; rfl)

theorem node_setNode (at_ : Place) (slot : Nat) (x : NodeSlot) (s : State) (h : x ≠ NodeSlot.none) :
    node (setNode at_ slot x s) at_ slot = x := Tbl.get_set_self _ _ _ _ h

theorem setNode_treeOnly (at_ : Place) (slot : Nat) (x : NodeSlot) (s : State) : TreeOnly (setNode at_ slot x s) s := rfl

theorem offer_treeOnly (link prio ready beats hop : Nat) (ev : Instr) (s : State) : TreeOnly (offer link prio ready beats hop ev s) s := rfl

@[simp] theorem offer_nodes (link prio ready beats hop : Nat) (ev : Instr) (s : State) :
    (offer link prio ready beats hop ev s).tree.nodes = s.tree.nodes := rfl

@[simp] theorem afterT_nodes (n : Nat) (ev : Instr) (s : State) : (afterT n ev s).tree.nodes = s.tree.nodes := rfl

@[simp] theorem sendSpan_nodes (port slot ready : Nat) (p : SpanPkt) (s : State) : (sendSpan port slot ready p s).tree.nodes = s.tree.nodes := rfl

theorem afterT_treeOnly (n : Nat) (ev : Instr) (s : State) : TreeOnly (afterT n ev s) s := rfl

theorem forward_spec (at_ : Place) (slot : Nat) (h : Hold) (e : W32) (s : State) :
    TreeOnly (forward at_ slot h e s) s ∧ (forward at_ slot h e s).tree.nodes = s.tree.nodes := by
  unfold forward
  dsimp only
  repeat' split
  all_goals exact ⟨rfl, rfl⟩

theorem sendIdle_spec (at_ : Place) (slot : Nat) (e : W32) (s : State) :
    TreeOnly (sendIdle at_ slot e s) s ∧ (sendIdle at_ slot e s).tree.nodes = s.tree.nodes := by
  unfold sendIdle
  repeat' split
  all_goals exact ⟨rfl, rfl⟩

theorem sendActive_spec (at_ : Place) (slot : Nat) (e : W32) (s : State) :
    TreeOnly (sendActive at_ slot e s) s ∧ (sendActive at_ slot e s).tree.nodes = s.tree.nodes := by
  unfold sendActive
  repeat' split
  all_goals exact ⟨rfl, rfl⟩

/-- A function of state that touches one node's record as forwarding may, and nothing outside the tree, the agenda and the ports. -/
def Touches (at_ : Place) (slot : Nat) (t s : State) : Prop :=
  TreeOnly t s ∧ (Solid (node s at_ slot) → Stays (node s at_ slot) (node t at_ slot))

theorem Touches.refl (at_ : Place) (slot : Nat) (s : State) : Touches at_ slot s s := ⟨rfl, fun _ => rfl⟩

theorem Touches.trans {at_ : Place} {slot : Nat} {u t s : State} (h : Touches at_ slot u t) (g : Touches at_ slot t s) :
    Touches at_ slot u s :=
  ⟨h.1.trans g.1, fun hs => (g.2 hs).trans (h.2 (hs.stays (g.2 hs)))⟩

theorem setNode_touches {at_ : Place} {slot : Nat} {y : NodeSlot} {s : State} (h : Stays (node s at_ slot) y) :
    Touches at_ slot (setNode at_ slot y s) s := by
  refine ⟨rfl, fun hs => ?_⟩
  rw [node_setNode _ _ _ _ (hs y h)]
  exact h

theorem sent_touches {at_ : Place} {slot : Nat} {t s : State} (h : TreeOnly t s ∧ t.tree.nodes = s.tree.nodes) : Touches at_ slot t s := by
  refine ⟨h.1, fun _ => ?_⟩
  unfold node Stays
  rw [h.2]

theorem settleActive_touches (at_ : Place) (slot : Nat) (s : State) : Touches at_ slot (settleActive at_ slot s) s := by
  unfold settleActive
  dsimp only
  split
  · exact (sent_touches (sendActive_spec _ _ _ _)).trans (setNode_touches rfl)
  · exact .refl _ _ _

theorem settleIdle_touches (at_ : Place) (slot : Nat) (s : State) : Touches at_ slot (settleIdle at_ slot s) s := by
  unfold settleIdle
  dsimp only
  split
  · exact (sent_touches (sendIdle_spec _ _ _ _)).trans (setNode_touches rfl)
  · exact .refl _ _ _

theorem settleOpen_touches (at_ : Place) (slot : Nat) (s : State) : Touches at_ slot (settleOpen at_ slot s) s := by
  unfold settleOpen
  dsimp only
  repeat' split
  · exact .refl _ _ _
  · refine Touches.trans (sent_touches ⟨afterT_treeOnly _ _ _, rfl⟩) (setNode_touches ?_)
    rfl
  · exact (sent_touches (forward_spec _ _ _ _ _)).trans (setNode_touches rfl)

theorem settleNext_touches (at_ : Place) (slot : Nat) (s : State) : Touches at_ slot (settleNext at_ slot s) s := by
  unfold settleNext
  dsimp only
  repeat' split
  · exact .refl _ _ _
  · exact .refl _ _ _
  · exact (sent_touches (forward_spec _ _ _ _ _)).trans (setNode_touches rfl)
  · exact .refl _ _ _

/-- Everything settling a node can do. -/
theorem settle_touches (at_ : Place) (slot : Nat) (s : State) : Touches at_ slot (settle at_ slot s) s := by
  unfold settle
  split
  · exact .refl _ _ _
  · exact (settleIdle_touches _ _ _).trans ((settleNext_touches _ _ _).trans
      ((settleOpen_touches _ _ _).trans (settleActive_touches _ _ _)))

/-- Settling a node whose record has just been written. -/
theorem settle_setNode (at_ : Place) (slot : Nat) (x : NodeSlot) (s : State) (h : Solid x) :
    TreeOnly (settle at_ slot (setNode at_ slot x s)) s ∧ Stays x (node (settle at_ slot (setNode at_ slot x s)) at_ slot) := by
  have ht := settle_touches at_ slot (setNode at_ slot x s)
  have hn := node_setNode at_ slot x s (h x rfl)
  rw [Touches, hn] at ht
  exact ⟨ht.1.trans rfl, ht.2 h⟩

theorem Stays.epoch {x y : NodeSlot} (h : Stays x y) : y.epoch = x.epoch := by rw [h]
theorem Stays.cur {x y : NodeSlot} (h : Stays x y) : y.cur = x.cur := by rw [h]
theorem Stays.nxt {x y : NodeSlot} (h : Stays x y) : y.nxt = x.nxt := by rw [h]
theorem Stays.idle {x y : NodeSlot} (h : Stays x y) : y.idle = x.idle := by rw [h]
theorem Stays.abst {x y : NodeSlot} (h : Stays x y) : y.abst = x.abst := by rw [h]

end Sys2Proof.Machine
end

