-- ==== Sys2Proof/Tests/Slice0.lean ====
section
/-! SUPPORT. Tests: ill-formed commands refused, small runs against values of the spec, and for every statement states and operands
that meet the hypotheses of each of its clauses. -/

namespace Sys2Proof.Tests

set_option Elab.async false

open Sys2Proof Sys2Proof.Machine

/-- The engine released and at work. -/
def on : State :=
  { State.reset with boot := { State.reset.boot with inReset := false, reduced := false, stage := 3, firstDone := true, grade := 1 } }

/-- A stirrup assigned to partition 0, with nothing pending. -/
def worker : Stirrup := { Stirrup.initial with role := 0x8000_0000, call := none, hold := false }

/-- Its last stirrup as given. -/
def withStir (x : Stirrup) : State := { on with stirs := [(1727, x)] }

/-- A command word. -/
def word (cls op nohold id : Nat) : W32 := BitVec.ofNat 32 (cls * 2 ^ 28 + op * 2 ^ 23 + nohold * 2 ^ 16 + id)

def cmd (w : W32) : StirCmd := { word := w, pay := 0, tag := 0, at_ := 0, lim := false }

def pend (slot : Nat) (boot : Bool) : PendCall := { slot := slot, hold := true, boot := boot, cmd := cmd 0, commit := 0 }

/-- The roster assigns stirrup 1727 to partition 0. -/
def rostered (s : State) : State := { s with force := [(rosterKey 1727, 0x8000_0000#32)] }

/-- Stirrup 1727 a member of slots 0 to 7, with what is in force besides. -/
def member (more : Tbl W32) : State :=
  { withStir worker with force := more ++ [(rosterKey 1727, 0x8000_0000#32)] }

def part0 : Partial :=
  { slot := 511, gen := 0, op := 0, fmt := 0, vote := 0, count := 1, tag := 0, data := 0, child := 3, seq := 0, leftT := 0, firstAt := 0,
    lastAt := 0, lastVt := 0, word := 0 }

/-- A home request of stirrup 1727. -/
def req (tok : Bool) (i op : Nat) (pay : W128) : HomeReq :=
  { tok := tok, obj := i, op := BitVec.ofNat 5 op, nohold := false, rid := 0, src := 1727, merged := false, mlevel := false, mrec := 0,
    poll := false, part := 63, pay := pay, leftT := 0, ring := 0, didx := 0, sub := 0, word := 0 }

def ctrl (w : W32) : CtrlPkt := { word := w, pay0 := 3, src := 1727, leftT := 0 }

def merge (idx : Nat) (kids : List (Nat × Nat × Bool × Nat)) : MergeRec :=
  { node := 143, idx := idx, sem := 8191, sum := 1, kids := kids, first := req false 8191 0 1, sent := false }

/-- One node holding something of slot 511. -/
def withNode (at_ : Place) (x : NodeSlot) : State := { on with tree := { on.tree with nodes := [(nodeKey at_ 511, x)] } }

def objAt (tok : Bool) (i : Nat) (o : Obj) (s : State) : State := { s with objs := [(objIx tok i, o)] }

/-- A waiter of stirrup 1727 for one unit. -/
def waiting (r : HomeReq) (sq : W32) : Waiter :=
  { req := r, count := 1, deadline := none, lag := 0, links := [(r.tok, r.obj, sq)], shadow := false, kept := false, since := 0 }

def rsp : HomeRsp :=
  { tok := false, obj := 8191, op := 6, status := 0, rid := 3, dest := 1727, merged := false, mlevel := false, mrec := 0, poll := false,
    role := 0, pay := 0 }

def entry (data : W32) : JEntry := { type := 1, tok := false, obj := 8191, part := 63, who := 0, entry := 0, seq := 0, data := data }

def held (rid : Nat) : HomeFly := { rid := rid, held := true, req := req false 8191 6 0 }

def cue (slot : Nat) : Cue :=
  { slot := slot, epoch := 0, next := 1, status := 0, fmt := 0, verdict := 0, inexact := false, overflow := false, role := 0, data := 0,
    profile := 7, stalls := [107], verdictSlot := false, abort := false, host := false, tag := 0, lastVt := 0, firstAt := 0, lastAt := 0, notes := [],
    counted := false, marks := [] }

def heldCue (slot : Nat) (placed : Bool) : HeldCue := { at_ := .die, cue := cue slot, since := 0, decT := 0, placed := placed, due := false }

/-- Partition 1 owns slots 504 to 511, rooted at the die, and RED holds cues of weight 0. -/
def twoParts : State :=
  { on with parts := [(0, Part.initial .active), (1, Part.initial .active)], pwr := { on.pwr with budget := 2 },
            force := [(partKey 1 0x1C, 0x8000_0000#32), (slotKey 511 0, 0x80C0_0000#32), (0x7000, 0x4000_0075#32)] }

def desc (op act : Nat) : Desc := { part := 0, ring := 3, idx := 0, d := [BitVec.ofNat 64 op, BitVec.ofNat 64 (act * 1024), 0, 0, 0, 0, 0, 0] }

/-- Span entry 127: id 0xFFFFF, slot 511, the other dies on tug W below and on rein peer 15 above; both ports in use. -/
def spanned : State :=
  { on with parts := [(0, Part.initial .active), (1, Part.initial .active)],
            force := [(partKey 1 0x1C, 0x8000_0000#32), (0x607C, 0x8000_0000#32), (spanKey 127 0, 0x9FFF_FFFF#32), (spanKey 127 4, 0xA3E0_0000#32)],
            fab := { on.fab with ports := [(3, { FabPort.none with phy := true, up := true })], reinUp := true } }

/-- A packet of that span. -/
def packet (k : BitVec 4) : SpanPkt :=
  { fkind := k, span := 0xFFFFF, gen := 0, opst := 0, vote := 0, beat := 0, count := 1, data := BitVec.ofNat 640 (2 ^ 128), empty := false }

/-- An hour of house time later. -/
def late (s : State) : State := { s with house := { s.house with frameStart := 14400000000000 } }

/-- Held in reset. -/
def reset (s : State) : State := { s with boot := { s.boot with inReset := true } }

def withPart (x : Part) (s : State) : State := { s with parts := [(0, Part.initial .active), (63, x)] }

def rep (type index : Nat) : Report := { type := type, unit := 1, index := index, part := some 63, house := 0, detail := [1, 0] }

def descState (x : Desc) (ids : List Nat) : DescState :=
  { x := x, decoded := true, readyAt := 0, started := false, parked := false, refusal := 0, ids := ids, left := 0, next := 0, worst := 0,
    aborted := false, endAt := 0 }

def withDesc (d : DescState) (s : State) : State := { s with hq := { s.hq with descs := [d] } }

def withPage (l : Tbl W32) (s : State) : State := { s with page := l }

def copy (b : Bool) (bytes : List (BitVec 8)) : FlashCopy :=
  { copyB := b, complete := true, sfdp := true, spiMode := 4, addr4 := true, bytes := bytes, again := false }

/-- A descriptor of ring 3 of partition 0: its first two words. -/
def descOf (w0 w1 : W64) : Desc := { part := 0, ring := 3, idx := 0, d := [w0, w1, 0, 0, 0, 0, 0, 0] }

/-! ## Ill-formed commands are refused -/

theorem test_wf_tile : (([.call 1728 0, .call 0 (word 0 14 0 0), .call 0 (word 1 0 0 0), .arm 1728 (word 2 24 0 0), .arm 0 (word 2 25 0 0),
    .flagPost 0 (word 2 24 0 0), .flagPost 1728 (word 2 25 0 0), .tallyRead 0 (word 2 24 0 0), .tallyRead 1728 (word 2 26 0 0),
    .fence 1728 (word 3 0 0 0), .fence 0 (word 3 1 0 0), .abstain (.tile 0 (word 4 1 0 0)), .rejoin (.tile 1728 (word 4 1 0 0)),
    .ctrlCurtain (.tile 0 (word 4 3 0 0)), .mark (.unit (ctrl (word 4 2 0 0))), .mark (.unit { ctrl (word 4 3 0 0) with src := 1728 }),
    .queuedCommandIssue 1728, .payloadCommit 1728 0, .stirStatRead 1728, .houseLoRead 1728, .remoteWriteReport 1728 1, .landAck 1728 1 true,
    .malformedCommand 1728 (word 5 0 0 0), .malformedCommand 0 (word 0 13 0 0), .roleStampWrite 1728, .thaw 1728, .tileIso 1728 true] : List Instr).all
      fun c => !c.wf) = true := by decide +kernel

theorem test_wf_home : ((List.range 23).all fun op =>
    !wfHome op (.tile 1728 (word 1 op 0 0)) && !wfHome op (.tile 0 (word 1 (op + 1) 0 0)) && !wfHome op (.unit (req false 8192 op 0))
      && !wfHome op (.unit (req true 2048 op 0)) && !wfHome op (.unit { req true 0 op 0 with part := 64 })
      && !wfHome op (.unit (req true 0 (op + 1) 0))) = true := by decide +kernel

theorem test_wf_home_rest : (([.signal (.unit (req false 0 1 0)), .wait (.unit (req false 0 0 0)), .trywait (.unit (req false 0 0 0)),
    .waitTo (.unit (req false 0 0 0)), .semRead (.unit (req false 0 0 0)), .set (.unit (req false 0 0 0)), .fetchAdd (.unit (req false 0 0 0)),
    .cas (.unit (req false 0 0 0)), .fetchMax (.unit (req false 0 0 0)), .fetchOr (.unit (req false 0 0 0)), .post (.unit (req true 0 0 0)),
    .acquire (.unit (req true 0 0 0)), .tryacquire (.unit (req true 0 0 0)), .acquirePri (.unit (req true 0 0 0)),
    .postTag (.unit (req true 0 0 0)), .acquireTag (.unit (req true 0 0 0)), .level (.unit (req true 0 0 0)),
    .acquirePriForward (req true 2047 19 0) 0, .acquirePriForward (req true 0 19 0) 16384, .homePick 4, .wakePass false 8192, .wakePass true 2048,
    .waiterExpiry 16384, .pollResend (req true 2048 19 0), .waiterRemoval 1728 true, .homeRsp (.barn 18) rsp,
    .homeRsp .die { rsp with dest := 1728 }, .undo 64 0, .undo 0 4, .undoComplete 64, .signalCombining (.stall 108) (req false 0 0 0),
    .signalCombining (.stall 0) (req false 8192 0 0), .mergeWindowClose (.half 2) 0] : List Instr).all fun c => !c.wf) = true := by decide +kernel

theorem test_wf_tree : (([.partialArrival (.stall 108) (.call part0), .partialArrival .die (.call { part0 with slot := 512 }),
    .partialArrival .die (.home (req false 8192 0 0)), .partialArrival .die (.ctrl { ctrl 0 with src := 1728 }),
    .freezeOrder 1728 1 0 0, .rootDecision .die 512, .emptyBoundaryApply 64, .idle (.half 2) 0 0 0, .active .die 512 0 0,
    .activeAcknowledgement (.barn 18) 0 0, .rearm (.stirrup 1728) 0 0 [], .cueArrival (.half 2) (cue 0), .cueArrival .die (cue 512),
    .cueArrival .die { cue 0 with profile := 8 }, .waveRelease 108 (cue 0), .waveRelease 0 (cue 512), .cueDelivery 1728 (cue 0),
    .auditPush 64 0, .tallyResponse .die { tally := 0, op := 24, nohold := false, dest := 1728, status := 0, role := 0, pay := 0 },
    .landReport 2 0 0 0, .landReport 0 4 0 0, .landReport 0 0 1024 0, .holdExpiry 512, .spacedRelease 512, .scheduledRelease 512,
    .cueDelivery 1728 (cue 511)] : List Instr).all fun c => !c.wf) = true := by decide +kernel

theorem test_wf_fabric : (([.spanPartial 4 (packet 1) true, .spanPartial 0 (packet 2) true, .spanCue 24 (packet 2) false,
    .spanIdle 0 (packet 4) true, .spanActive 7 (packet 4) true, .spanAbort 0 (packet 4) true, .fabricPacketDiscard 0 (packet 8),
    .fabricPacketDiscard 5 (packet 9), .heartbeat 4, .portTimeout 24, .tugTrained 4 true, .tugTraining 4 0 40, .tugResend 8, .house 4 0 0 0 0 0,
    .curtainPacket 0 (packet 7), .heartbeatArrival 6, .exchangeReply 0 0 0 0 true, .exchangeReply 24 0 0 0 true] : List Instr).all fun c => !c.wf) = true := by decide +kernel

theorem test_wf_faults : (([.curtainRaise 64 .tile true, .curtainLift 64 .tile true, .curtainLiftAbort 64 .tile true, .partReset 64 0 true,
    .faultReport (rep 32 0), .faultReport (rep 64 108), .faultReport (rep 1 4096), .faultReport { rep 1 0 with unit := 256 },
    .faultReport { rep 1 0 with part := some 64 }, .patrolScrub (some (.slot (.stirrup 0) 0 none 0)), .patrolScrub (some (.slot .die 512 none 0)),
    .patrolScrub (some (.lockstep (.barn 0) 0 0)), .patrolScrub (some (.lockstep .die 512 0)), .patrolScrub (some (.packet .die true)),
    .patrolScrub (some (.state 64 0 0 0)), .patrolScrub (some (.state 0 256 0 0)), .patrolScrub (some (.journal 64)), .patrolScrub (some (.retention 1728)),
    .patrolScrub (some (.corrected 256 0 0)), .patrolScrub (some (.die 256 0)), .bistStart 8 0, .bistStart 0 256, .attrClear 4096] : List Instr).all
      fun c => !c.wf) = true := by decide +kernel

theorem test_wf_host : (([.create 64, .destroy 64, .reset 64, .revoke 64, .doneForced 64, .resume 64, .split 64, .partQuiesce (desc 9 0), .quiesced 64,
    .sqDoorbell 64 0 0, .sqDoorbell 0 4 0, .sqEnable 64 0 0, .sqReset 0 4, .cqReset 64, .eqReset 64, .cqDoorbell 64 0,
    .descriptorDecode { desc 0 0 with d := [] }, .descriptorDecode { desc 0 0 with ring := 4 }, .nop (desc 1 0), .hostCall (desc 1 1),
    .hostAbstain (desc 1 0), .hostRejoin (desc 1 1), .hostCallCompletion (cue 512), .semOp (desc 3 0), .tokenOp (desc 2 0), .tallyOp (desc 5 0),
    .stageConfig (desc 6 0), .watchSet (desc 5 0), .traceMark (desc 8 0), .snapshot (desc 7 0), .dmaFault 64 .event, .dmaFault 0 (.descRead 4),
    .dmaFault 0 (.snapshot 4), .irqTimer 64, .indexWriteback 64] : List Instr).all fun c => !c.wf) = true := by decide +kernel

theorem test_wf_registers : (([.pctrLowRead 64 0, .pctrLowRead 0 16, .hcTimeLoRead (some 64), .rcCounterRead (.tile 1728) 0 4, .rcCounterRead (.tile 0) 64 4,
    .rcCounterRead .manager 0x1_0000 4, .rcCounterRead (.page 0) 0x1000 4, .rcCounterRead (.page 64) 0xB4 4, .rcCounterRead .mgmt 0x2_0000 4, .freeze (some 512), .pcSample 1728 0 0,
    .wpOwnerWrite 16 0, .flashRead { copy false [] with spiMode := 5 }, .bookCheck { copy false [] with spiMode := 5 }, .regionSleep 18 true,
    .rosterStage 2048 0, .registerWrite (.tile 1728) 0 4 0, .registerWrite (.tile 0) 64 4 0, .registerWrite .manager 0x1_0000 4 0,
    .registerWrite .mgmt 0x2_0000 4 0, .registerWrite (.page 64) 0 4 0, .registerWrite (.page 0) 0x1000 4 0] : List Instr).all
      fun c => !c.wf) = true := by decide +kernel

/-! ## Values of the spec -/

/-- What a command leaves, seen by `f`; none where it does not complete. -/
def after {α : Type} (c : Instr) (s : State) (f : State → α) : Option α :=
  match exec c s with | .next t => some (f t) | _ => none

/-- Good tiles: all but stirrups 1,700 to 1,727 (the example after R336). -/
def goodMap : BitVec 1728 := BitVec.ofNat 1728 (2 ^ 1700 - 1)

def fuses : Fuses := { Fuses.blank with grade := 1, keyHash := 1, goodMap := goodMap }

/-- The register reads of the example after R336. -/
theorem test_reset_release_reads : after (.resetRelease fuses) State.reset (fun t =>
    [readWord t .manager 0x0000, readWord t .manager 0x0004, readWord t .manager 0x0008, readWord t .manager 0x000C, readWord t .manager 0x0120])
      = some [0x574E_5548, 0x0100_0000, 0x0000_0001, 0xFA00_0580, 0] := by decide +kernel

/-- UHK_CLK_STAT reads 0x28 once a frame of 40 edges has been measured. -/
theorem test_clock_status : readWord on (.page 0) 0x100 = 0x2000_0000 ∧
    after (.houseFrame 40 128) { on with house := { on.house with lead := 0, fresh := false, edge := 39, n := 40, frameNo := 1 } } (fun t => readWord t .manager 0x0120) = some 0x28 := by
  decide +kernel

/-- R304: the stirrups 0 to 1,407 carry VTILE 0 to 1,407; the good ones above are spares. -/
theorem test_fuse_roster :
    let l := rosterOf goodMap 1408 0
    l.length = 1408 ∧ l[0]? = some (0, 0x8000_0000#32) ∧ l[37]? = some (37, 0x8025_0000#32) ∧ l[1407]? = some (1407, 0x857F_0000#32) := by
  decide +kernel

/-- Worked sums of 04: FP32 XSUM of 1.0 and twice 2^-24 is 0x3F80_0001, exact. -/
theorem test_xsum_fp32 :
    let w := fun (x : Nat) => widen opXSUM fmtFP32 false (BitVec.ofNat 128 x)
    let c := combine opXSUM fmtFP32 false
    let r := finish opXSUM fmtFP32 false (c (c (w 0x3F800000) (w 0x33800000)) (w 0x33800000))
    r.1.toNat % 2 ^ 32 = 0x3F80_0001 ∧ r.2.1 = false ∧ r = finish opXSUM fmtFP32 false (c (w 0x3F800000) (c (w 0x33800000) (w 0x33800000))) := by
  decide +kernel

/-- FP16 XSUM of 2,048.0, 3.5 and -0.5 rounds to 2,052.0, inexact. -/
theorem test_xsum_fp16 :
    let w := fun (x : Nat) => widen opXSUM fmtFP16 false (BitVec.ofNat 128 x)
    let c := combine opXSUM fmtFP16 false
    let r := finish opXSUM fmtFP16 false (c (c (w 0x6800) (w 0x4300)) (w 0xB800))
    r.1.toNat % 2 ^ 16 = 0x6802 ∧ r.2.1 = true := by decide +kernel

/-- E4M3 XSUM of 256 and 224 overflows; of 256 and 208 it rounds to 448. -/
theorem test_xsum_e4m3 :
    let w := fun (x : Nat) => widen opXSUM fmtE4M3 false (BitVec.ofNat 128 x)
    let r := fun sat y => let z := finish opXSUM fmtE4M3 sat (combine opXSUM fmtE4M3 false (w 0x78) (w y)); (z.1.toNat % 2 ^ 8, z.2.1, z.2.2)
    r false 0x76 = (0x7F, true, true) ∧ r true 0x76 = (0x7E, true, true) ∧ r false 0x75 = (0x7E, true, false) := by decide +kernel

/-- Table CMB-1: SUM_WRAP wraps in its lane, SUM_SAT clamps once at the root, MIN orders by sign. -/
theorem test_integer_lanes :
    let run := fun op f a b => (finish op f false (combine op f false (widen op f false (BitVec.ofNat 128 a)) (widen op f false (BitVec.ofNat 128 b)))).1.toNat
    run opSUMWRAP fmtINT32 0xFFFF_FFFF 1 = 0 ∧ run opSUMSAT fmtINT32 0x7FFF_FFFF 1 % 2 ^ 32 = 0x7FFF_FFFF
      ∧ run opMIN fmtINT16 0xFFFF 1 % 2 ^ 16 = 0xFFFF ∧ run opMAX fmtUINT32 0xFFFF_FFFF 1 % 2 ^ 32 = 0xFFFF_FFFF := by decide +kernel

/-- R228: barn 4 holds stalls 21, 22, 23 as indices 0 to 2 and 30, 31, 32 as 3 to 5. -/
theorem test_understudy_index :
    (List.range 108).filter (fun k => barnOf k == 4) = [21, 22, 23, 30, 31, 32]
      ∧ ∀ i ∈ List.range 6, understudyOf { on with force := [(usKey 4, BitVec.ofNat 32 (8 + i))] } ([21, 22, 23, 30, 31, 32].getD i 0) = true := by
  decide +kernel

/-- R31: at n = 40 edge 15 carries 48.0 ticks and edge 16 carries 51.2, the first at or after frame_start + 50. -/
theorem test_edge_of_release :
    let at_ := fun e => { on with house := { on.house with n := 40, edge := e } }
    edgeReached (at_ 15) 50 = false ∧ edgeReached (at_ 16) 50 = true ∧ houseNow (at_ 16) = 51 := by decide +kernel

/-- Table STR-8: a command word taken apart. -/
theorem test_command_word :
    let w : W32 := 0x3AB5_E1FF
    cClass w = 3 ∧ cOp w = 0x15 ∧ cFmt w = 6 ∧ cVote w = 2 ∧ cNohold w = true ∧ cScope w = 7 ∧ cId w = 0x1FF := by decide +kernel

/-- R62, Table STR-14: the lowest cause that applies. -/
theorem test_causes :
    stirrupCause true 0x5000_0000 = 1 ∧ stirrupCause true (word 0 14 0 0) = 2 ∧ stirrupCause true (word 0 0 0 512) = 3
      ∧ stirrupCause false (word 0 0 0 0) = 4 ∧ stirrupCause true (word 1 1 1 0) = 3 ∧ stirrupCause true 0x0000_0000 = 0 := by decide +kernel

/-! ### The home (Table HOM-4) -/

def semRun (op : Nat) (v : W32) (pay : W128) : Option W32 :=
  let r := HomeSite.unit (req false 5 op pay)
  let s := objAt false 5 { Obj.none with val := v } on
  let val := fun (t : State) => (obj t false 5).val
  match op with
  | 0 => after (.signal r) s val
  | 1 => after (.wait r) s val
  | 5 => after (.set r) s val
  | 6 => after (.fetchAdd r) s val
  | 7 => after (.cas r) s val
  | 8 => after (.fetchMax r) s val
  | _ => after (.fetchOr r) s val

theorem test_home_values :
    semRun 0 0xFFFF_FFFE 5 = some 0xFFFF_FFFF ∧ semRun 1 7 3 = some 4 ∧ semRun 5 7 9 = some 9 ∧ semRun 6 0xFFFF_FFFF 2 = some 1
      ∧ semRun 7 7 (7 + 9 * 2 ^ 32) = some 9 ∧ semRun 7 8 (7 + 9 * 2 ^ 32) = some 8 ∧ semRun 8 7 6 = some 7 ∧ semRun 8 7 0x8000_0000 = some 0x8000_0000
      ∧ semRun 9 0x0F 0xF0 = some 0xFF := by decide +kernel

/-- R153: a tagged pool is a FIFO. -/
theorem test_tags :
    let s := { objAt true 5 { Obj.none with val := 1, tags := [7] } on with force := [(objCfgKey true 5, 0x2000_0002#32)] }
    after (.postTag (.unit (req true 5 0x14 9))) s (fun t => (obj t true 5).tags) = some [7, 9]
      ∧ after (.acquireTag (.unit (req true 5 0x15 0))) s (fun t => ((obj t true 5).tags, (obj t true 5).val)) = some ([], 0) := by decide +kernel

/-! ### The stirrup -/

/-- R58, R49: a CALL makes the call pending and takes a link; R53: a second answers BUSY. -/
theorem test_call :
    after (.call 1727 (word 0 0 0 7)) (withStir worker) (fun t => ((stir t 1727).call.map (·.slot), t.tree.links.length)) = some (some 7, 1)
      ∧ after (.call 1727 (word 0 0 0 7)) (withStir { worker with call := some (pend 3 false) }) (fun t => (stir t 1727).status) = some stBusy := by
  decide +kernel

/-- R50, R52: FENCE waits, ARM goes in flight. -/
theorem test_fence_arm :
    let remote := { worker with outPkg := 1 }
    after (.fence 1727 0x3000_4000) (withStir remote) (fun t => (stir t 1727).fence) = some (some 2)
      ∧ after (.arm 1727 (word 2 24 0 1023)) (withStir worker) (fun t => (stir t 1727).exactFly.length) = some 1 := by decide +kernel

/-- R63, Table STR-14: reserved CLASS 5 freezes with cause 1. -/
theorem test_bad_class :
    after (.malformedCommand 1727 0x5000_0000) (withStir worker) (fun t => ((stir t 1727).frozen, (stir t 1727).cause)) = some (true, 1) := by decide +kernel

/-- Table STR-6: 1,023 is the largest count; one more freezes with cause 5. -/
theorem test_remote_writes :
    after (.remoteWriteReport 1727 3) (withStir { worker with outFab := 1022 }) (fun t => (stir t 1727).outFab) = some 1023
      ∧ after (.remoteWriteReport 1727 3) (withStir { worker with outFab := 1023 }) (fun t => (stir t 1727).cause) = some 5 := by decide +kernel

/-- R54: a cue writes result and status. -/
theorem test_cue_delivery :
    after (.cueDelivery 1727 { cue 511 with data := 9, status := stReplay }) (withStir { worker with call := some (pend 511 false) })
      (fun t => ((stir t 1727).res, (stir t 1727).status, (stir t 1727).call)) = some (9, stReplay, none) := by decide +kernel

/-! ### Tallies (Table MEM-5) -/

/-- TCLK 36 and after: the count 32 and 16 units complete EXPECT 48. -/
theorem test_tally_completes :
    let s := { on with tly := { on.tly with tbl := [(15, { Tally.none with count := 32, expect := 48, armed := true })],
                                            due := [{ due := 0, act := .report 0 0 15 16 }] } }
    after .tallyReqArrival s (fun t => tally t 15) = some { count := 0, expect := 48, armed := false, done := true, compl := 1, flagseen := false } := by
  decide +kernel

/-- R173: a report of 64 units is due, one of 65 is discarded. -/
theorem test_land_report :
    after (.landReport 1 3 15 64) on (fun t => t.tly.due.length) = some 1 ∧ after (.landReport 1 3 15 65) on (fun t => t.tly.due.length) = some 0 := by
  decide +kernel

/-! ### Power, curtains, faults, rings, observation -/

theorem test_budget : after (.budgetChange 3) on (fun t => t.pwr.budget) = some 2 := by decide +kernel

theorem test_curtain :
    after (.curtainRaise 0 .manager false) on (fun t => (part t 0).causes) = some 0x10
      ∧ after (.curtainLift 0 .tenant true) (withPart (Part.initial .active) { on with parts := [] }) (fun t => (part t 0).curtain) = some 0 := by
  decide +kernel

/-- Table FLT-11: a record of type 0x0D has SEV 2. -/
theorem test_fault_record :
    after (.faultReport (rep 0x0D 7)) on (fun t => (t.flt.log.map fun x => (x.1, x.2.sev, x.2.seq), t.flt.head)) = some ([(0, 2, 0)], 1) := by
  decide +kernel

/-- R255: PROD 64 lies within a ring of 64 entries, 65 stops it with cause 0x04. -/
theorem test_doorbell :
    let go := withPage [(pageKey 63 0x68, 0x8000_0006#32)] on
    after (.sqDoorbell 63 3 64) go (fun t => (pageReg t 63 0x6C, pageReg t 63 0x68)) = some (64, 0x8000_0006)
      ∧ after (.sqDoorbell 63 3 65) go (fun t => pageReg t 63 0x68) = some 0xC004_0006 := by decide +kernel

/-- Table INT-1, R254: the size field of a ring is 6 to 16. -/
theorem test_sq_enable :
    after (.sqEnable 63 3 0x8000_0010) on (fun t => pageReg t 63 0x68) = some 0x8000_0010
      ∧ after (.sqEnable 63 3 0x8000_0011) on (fun t => pageReg t 63 0x68) = some 0x8000_0006 := by decide +kernel

theorem test_part_quiesce :
    after (.partQuiesce (descOf 10 0)) (withDesc (descState (descOf 10 0) []) on) (fun t => (part t 0).state) = some .quiescing := by decide +kernel

/-- R272: the low word first, then the latched high word of the same moment. -/
theorem test_counter_latch :
    let s := { on with parts := [(0, { Part.initial .active with counters := [(0, 0x0000_0005_0000_0009#64)] })] }
    after (.pctrLowRead 0 0) s (fun t => (t.su.rdata, (part t 0).pctrHi)) = some (9, 5) := by decide +kernel

/-- R17: an RC register reads and clears; an increment of the same cycle is not returned and stays. -/
theorem test_rc_read :
    let s := { on with flt := { on.flt with lost := 7 } }
    after (.rcCounterRead .manager 0x4810 4) s (fun t => (t.su.rdata, t.flt.lost)) = some (7, 0)
      ∧ after (.rcCounterRead .manager 0x4810 4) { s with cyc := { s.cyc with rc := [(0x4810, 5)] } } (fun t => (t.su.rdata, t.flt.lost))
        = some (5, 2) := by decide +kernel

/-- R19: a lock bit stays set. -/
theorem test_lock :
    after (.lockWrite 0) { on with force := [(0x0010, 0x40#32)] } (fun t => reg t 0x0010) = some 0x40
      ∧ after (.registerWrite .manager 0x0010 4 0x80) on (fun t => reg t 0x0010) = some 0x80 := by decide +kernel

/-- R241, Table PAR-5: SPLIT with k = 3 leaves partition 0 slots 0 to 7 and gives partition 1 slots 8 to 151 and 448 to 463 (by groups of 8). -/
theorem test_split :
    after (.split 3) on (fun t => [7, 8, 151, 152, 447, 448, 463, 464].map fun i => (mapBit t 0 0x18 (i / 8), mapBit t 1 0x18 (i / 8)))
      = some [(true, false), (false, true), (false, true), (false, false), (false, false), (false, true), (false, true), (false, false)] := by
  decide +kernel

/-- R311: RETRY after a halt reads again. -/
theorem test_retry :
    after .retry { on with boot := { on.boot with halted := true, resA := 2, resB := 3 } } (fun t => (t.boot.halted, t.boot.resA, t.boot.spiBusy))
      = some (false, 0, true) := by decide +kernel

/-- An empty queue lets time pass: the first edge after that of reset is one of ECLK (log 1, log 2). -/
theorem test_idle_step : (match step on with | .next t => (t.clk.tclk, t.clk.eclk) | _ => (0, 0)) = (0, 1) := by decide +kernel

/-! ## Witnesses: stirrup, tree and home -/

def wS : State := withStir worker
def qS : State := withStir { worker with cmdQ := [cmd (word 2 24 0 1023)] }
def quS : State := { (withStir { worker with call := some (pend 511 false) }) with force := [(slotKey 511 0, 0xC000_0000#32)] }
def fullS : State := withStir { worker with outDie := 1023, outPkg := 1023, outFab := 1023 }
def newR : Stirrup := { worker with newRole := some 0x8000_0400 }
def tReq : TallyReq := { tally := 1023, op := 24, nohold := false, src := 1727, part := 1, pay := 2, leftT := 0, ring := 0, didx := 0, word := 0 }
def mergesS (l : List MergeRec) : State := { on with tree := { on.tree with merges := l } }
def m1 : MergeRec := merge 7 [(1727, 0, false, 0)]
def m2 : MergeRec := merge 7 [(1727, 0, false, 0), (1726, 0, false, 0)]
def callS (f : Bool) : State := withStir { worker with call := some (pend 511 false), frozen := f }
def ticked : State := { on with clk := { on.clk with tclk := 1 } }
def nodeS (x : NodeSlot) : State := withNode (.barn 17) x
def abS : State := { member [] with tree := { on.tree with nodes := [(nodeKey (.stall (stallOf 1727)) 7, { NodeSlot.none with epoch := 1 })] } }
def cS (l : Tbl W32) : State := { wS with force := l }
def smallC : State := { cS [(0x5000, 0x8000_0000#32)] with parts := [(0, { Part.initial .active with shareEff := 1 })] }
def v5 (k : Bool) (i : Nat) : State := objAt k i { Obj.none with val := 5 } on
def resetting63 : State := withPart (Part.initial .resetting) on
def cfg47 (s : State) : State := { s with force := [(objCfgKey true 2047, 0x2000_0002#32)] }
def priR : HomeReq := req true 2046 19 1
def poorS : State := { objAt true 2046 { Obj.none with seq := 1, fifo := [(16383, 0)] } on with waiters := [(16383, waiting priR 0)] }
def richS : State := { poorS with objs := poorS.objs ++ [(objIx true 2047, { Obj.none with val := 1 })] }
def tagS : State := cfg47 (objAt true 2047 { Obj.none with val := 1, tags := [7] } on)
def r0 : HomeReq := { req false 8191 6 1 with part := 0 }
def cross0 : Crossing := { due := 0, req := r0, entry := none }
def w0 : Waiter := { waiting (req false 8191 1 1) 0 with req := { req false 8191 1 1 with part := 0 } }
def queuedS (v : W32) (x : Waiter) : State := { objAt false 8191 { Obj.none with val := v, seq := 1, fifo := [(16383, 0)] } on with waiters := [(16383, x)] }

theorem witness_CallBecomesPendingAndLeaves :
    (let s : State := wS
     let st : Nat := 1727
     let w : W32 := word 0 13 0 511
     cClass w = 0 ∧ opListed 0 (cOp w) = true ∧ IssuesAtOnce s st w)
      ∧ (let s : State := withStir { worker with call := some (pend 3 false) }
         let st : Nat := 1727
         let w : W32 := word 0 0 0 511
         let x := stir s st
         let pending := st < nStirrup ∧ x.frozen = false ∧ x.iso = false ∧ x.cmdQ = [] ∧ mustQueue s x = false ∧ x.call.isSome = true ∧
           stirrupCause (wAssigned x.role) w = 0
         pending ∧ cClass w = 0)
      ∧ (let s : State := withStir { worker with call := some (pend 3 false) }
         let st : Nat := 1727
         let w : W32 := word 2 26 0 1023
         let x := stir s st
         let pending := st < nStirrup ∧ x.frozen = false ∧ x.iso = false ∧ x.cmdQ = [] ∧ mustQueue s x = false ∧ x.call.isSome = true ∧
           stirrupCause (wAssigned x.role) w = 0
         pending ∧ wordIs 2 0x1A w = true ∧ cNohold w = false)
      ∧ (let s : State := withStir { worker with call := some (pend 3 false) }
         let st : Nat := 1727
         let w : W32 := word 1 1 0 8191
         let x := stir s st
         let pending := st < nStirrup ∧ x.frozen = false ∧ x.iso = false ∧ x.cmdQ = [] ∧ mustQueue s x = false ∧ x.call.isSome = true ∧
           stirrupCause (wAssigned x.role) w = 0
         pending ∧ wordIs 1 0x01 w = true ∧ cNohold w = false)
      ∧ (let s : State := withStir { worker with call := some (pend 3 false) }
         let st : Nat := 1727
         let w : W32 := word 1 6 0 8191
         let x := stir s st
         let pending := st < nStirrup ∧ x.frozen = false ∧ x.iso = false ∧ x.cmdQ = [] ∧ mustQueue s x = false ∧ x.call.isSome = true ∧
           stirrupCause (wAssigned x.role) w = 0
         pending ∧ wordIs 1 0x06 w = true ∧ cNohold w = false) := by
  unfold IssuesAtOnce; refine ⟨?_, ?_, ?_, ?_, ?_⟩ <;> decide +kernel

theorem witness_HomeCommandsTakeARequestNumber :
    (stir wS 1727).homeQ = [] ∧ freeRid (stir wS 1727) = some 0 ∧
    ∀ op ∈ [0, 1, 2, 3, 4, 5, 6, 7, 8, 9, 16, 17, 18, 19, 20, 21, 22],
      IssuesAtOnce wS 1727 (word 1 op 0 2046) ∧ wordIs 1 op (word 1 op 0 2046) = true := by
  unfold IssuesAtOnce; decide +kernel

theorem witness_ExactCommandsGoInFlight : ∀ c ∈ [(2, 24, 1023), (2, 25, 1023), (2, 26, 1023), (4, 0, 511), (4, 1, 511), (4, 2, 0), (4, 3, 8191)],
    IssuesAtOnce wS 1727 (word c.1 c.2.1 0 c.2.2) ∧ wordIs c.1 c.2.1 (word c.1 c.2.1 0 c.2.2) = true := by
  unfold IssuesAtOnce; decide +kernel

theorem witness_FencesAndQueuedCommandsIssueInTurn :
    (let s : State := wS
     let st : Nat := 1727
     let w : W32 := 0x3000_4000
     let x := stir s st
     st < nStirrup ∧ wordIs 3 0 w = true ∧ IssuesAtOnce s st w ∧ x.homeQ = [] ∧ x.cmdQ = [])
      ∧ (let s : State := qS
         let st : Nat := 1727
         let c : StirCmd := cmd (word 2 24 0 1023)
         let x := stir s st
         st < nStirrup ∧ x.homeQ = [] ∧ x.cmdQ = [c] ∧ cClass c.word = 2 ∧ x.frozen = false ∧ mustQueue s x = false ∧ x.call = none ∧
           x.exactFly.length < 2 ∧ stirrupCause (wAssigned x.role) c.word = 0)
      ∧ (let s : State := { qS with boot := { qS.boot with draining := true } }
         let st : Nat := 1727
         let x := stir s st
         st < nStirrup ∧ x.homeQ = [] ∧ mustQueue s x = true) := by
  unfold IssuesAtOnce; refine ⟨?_, ?_, ?_⟩ <;> decide +kernel

theorem witness_FrozenTilesTakeNoCommand :
    (let s : State := wS
     let st : Nat := 1727
     let w : W32 := word 5 0 0 0
     let x := stir s st
     st < nStirrup ∧ x.frozen = false ∧ x.iso = false ∧ opListed (cClass w) (cOp w) = false)
      ∧ (let s : State := withStir { worker with frozen := true }
         let st : Nat := 1727
         let x := stir s st
         st < nStirrup ∧ x.frozen = true) := by
  refine ⟨?_, ?_⟩ <;> decide +kernel

theorem witness_SyncWindowAccessesTakeEffect :
    (let s : State := wS
     let st : Nat := 1727
     let x := stir s st
     st < nStirrup ∧ quiesceCall s x = false)
      ∧ (let s : State := quS
         let st : Nat := 1727
         let c : PendCall := pend 511 false
         let x := stir s st
         st < nStirrup ∧ x.call = some c ∧ quiesceCall s x = true) := by
  refine ⟨?_, ?_⟩ <;> decide +kernel

theorem witness_RemoteWriteCountersCount :
    (let st : Nat := 1727
     let k : BitVec 2 := 0#2
     st < nStirrup ∧ k = 0#2)
      ∧ (let s : State := wS
         let st : Nat := 1727
         let k : BitVec 2 := 1#2
         let x := stir s st
         st < nStirrup ∧ k ≠ 0#2 ∧ (outOf k x).toNat ≠ 1023 ∧ outOf k x = 0)
      ∧ (let s : State := fullS
         let st : Nat := 1727
         let k : BitVec 2 := 1#2
         let x := stir s st
         st < nStirrup ∧ k ≠ 0#2 ∧ (outOf k x).toNat = 1023 ∧ x.frozen = false ∧ outOf k x ≠ 0) := by
  refine ⟨?_, ?_, ?_⟩ <;> decide +kernel

theorem witness_RoleStampWaitsForQuiet :
    (let s : State := withStir newR
     let st : Nat := 1727
     let r : W32 := 0x8000_0400
     let x := stir s st
     st < nStirrup ∧ (stir s st).newRole = some r ∧ roleReady x = true)
      ∧ (let s : State := withStir { newR with call := some (pend 0 false) }
         let st : Nat := 1727
         let r : W32 := 0x8000_0400
         let x := stir s st
         st < nStirrup ∧ (stir s st).newRole = some r ∧ ((x.call.any fun c => !c.boot) = true ∨ x.fence.isSome = true ∨ homeout x ≠ 0 ∨
           x.exactFly ≠ [])) := by
  refine ⟨?_, ?_⟩ <;> decide +kernel

theorem witness_PartialsJoinOrAreStale :
    (let s : State := on
     let at_ : Place := .barn 17
     let p : Partial := part0
     let ns := node s at_ p.slot
     at_ ∈ (List.range 18).map Place.barn ++ [.half 0, .half 1] ∧ p.slot < 512 ∧ outOfService s at_ = false ∧ isCount s p.slot = false ∧
       p.gen = ns.epoch.setWidth 6 ∧ ns.sent = false ∧ p.child ∉ ns.cur.kids)
      ∧ (let s : State := on
         let at_ : Place := .barn 17
         let p : Partial := { part0 with gen := 2 }
         let ns := node s at_ p.slot
         at_ ∈ (List.range 18).map Place.barn ++ [.half 0, .half 1] ∧ p.slot < 512 ∧ outOfService s at_ = false ∧ isCount s p.slot = false
           ∧ p.gen ≠ ns.epoch.setWidth 6 ∧ p.gen ≠ (ns.epoch + 1).setWidth 6) := by
  refine ⟨?_, ?_⟩ <;> decide +kernel

theorem witness_RequestsRiseToTheirUnits :
    let s : State := on
    let r : HomeReq := req false 8191 6 0
    let y : TallyReq := tReq
    let b : Nat := 17
    let h : Nat := 1
    b < 18 ∧ h < 2 ∧ r.obj < 8192 ∧ r.part < 64 ∧ y.tally < 1024 ∧ y.part < 64 ∧ outOfService s (.barn b) = false ∧ ((r.tok = true ∨
      findWindow s (.barn b) r.obj = none)) ∧ ((r.tok = true ∨ findWindow s (.half h) r.obj = none)) := by
  decide +kernel

theorem witness_SignalsMergeInAWindow :
    (let s : State := on
     let b : Nat := 17
     let i : Nat := 0
     let r : HomeReq := req false 8191 0 1
     let at_ := Place.barn b
     b < 18 ∧ r.obj < 8192 ∧ outOfService s (.barn b) = false ∧ findWindow s at_ r.obj = none ∧ freeRecord s at_ = some i)
      ∧ (let s : State := mergesS [m1]
         let b : Nat := 17
         let i : Nat := 7
         let r : HomeReq := req false 8191 0 1
         let m : MergeRec := m1
         let at_ := Place.barn b
         b < 18 ∧ r.obj < 8192 ∧ outOfService s (.barn b) = false ∧ findWindow s at_ r.obj = some m ∧ s.tree.merges.find? (fun x => x.node
           == 126 + b && x.idx == i && !x.sent) = some m)
      ∧ (let s : State := mergesS ((List.range 8).map fun i => { merge i [] with sem := 0 })
         let b : Nat := 17
         let r : HomeReq := req false 8191 0 1
         let at_ := Place.barn b
         b < 18 ∧ r.obj < 8192 ∧ outOfService s (.barn b) = false ∧ findWindow s at_ r.obj = none ∧ freeRecord s at_ = none) := by
  refine ⟨?_, ?_, ?_⟩ <;> decide +kernel

theorem witness_EpochsMoveWithIdleActiveAndRearm :
    (let s : State := callS false
     let st : Nat := 1727
     let b : Nat := 17
     let slot : Nat := 511
     let k : Nat := 107
     let g : BitVec 6 := 0
     let e : W32 := 5
     let i : W32 := 0
     let c : PendCall := pend 511 false
     let at_ := Place.barn b
     let ns := node s at_ slot
     st < nStirrup ∧ b < 18 ∧ slot < 512 ∧ outOfService s (.barn b) = false ∧ genEpoch ns g = some i ∧ leftOut ns k i = false ∧ (genEpoch
       ns g).isSome = true ∧ ns.idleSent = false ∧ ns.ackWait = false ∧ notBefore e ns.epoch = false ∧ e ≠ ns.epoch + 1 ∧ e ≠ 0#32 ∧ (stir
       s st).call = some c ∧ c.slot = slot ∧ c.boot = false ∧ (stir s st).frozen = false)
      ∧ (let s : State := ticked
         let st : Nat := 1727
         let b : Nat := 17
         let slot : Nat := 511
         let g : BitVec 6 := 0
         let at_ := Place.barn b
         let ns := node s at_ slot
         st < nStirrup ∧ b < 18 ∧ slot < 512 ∧ outOfService s (.barn b) = false ∧ 0 < s.clk.tclk ∧ isCount s slot = false ∧ g =
           ns.epoch.setWidth 6)
      ∧ (let s : State := ticked
         let st : Nat := 1727
         let b : Nat := 17
         let slot : Nat := 511
         let k : Nat := 107
         let g : BitVec 6 := 2
         let i : W32 := 0
         let at_ := Place.barn b
         let ns := node s at_ slot
         st < nStirrup ∧ b < 18 ∧ slot < 512 ∧ outOfService s (.barn b) = false ∧ ((genEpoch ns g = none ∨ (genEpoch ns g = some i ∧
           leftOut ns k i = true))) ∧ genEpoch ns g = none ∧ g ≠ ns.epoch.setWidth 6) := by
  refine ⟨?_, ?_, ?_⟩ <;> decide +kernel

theorem witness_AbstentionsAtTheStall :
    let s : State := abS
    let c : CtrlPkt := ctrl (word 4 1 0 7)
    let slot := cId c.word
    let at_ := Place.stall (stallOf c.src)
    let ns := node s at_ slot
    c.src < nStirrup ∧ s.tree.frozen.contains c.src = false ∧ wAssigned (stir s c.src).role = true ∧ stallCauseSlot s c.src slot false 0 0
      = 0 ∧ inReset s slot = false ∧ isCount s slot = false ∧ wordIs 4 1 c.word = true ∧ ns.epoch ≠ 0 := by
  decide +kernel

theorem witness_TileCurtainNeedsItsRight :
    (let s : State := cS [(partKey 0 0, 0x0080_0000#32)]
     let c : CtrlPkt := ctrl (word 4 2 0 0)
     let p := shadowPart s c.src
     c.src < nStirrup ∧ s.tree.frozen.contains c.src = false ∧ wAssigned (stir s c.src).role = true ∧ wordIs 4 2 c.word = true ∧ bitB (reg
       s (partKey p 0)) 23 = true)
      ∧ (let s : State := wS
         let c : CtrlPkt := ctrl (word 4 2 0 0)
         let p := shadowPart s c.src
         c.src < nStirrup ∧ s.tree.frozen.contains c.src = false ∧ wAssigned (stir s c.src).role = true ∧ wordIs 4 2 c.word = true ∧ bitB
           (reg s (partKey p 0)) 23 = false ∧ (stir s c.src).frozen = false)
      ∧ (let s : State := wS
         let c : CtrlPkt := ctrl (word 4 3 0 8191)
         c.src < nStirrup ∧ s.tree.frozen.contains c.src = false ∧ wAssigned (stir s c.src).role = true ∧ wordIs 4 3 c.word = true ∧
           traceMode s ≠ 2)
      ∧ (let s : State := smallC
         let c : CtrlPkt := ctrl (word 4 3 0 8191)
         let p := shadowPart s c.src
         c.src < nStirrup ∧ s.tree.frozen.contains c.src = false ∧ wAssigned (stir s c.src).role = true ∧ wordIs 4 3 c.word = true ∧
           traceMode s = 2 ∧ (part s p).shareEff ≠ 0) := by
  refine ⟨?_, ?_, ?_, ?_⟩ <;> decide +kernel

theorem witness_SemaphoreValuesFollowTheirOperation :
    (let s : State := v5 false 8191
     let r : HomeReq := req false 8191 4 5
     let inReset := (part s r.part).state = .resetting
     r.src < nStirrup ∧ reqOk r = true ∧ r.op = 0x04#5 ∧ ¬ inReset)
      ∧ (let s : State := v5 false 8191
         let r : HomeReq := req false 8191 5 5
         let inReset := (part s r.part).state = .resetting
         r.src < nStirrup ∧ reqOk r = true ∧ r.op = 0x05#5 ∧ ¬ inReset)
      ∧ (let s : State := v5 false 8191
         let r : HomeReq := req false 8191 6 0xFFFFFFFC
         let inReset := (part s r.part).state = .resetting
         r.src < nStirrup ∧ reqOk r = true ∧ r.op = 0x06#5 ∧ ¬ inReset)
      ∧ (let s : State := v5 false 8191
         let r : HomeReq := req false 8191 7 (5 + 2^33)
         let inReset := (part s r.part).state = .resetting
         r.src < nStirrup ∧ reqOk r = true ∧ r.op = 0x07#5 ∧ ¬ inReset)
      ∧ (let s : State := v5 false 8191
         let r : HomeReq := req false 8191 8 9
         let inReset := (part s r.part).state = .resetting
         r.src < nStirrup ∧ reqOk r = true ∧ r.op = 0x08#5 ∧ ¬ inReset)
      ∧ (let s : State := v5 false 8191
         let r : HomeReq := req false 8191 9 10
         let inReset := (part s r.part).state = .resetting
         r.src < nStirrup ∧ reqOk r = true ∧ r.op = 0x09#5 ∧ ¬ inReset)
      ∧ (let s : State := v5 false 8191
         let r : HomeReq := req false 8191 0 0xFFFFFFFF
         let inReset := (part s r.part).state = .resetting
         r.src < nStirrup ∧ reqOk r = true ∧ r.op = 0x00#5 ∧ ¬ inReset)
      ∧ (let s : State := cfg47 (v5 true 2047)
         let r : HomeReq := req true 2047 16 3
         let inReset := (part s r.part).state = .resetting
         r.src < nStirrup ∧ reqOk r = true ∧ r.op = 0x10#5 ∧ ¬ inReset ∧ r.tok = true ∧ tagged s r.obj = true)
      ∧ (let s : State := v5 true 2047
         let r : HomeReq := req true 2047 16 3
         let inReset := (part s r.part).state = .resetting
         r.src < nStirrup ∧ reqOk r = true ∧ r.op = 0x10#5 ∧ ¬ inReset ∧ r.tok = true ∧ tagged s r.obj = false)
      ∧ (let s : State := resetting63
         let r : HomeReq := req true 2047 16 3
         let inReset := (part s r.part).state = .resetting
         r.src < nStirrup ∧ reqOk r = true ∧ inReset) := by
  refine ⟨?_, ?_, ?_, ?_, ?_, ?_, ?_, ?_, ?_, ?_⟩ <;> decide +kernel

theorem witness_CountsAreTakenOrWaitedFor :
    (let s : State := v5 false 8191
     let r : HomeReq := req false 8191 1 5
     let o := obj s r.tok r.obj
     let n := pay0 r.pay
     let outs : List (BitVec 5 × Bool × Host.Outcome State Fault Refusal) := [(0x01#5, false, exec (.wait (.unit r)) s), (0x02#5, false,
       exec (.trywait (.unit r)) s), (0x03#5, false, exec (.waitTo (.unit r)) s), (0x11#5, true, exec (.acquire (.unit r)) s), (0x12#5,
       true, exec (.tryacquire (.unit r)) s)]
     r.src < nStirrup ∧ reqOk r = true ∧ (part s r.part).state ≠ .resetting ∧ ((r.tok = true → tagged s r.obj = false)) ∧ (∃ q ∈ outs,
       (r.op = q.1) ∧ (r.tok = q.2.1) ∧ (n ≠ 0) ∧ (o.fifo = []) ∧ (n.toNat ≤ o.val.toNat)))
      ∧ (let s : State := v5 true 2046
         let r : HomeReq := req true 2046 19 5
         let o := obj s r.tok r.obj
         let n := pay0 r.pay
         r.src < nStirrup ∧ reqOk r = true ∧ (part s r.part).state ≠ .resetting ∧ ((r.tok = true → tagged s r.obj = false)) ∧ r.op = 0x13#5
           ∧ r.tok = true ∧ tagged s (r.obj + 1) = false ∧ n ≠ 0 ∧ o.fifo = [] ∧ n.toNat ≤ o.val.toNat)
      ∧ (let s : State := v5 false 8191
         let r : HomeReq := req false 8191 1 0
         let n := pay0 r.pay
         let outs : List (BitVec 5 × Bool × Host.Outcome State Fault Refusal) := [(0x01#5, false, exec (.wait (.unit r)) s), (0x02#5,
           false, exec (.trywait (.unit r)) s), (0x03#5, false, exec (.waitTo (.unit r)) s), (0x11#5, true, exec (.acquire (.unit r)) s),
           (0x12#5, true, exec (.tryacquire (.unit r)) s)]
         r.src < nStirrup ∧ reqOk r = true ∧ (part s r.part).state ≠ .resetting ∧ ((r.tok = true → tagged s r.obj = false)) ∧ (∃ q ∈ outs,
           (r.op = q.1) ∧ (r.tok = q.2.1) ∧ (n = 0)))
      ∧ (let s : State := v5 false 8191
         let r : HomeReq := req false 8191 2 6
         let o := obj s r.tok r.obj
         let n := pay0 r.pay
         let short := n ≠ 0 ∧ (o.fifo ≠ [] ∨ o.val.toNat < n.toNat)
         r.src < nStirrup ∧ reqOk r = true ∧ (part s r.part).state ≠ .resetting ∧ ((r.tok = true → tagged s r.obj = false)) ∧ short ∧ r.op
           = 0x02#5 ∧ r.tok = false)
      ∧ (let s : State := v5 true 2047
         let r : HomeReq := req true 2047 18 6
         let o := obj s r.tok r.obj
         let n := pay0 r.pay
         let short := n ≠ 0 ∧ (o.fifo ≠ [] ∨ o.val.toNat < n.toNat)
         r.src < nStirrup ∧ reqOk r = true ∧ (part s r.part).state ≠ .resetting ∧ ((r.tok = true → tagged s r.obj = false)) ∧ short ∧ r.op
           = 0x12#5 ∧ r.tok = true)
      ∧ (let s : State := v5 false 8191
         let r : HomeReq := { req false 8191 1 6 with part := 0 }
         let e : Nat := 0
         let o := obj s r.tok r.obj
         let n := pay0 r.pay
         let short := n ≠ 0 ∧ (o.fifo ≠ [] ∨ o.val.toNat < n.toNat)
         r.src < nStirrup ∧ reqOk r = true ∧ (part s r.part).state ≠ .resetting ∧ ((r.tok = true → tagged s r.obj = false)) ∧ short ∧
           waitersOf s r.part < waiterQuota s r.part ∧ freeEntry s = some e) := by
  refine ⟨?_, ?_, ?_, ?_, ?_, ?_⟩ <;> decide +kernel

theorem witness_AcquirePriSecondStep :
    (let s : State := on
     let r : HomeReq := priR
     let e : Nat := 16383
     let w := waiter s e
     let i := r.obj + 1
     r.src < nStirrup ∧ r.tok = true ∧ r.obj < 2047 ∧ r.part < 64 ∧ e < 16384 ∧ w.req ≠ r ∧ hasPass s true i = false)
      ∧ (let s : State := richS
         let r : HomeReq := priR
         let e : Nat := 16383
         let sq : W32 := 0
         let w := waiter s e
         let i := r.obj + 1
         let o := obj s true i
         let o1 := obj s true r.obj
         r.src < nStirrup ∧ r.tok = true ∧ r.obj < 2047 ∧ r.part < 64 ∧ e < 16384 ∧ (part s r.part).state ≠ .resetting ∧ w.req = r ∧ w.kept
           = false ∧ w.shadow = false ∧ w.links = [(true, r.obj, sq)] ∧ o1.fifo.any (fun f => f.1 == e) = true ∧ o.fifo = [] ∧
           w.count.toNat ≤ o.val.toNat ∧ 0 < w.count.toNat)
      ∧ (let s : State := poorS
         let r : HomeReq := priR
         let e : Nat := 16383
         let w := waiter s e
         let i := r.obj + 1
         let o := obj s true i
         r.src < nStirrup ∧ r.tok = true ∧ r.obj < 2047 ∧ r.part < 64 ∧ e < 16384 ∧ (part s r.part).state ≠ .resetting ∧ w.req = r ∧ w.kept
           = false ∧ w.shadow = false ∧ ((o.fifo ≠ [] ∨ o.val.toNat < w.count.toNat))) := by
  refine ⟨?_, ?_, ?_⟩ <;> decide +kernel

theorem witness_TaggedPoolsKeepTheirOrder :
    (let s : State := tagS
     let r : HomeReq := req true 2047 20 9
     let o := obj s true r.obj
     r.src < nStirrup ∧ r.tok = true ∧ r.obj < 2048 ∧ r.part < 64 ∧ (part s r.part).state ≠ .resetting ∧ r.op = 0x14#5 ∧ tagged s r.obj =
       true ∧ o.val.toNat < tagCap s r.obj)
      ∧ (let s : State := tagS
         let r : HomeReq := req true 2047 21 9
         let tag : W32 := 7
         let l : List W32 := []
         let o := obj s true r.obj
         r.src < nStirrup ∧ r.tok = true ∧ r.obj < 2048 ∧ r.part < 64 ∧ (part s r.part).state ≠ .resetting ∧ r.op = 0x15#5 ∧ tagged s r.obj
           = true ∧ o.fifo = [] ∧ o.tags = tag :: l)
      ∧ (let s : State := cfg47 on
         let r : HomeReq := req true 2047 21 (2 ^ 32)
         let o := obj s true r.obj
         r.src < nStirrup ∧ r.tok = true ∧ r.obj < 2048 ∧ r.part < 64 ∧ (part s r.part).state ≠ .resetting ∧ r.op = 0x15#5 ∧ tagged s r.obj
           = true ∧ o.tags = [] ∧ bitB (pay1 r.pay) 0 = true)
      ∧ (let s : State := tagS
         let r : HomeReq := req true 2047 22 9
         r.src < nStirrup ∧ r.tok = true ∧ r.obj < 2048 ∧ r.part < 64 ∧ (part s r.part).state ≠ .resetting ∧ r.op = 0x16#5)
      ∧ (let s : State := on
         let r : HomeReq := req true 2047 20 9
         r.src < nStirrup ∧ r.tok = true ∧ r.obj < 2048 ∧ r.part < 64 ∧ (part s r.part).state ≠ .resetting ∧ tagged s r.obj = false) := by
  refine ⟨?_, ?_, ?_, ?_, ?_⟩ <;> decide +kernel

theorem witness_RequestsEnterAndArePicked :
    (let s : State := { on with home := { on.home with crossing := [cross0] } }
     let pipe : Nat := 3
     let c : Crossing := cross0
     pipe < 4 ∧ s.home.crossing = [c] ∧ c.due ≤ s.clk.eclk ∧ homeAborted s c.req = false ∧ readyParts s pipe = [])
      ∧ (let s : State := { on with home := { on.home with input := [(3, [⟨r0, none⟩])] } }
         let pipe : Nat := 3
         let it : HomeItem := ⟨r0, none⟩
         let p := s.clk.eclk % 64
         pipe < 4 ∧ Tbl.get 0 s.home.lastPick pipe ≠ s.clk.eclk + 1 ∧ isolated s 3 pipe = false ∧ partReady s pipe p = true ∧ undoReady s p
           pipe = false ∧ itemFor s pipe p = some it) := by
  refine ⟨?_, ?_⟩ <;> decide +kernel

theorem witness_WaitersWakeExpireAndAreRemoved :
    (let s : State := on
     let st : Nat := 1727
     let i : Nat := 8191
     let e : Nat := 16383
     let o := obj s false i
     let p := passOwner s false i
     let mine := s.waiters.filter fun x => x.2.req.src == st && !x.2.kept
     st < nStirrup ∧ i < 8192 ∧ e < 16384 ∧ o.fifo = [] ∧ covered s p = false ∧ undoHolds s p i = false ∧ mine = [])
      ∧ (let s : State := queuedS 1 w0
         let st : Nat := 1727
         let i : Nat := 8191
         let e : Nat := 16383
         let sq : W32 := 0
         let l : List (Nat × W32) := []
         let w := waiter s e
         let o := obj s false i
         let p := passOwner s false i
         let mine := s.waiters.filter fun x => x.2.req.src == st && !x.2.kept
         let queued := journalOpen s w.req.part = false ∧ w.req.src < nStirrup ∧ w.shadow = false ∧ w.kept = false ∧ w.links = [(false, i,
           sq)] ∧ o.fifo = (e, sq) :: l ∧ (∀ x ∈ l, x.1 ≠ e) ∧ o.seq ≠ 0
         st < nStirrup ∧ i < 8192 ∧ e < 16384 ∧ queued ∧ covered s p = false ∧ undoHolds s p i = false ∧ w.deadline = none ∧ w.count.toNat
           ≤ o.val.toNat ∧ mine = [(e, w)])
      ∧ (let s : State := queuedS 0 { w0 with deadline := some 0 }
         let st : Nat := 1727
         let i : Nat := 8191
         let e : Nat := 16383
         let sq : W32 := 0
         let l : List (Nat × W32) := []
         let w := waiter s e
         let o := obj s false i
         let queued := journalOpen s w.req.part = false ∧ w.req.src < nStirrup ∧ w.shadow = false ∧ w.kept = false ∧ w.links = [(false, i,
           sq)] ∧ o.fifo = (e, sq) :: l ∧ (∀ x ∈ l, x.1 ≠ e) ∧ o.seq ≠ 0
         st < nStirrup ∧ i < 8192 ∧ e < 16384 ∧ queued ∧ Tbl.has s.waiters e = true ∧ expired s w = true ∧ covered s w.req.part = false ∧
           undoHolds s w.req.part i = false) := by
  refine ⟨?_, ?_, ?_⟩ <;> decide +kernel


/-! ## Witnesses: tallies, cues, apply points, curtains -/

/-- No watchpoint in force matches. -/
theorem no_watch (s : State) (slot : Nat) (e : W32) (h : ∀ w ∈ List.range 16, bitB (reg s (wpKey w 0)) 31 = false) (g : BitVec 20) :
    wpHits s slot e g = [] := by
  rw [wpHits, List.filter_eq_nil_iff]
  intro w hw
  simp [wpHit, h w hw]

def fly9 : State := withStir { worker with homeFly := [held 3] }
def r9 : HomeReq := { req false 8191 1 1 with rid := 3 }
def quit9 : State := { fly9 with parts := [(0, Part.initial .quiesced)] }
def undo9 (l : List JEntry) : State :=
  { on with home := { on.home with undoing := [(63, 3)] }, journals := [(63, { opened := true, closed := false, entries := l })] }
def act9 : TallyAct := .report 1 3 1023 64#7
def own9 : State := { twoParts with force := [(partKey 1 0x3C, 0x8000_0000#32)] }
def put9 (x : Tally) (a : TallyAct) : State := { own9 with tly := { own9.tly with tbl := [(1023, x)], due := [{ due := 0, act := a }] } }
def tReq9 : TallyReq := { tally := 1023, op := 24, nohold := false, src := 1727, part := 1, pay := 2, leftT := 0, ring := 0, didx := 0, word := 0 }
def tRsp9 : TallyRsp := { tally := 1023, op := 24, nohold := false, dest := 1727, status := 0, role := 0, pay := 0 }
def exact9 : ExactFly := { cmd := cmd (word 2 24 0 1023), tally := true, held := true, leftT := 0 }
def waved9 (c : BitVec 6) : State :=
  { twoParts with tree := { on.tree with waves := [{ stall := 107, cue := cue 511, left := 0 }] },
                  parts := [(1, { Part.initial .active with curtain := c })] }
def dueNode9 : NodeSlot := { NodeSlot.none with sent := true }
def deciding9 (s : State) : State := { s with tree := { s.tree with nodes := [(nodeKey .die 511, dueNode9)] } }
def h9 : HeldCue := heldCue 511 false
def p9 : HeldCue := heldCue 511 true
def d9 : HeldCue := { p9 with due := true }
def x9 (st : BitVec 5) : Sched := { slot := 511, t := 0, cue := { cue 511 with status := st } }
def limit9 (h : HeldCue) : State := { twoParts with force := twoParts.force ++ [(0x7004, 0)], tree := { on.tree with held := [h] } }
def dark9 (s : State) : State := { s with parts := [(0, Part.initial .active), (1, { Part.initial .active with curtain := 1 })] }
def span9 : State := { spanned with force := spanned.force ++ [(slotKey 511 0, 0x8100_0000#32), (0x7004, 0)], tree := { on.tree with held := [h9] },
                                    pwr := { on.pwr with budget := 2 } }
def sched9 (u : Bool) (st : BitVec 5) : State :=
  { twoParts with fab := { on.fab with sched := [x9 st] }, house := { on.house with unstable := u } }
def host9 : State := { on with hq := { on.hq with hostCall := [(511, desc 1 0)] } }
def u9 : UndoRun := { part := 1, at_ := .die, cue := cue 511, entries := 0, waiting := [], later := [], decT := 5 }
def undone9 : State :=
  { twoParts with
    force := [(partKey 1 0x1C, 0x8000_0000#32), (partKey 1 0x3C, 0x8000_0000#32), (slotKey 511 0, 0x80C0_0000#32), (0x7000, 0x4000_0075#32)],
    tree := { on.tree with undos := [u9] }, tly := { on.tly with start := [(1023, { Tally.none with count := 1 })] } }
def k9 : Nat := objCfgKey false 8191
def g9 : Staged := { val := 5, mask := 0xFF, pend := [] }
def own63 : State :=
  { (withPart (Part.initial .active) on) with force := [(partKey 63 0, 511 * 4096), (partKey 63 0x2C, 0x8000_0000#32), (slotKey 511 0, 0x8000_0000#32)],
                                              su := { on.su with abortWait := 1#64 <<< 63 } }
def rcp9 : Recipe := { seedpol := some 1, floor := none, target := none, tfrac := some 7 }
def dk9 (c : BitVec 6) : State := withPart { Part.initial .active with causes := c, curtain := c } on
def auth9 : State := { on with dbg := { on.dbg with auth := 3 }, cur := { on.cur with die := true } }
def pkt9 : SpanPkt := { packet 8 with data := BitVec.ofNat 640 (0xFFFFF + 7 * 2 ^ 20 + 255 * 2 ^ 36 + 6 * 2 ^ 46) }
def st9 (k : PartState) : State := withPart (Part.initial k) on

theorem witness_ResponsesReachTheirStirrup :
    (let s : State := { on with parts := [(0, { Part.initial .active with rateEff := 4 })] }
     let r : HomeReq := r9
     let p : Nat := 0
     let x := stir s r.src
     let ours := reqOk r = true ∧ r.src < nStirrup
     livePartitions s = [p] ∧ (part s p).rateEff ≠ 0 ∧ ours ∧ x.homeFly.all (fun g => g.rid != r.rid) = true)
      ∧ (let s : State := fly9
         let r : HomeReq := r9
         let y : HomeRsp := rsp
         let f : HomeFly := held 3
         let p : Nat := 0
         let x := stir s r.src
         let ours := reqOk r = true ∧ r.src < nStirrup
         let live := ours ∧ x.frozen = false ∧ f ∈ x.homeFly ∧ f.rid = r.rid
         livePartitions s = [p] ∧ (part s p).rateEff = 0 ∧ live ∧ stillPart s x = false ∧ y.dest < nStirrup ∧ y.poll = false ∧ wAssigned
           (stir s y.dest).role = true ∧ (stir s y.dest).homeFly = [f] ∧ f.rid = y.rid ∧ f.held = true ∧ (stir s y.dest).frozen = false ∧
           stampIs (stir s y.dest) y.role = true ∧ (stir s y.dest).cmdQ = [] ∧ (stir s y.dest).homeQ = [] ∧ (stir s y.dest).newRole = none)
      ∧ (let s : State := quit9
         let r : HomeReq := r9
         let f : HomeFly := held 3
         let x := stir s r.src
         let ours := reqOk r = true ∧ r.src < nStirrup
         let live := ours ∧ x.frozen = false ∧ f ∈ x.homeFly ∧ f.rid = r.rid
         live ∧ stillPart s x = true) := by
  refine ⟨?_, ?_, ?_⟩ <;> decide +kernel

theorem witness_UndoRestoresTheLastEntry :
    (let s : State := undo9 [entry 1, entry 2]
     let p : Nat := 63
     let pipe : Nat := 3
     let j : JEntry := entry 2
     let k : JEntry := entry 1
     p < 64 ∧ pipe < 4 ∧ s.home.undoing = [(p, pipe)] ∧ (part s p).state ≠ .resetting ∧ (journal s p).entries = [k, j] ∧ pipeOf j.obj =
       pipe ∧ pipeOf k.obj = pipe ∧ j.type = jtVALUE ∧ s.tree.undos.find? (fun u => u.part == p) = none)
      ∧ (let s : State := undo9 []
         let p : Nat := 63
         let pipe : Nat := 3
         p < 64 ∧ pipe < 4 ∧ s.home.undoing = [(p, pipe)] ∧ (part s p).state ≠ .resetting ∧ (journal s p).entries = [] ∧ s.home.changed =
           []) := by
  refine ⟨?_, ?_⟩ <;> decide +kernel

theorem witness_LandReportsReachTheTallyUnit :
    (let half : Nat := 1
     let lane : Nat := 3
     let k : Nat := 1023
     let u : BitVec 7 := 64#7
     half < 2 ∧ lane < 4 ∧ k < 1024 ∧ u.toNat ≤ 64)
      ∧ (let half : Nat := 1
         let lane : Nat := 3
         let k : Nat := 1023
         let u : BitVec 7 := 65#7
         half < 2 ∧ lane < 4 ∧ k < 1024 ∧ 65 ≤ u.toNat) := by
  refine ⟨?_, ?_⟩ <;> decide +kernel

theorem witness_TallyCountsAndCompletes :
    (let s : State := put9 { Tally.none with count := 1 } act9
     let half : Nat := 1
     let lane : Nat := 3
     let k : Nat := 1023
     let p : Nat := 1
     let due : Nat := 0
     let u : BitVec 7 := 64#7
     let y : TallyRsp := tRsp9
     let x := tally s k
     let reported := tallyOwner s k = some p ∧ s.tly.due = [{ due := due, act := .report half lane k u }] ∧ due ≤ s.clk.tclk ∧ u ≠ 0 ∧
       x.count.toNat + u.toNat ≤ 0xFFFF_FFFF
     k < 1024 ∧ y.dest < nStirrup ∧ reported ∧ x.armed = false)
      ∧ (let s : State := put9 { Tally.none with expect := 64, armed := true } act9
         let half : Nat := 1
         let lane : Nat := 3
         let k : Nat := 1023
         let p : Nat := 1
         let due : Nat := 0
         let u : BitVec 7 := 64#7
         let y : TallyRsp := tRsp9
         let x := tally s k
         let reported := tallyOwner s k = some p ∧ s.tly.due = [{ due := due, act := .report half lane k u }] ∧ due ≤ s.clk.tclk ∧ u ≠ 0 ∧
           x.count.toNat + u.toNat ≤ 0xFFFF_FFFF
         k < 1024 ∧ y.dest < nStirrup ∧ reported ∧ x.armed = true ∧ x.expect.toNat ≤ x.count.toNat + u.toNat)
      ∧ (let s : State := put9 { Tally.none with count := 1 } (.cmd tReq9)
         let k : Nat := 1023
         let due : Nat := 0
         let r : TallyReq := tReq9
         let y : TallyRsp := tRsp9
         let x := tally s k
         k < 1024 ∧ y.dest < nStirrup ∧ s.tly.due = [{ due := due, act := .cmd r }] ∧ due ≤ s.clk.tclk ∧ r.tally = k ∧ r.op = 0x18#5 ∧
           r.src < nStirrup ∧ (part s r.part).state ≠ .resetting ∧ x.armed = false ∧ x.count.toNat < (pay0 r.pay).toNat)
      ∧ (let s : State := withStir { worker with exactFly := [exact9] }
         let k : Nat := 1023
         let y : TallyRsp := tRsp9
         let f : ExactFly := exact9
         let d := stir s y.dest
         k < 1024 ∧ y.dest < nStirrup ∧ d.exactFly = [f] ∧ f.tally = true ∧ f.held = true ∧ cId f.cmd.word = y.tally ∧ cOp f.cmd.word =
           y.op ∧ d.frozen = false ∧ stampIs d y.role = true ∧ wAssigned d.role = true ∧ d.cmdQ = [] ∧ d.homeQ = [] ∧ d.newRole = none) := by
  refine ⟨?_, ?_, ?_, ?_⟩ <;> decide +kernel

theorem witness_CueDeliveryEndsTheCall :
    (let s : State := withStir { worker with call := some (pend 511 false) }
     let st : Nat := 1727
     let c : Cue := cue 511
     let pc : PendCall := pend 511 false
     let x := stir s st
     st < nStirrup ∧ x.call = some pc ∧ pc.slot = c.slot ∧ pc.boot = false ∧ stampIs x c.role = true ∧ wAssigned x.role = true ∧ x.cmdQ =
       [] ∧ x.homeQ = [] ∧ x.newRole = none)
      ∧ (let s : State := withStir worker
         let st : Nat := 1727
         let x := stir s st
         st < nStirrup ∧ x.call = none) := by
  refine ⟨?_, ?_⟩ <;> decide +kernel

theorem witness_CuesTravelByTheChildMasks :
    let s : State := waved9 0
    let h : Nat := 1
    let k : Nat := 107
    let c : Cue := cue 511
    let ns := node s (.half h) c.slot
    h < 2 ∧ k < 108 ∧ c.slot < 512 ∧ c.profile < 8 ∧ c.counted = false ∧ ns.ackWait = false ∧ ns.epoch = c.epoch ∧ c.next = c.epoch + 1 ∧
      c.next ≠ 0 ∧ s.tree.waves.any (fun w => w.stall == k && w.cue == c) = true := by
  decide +kernel

theorem witness_DecisionAdvancesTheEpoch :
    (PlainSlot twoParts 511 1 ∧ spanRooted twoParts 511 = false ∧ firstDue twoParts .die 511 = false ∧ canDecide twoParts .die 511 = false)
      ∧ (∀ s ∈ [deciding9 twoParts, deciding9 { twoParts with pwr := on.pwr }], PlainSlot s 511 1 ∧ spanRooted s 511 = false
          ∧ firstDue s .die 511 = false ∧ canDecide s .die 511 = true ∧ isCount s 511 = false ∧ isQuiesce s 511 = false ∧ slotVerdict s 511 = false)
      ∧ (∀ g, wpHits (deciding9 twoParts) 511 (epochOf (deciding9 twoParts) 511) g = [])
      ∧ ∀ g, wpHits (deciding9 { twoParts with pwr := on.pwr }) 511 (epochOf (deciding9 { twoParts with pwr := on.pwr }) 511) g = [] := by
  refine ⟨?_, ?_, no_watch _ _ _ (by decide +kernel), no_watch _ _ _ (by decide +kernel)⟩
  · unfold PlainSlot; decide +kernel
  · unfold PlainSlot; decide +kernel

theorem witness_HeldCuesLeaveInTheirTurn :
    (let s : State := twoParts
     let slot : Nat := 511
     let p : Nat := 1
     slot < 512 ∧ PlainSlot s slot p ∧ s.tree.held = [] ∧ s.fab.sched = [])
      ∧ (let s : State := limit9 p9
         let slot : Nat := 511
         let p : Nat := 1
         let h : HeldCue := p9
         let ripe := h.cue.slot = slot ∧ s.tree.held.find? (fun g => g.cue.slot == slot && holdOver s g) = some h
         let turn := h.cue.slot = slot ∧ dueTurn s slot = none ∧ nextTurn s = some h
         let onDie := h.at_ = .die ∧ h.cue.counted = false ∧ spanRooted s slot = false
         slot < 512 ∧ PlainSlot s slot p ∧ ripe ∧ covered s (heldPart s h) = false ∧ onDie ∧ turn)
      ∧ (let s : State := dark9 (limit9 h9)
         let slot : Nat := 511
         let p : Nat := 1
         let h : HeldCue := h9
         let ripe := h.cue.slot = slot ∧ s.tree.held.find? (fun g => g.cue.slot == slot && holdOver s g) = some h
         slot < 512 ∧ PlainSlot s slot p ∧ ripe ∧ covered s (heldPart s h) = true)
      ∧ (let s : State := span9
         let slot : Nat := 511
         let p : Nat := 1
         let h : HeldCue := h9
         let e := spanOf s slot
         let ripe := h.cue.slot = slot ∧ s.tree.held.find? (fun g => g.cue.slot == slot && holdOver s g) = some h
         slot < 512 ∧ PlainSlot s slot p ∧ ripe ∧ covered s (heldPart s h) = false ∧ spanRooted s slot = true ∧ (spanState s e).broken =
           false)
      ∧ (let s : State := dark9 { twoParts with tree := { on.tree with held := [p9] } }
         let slot : Nat := 511
         let p : Nat := 1
         let h : HeldCue := p9
         let turn := h.cue.slot = slot ∧ dueTurn s slot = none ∧ nextTurn s = some h
         slot < 512 ∧ PlainSlot s slot p ∧ turn ∧ covered s (heldPart s h) = true)
      ∧ (let s : State := { twoParts with tree := { on.tree with held := [d9] } }
         let slot : Nat := 511
         let p : Nat := 1
         let h : HeldCue := d9
         let due := h.cue.slot = slot ∧ dueTurn s slot = some h
         let onDie := h.at_ = .die ∧ h.cue.counted = false ∧ spanRooted s slot = false
         slot < 512 ∧ PlainSlot s slot p ∧ due ∧ onDie)
      ∧ (let s : State := sched9 false 0
         let slot : Nat := 511
         let p : Nat := 1
         let x : Sched := x9 0
         let e := spanOf s slot
         let edge := x.cue.slot = slot ∧ s.fab.sched.find? (fun y => y.slot == slot && edgeReached s y.t) = some x
         slot < 512 ∧ PlainSlot s slot p ∧ edge ∧ s.house.unstable = false ∧ x.cue.status ≠ stReplay ∧ x.cue.counted = false ∧ (spanState s
           e).abortNext = false)
      ∧ (let s : State := sched9 true 0
         let slot : Nat := 511
         let p : Nat := 1
         let x : Sched := x9 0
         let edge := x.cue.slot = slot ∧ s.fab.sched.find? (fun y => y.slot == slot && edgeReached s y.t) = some x
         slot < 512 ∧ PlainSlot s slot p ∧ edge ∧ ((s.house.unstable = true ∨ (x.cue.status = stReplay ∧ inUndo s p = true)))) := by
  unfold PlainSlot; refine ⟨?_, ?_, ?_, ?_, ?_, ?_, ?_, ?_⟩ <;> decide +kernel

theorem witness_BudgetChangesAreAdopted :
    let s : State := on
    let b : BitVec 2 := 2#2
    b ≠ 3#2 ∧ ((s.pwr.budget ≠ 2#2 ∨ b = 2#2)) := by
  decide +kernel

theorem witness_AuditDrawReachesAssignedStirrups :
    let p : Nat := 0
    p < 64 := by
  decide +kernel

theorem witness_CueEndsHostCallAndUndo :
    (let s : State := host9
     let c : Cue := cue 511
     let x : Desc := desc 1 0
     let p : Nat := 1
     c.slot < 512 ∧ p < 64 ∧ s.hq.hostCall.find? (fun h => h.1 == c.slot) = some (c.slot, x))
      ∧ (let s : State := undone9
         let c : Cue := cue 511
         let p : Nat := 1
         let u : UndoRun := u9
         c.slot < 512 ∧ p < 64 ∧ s.tree.undos.find? (fun v => v.part == p) = some u ∧ u.waiting = [] ∧ u.later = [] ∧ mustHold s u.cue =
           true ∧ s.fab.sched = []) := by
  refine ⟨?_, ?_⟩ <;> decide +kernel

theorem witness_StagedWordsWaitForTheirApplyPoint :
    (let s : State := on
     let p : Nat := 63
     let k : Nat := 0x7000
     let i : Nat := 8191
     p < 64 ∧ i < 8192 ∧ Tbl.has s.staged k = false ∧ (((part s p).state = .free ∨ (memberless s p = false ∧ (s.su.abortWait.getLsbD p =
       false ∨ (part s p).state = .resetting)))))
      ∧ (let s : State := { on with staged := [(0x7000, { g9 with pend := [(0x4000_0000, 0x4000_0000)] })] }
         let p : Nat := 63
         let k : Nat := 0x7000
         let i : Nat := 8191
         let v : W32 := 0x4000_0000
         let m : W32 := 0x4000_0000
         let l : List (W32 × W32) := []
         let held := ackStage k s
         p < 64 ∧ i < 8192 ∧ Tbl.has s.staged k = true ∧ (stagedAt s k).pend = (v, m) :: l ∧ s.hq.descs = [] ∧ (dwKeys held).contains k =
           false ∧ isRosterKey k = false ∧ ((keyOwner held k).all fun q => (part s q).state == .free || !memberless s q) = true)
      ∧ (let s : State := own63
         let p : Nat := 63
         let i : Nat := 8191
         p < 64 ∧ i < 8192 ∧ (part s p).state ≠ .free ∧ memberless s p = true ∧ ((s.boot.reduced = true ∨ s.staged = [])))
      ∧ (let s : State := { own63 with staged := [(k9, g9)] }
         let p : Nat := 63
         let i : Nat := 8191
         let g : Staged := g9
         let word := objCfgKey false i
         p < 64 ∧ i < 8192 ∧ (part s p).state ≠ .free ∧ memberless s p = true ∧ s.boot.reduced = false ∧ s.staged = [(word, g)] ∧ g.pend =
           [] ∧ g.mask ≠ 0 ∧ objOwner s false i = some p) := by
  refine ⟨?_, ?_, ?_, ?_⟩ <;> decide +kernel

theorem witness_DieWideRequestAppliesOrIsCancelled :
    (let s : State := on
     dwReady s = false ∧ s.boot.inReset = false)
      ∧ (let s : State := { on with su := { on.su with dwPending := true }, flt := { on.flt with rcpStaged := some rcp9 } }
         let r : Recipe := rcp9
         dwReady s = true ∧ s.staged = [] ∧ s.flt.rcpStaged = some r)
      ∧ (let s : State := reset on
         s.boot.inReset = true) := by
  refine ⟨?_, ?_, ?_⟩ <;> decide +kernel

theorem witness_CurtainsRiseAndLift :
    (let s : State := dk9 1
     let p : Nat := 63
     let src : CurtainSrc := .manager
     let x := part s p
     let down := x.curtain &&& ~~~ (mayClear src)
     p < 64 ∧ x.causes ≠ 0 ∧ s.hq.descs = [] ∧ x.curtain ≠ 0 ∧ down = 0 ∧ entitled s p src = true)
      ∧ (let s : State := dk9 0
         let p : Nat := 63
         let src : CurtainSrc := .tenant
         let x := part s p
         let left := x.causes &&& ~~~ (mayClear src)
         let down := x.curtain &&& ~~~ (mayClear src)
         p < 64 ∧ x.causes = 0 ∧ s.hq.descs = [] ∧ ((src = .tenant → entitled s p src = true)) ∧ ((x.causes = 0 ∨ left ≠ 0)) ∧ ((x.curtain
           = 0 ∨ down ≠ 0)))
      ∧ (let s : State := { (dk9 16) with home := { on.home with undoing := [(63, 0)] } }
         let p : Nat := 63
         p < 64 ∧ undoRuns s p = true) := by
  refine ⟨?_, ?_, ?_⟩ <;> decide +kernel

theorem witness_DieCurtainScanAndPackets :
    (let s : State := auth9
     let act : Nat := 2
     let port : Nat := 23
     let pkt : SpanPkt := pkt9
     let die := bitsN pkt.data 35 20
     act < 3 ∧ authDie s = true ∧ ((act = 0 ∨ s.cur.byError = false)) ∧ s.boot.inReset = false ∧ s.cur.die = true ∧ authScan s = true ∧
       pkt.fkind = 8 ∧ ports.contains port = true ∧ portUp s port = false)
      ∧ (let s : State := { auth9 with cur := { auth9.cur with byError := true } }
         let act : Nat := 1
         act < 3 ∧ authDie s = true ∧ act ≠ 0 ∧ s.cur.byError = true)
      ∧ (let s : State := reset on
         let act : Nat := 0
         act < 3 ∧ s.boot.inReset = true)
      ∧ (let s : State := spanned
         let act : Nat := 0
         let port : Nat := 23
         let e : Nat := 127
         let p : Nat := 1
         let pkt : SpanPkt := pkt9
         let die := bitsN pkt.data 35 20
         let seq := bitsN pkt.data 43 36
         act < 3 ∧ authDie s = false ∧ s.boot.inReset = false ∧ ((s.cur.die = false ∨ authScan s = false)) ∧ pkt.fkind = 8 ∧ ports.contains
           port = true ∧ portUp s port = true ∧ seenPacket s die seq = false ∧ bitB pkt.data 49 = false ∧ bitsN pkt.data 45 44 = 0 ∧
           spanFor s (BitVec.ofNat 20 (bitsN pkt.data 19 0)) = some e ∧ slotOwner s (spanSlot s e) = some p) := by
  refine ⟨?_, ?_, ?_, ?_⟩ <;> decide +kernel

theorem witness_ThawsIsolationAndResets :
    (let s : State := withStir worker
     let st : Nat := 1727
     let line : Nat := 17
     let p : Nat := 63
     let on : Bool := false
     let x := stir s st
     st < nStirrup ∧ x.frozen = false ∧ x.iso = on ∧ x.iso = false ∧ x.call = none ∧ memberSlots s st = [] ∧ line < 18 ∧
       s.pwr.sleep.getLsbD line = on ∧ s.pwr.sleep.getLsbD line = false ∧ sleepSlots s = [] ∧ traceMode s ≠ 2 ∧ p < 64 ∧ (part s p).state =
       .free ∧ (part s p).state ≠ .resetting)
      ∧ (let s : State := withStir { worker with frozen := true, cause := 15 }
         let st : Nat := 1727
         let x := stir s st
         st < nStirrup ∧ x.frozen = true ∧ x.call = none ∧ x.newRole = none ∧ x.cmdQ = [] ∧ x.homeQ = [])
      ∧ (let s : State := withStir { worker with iso := true }
         let st : Nat := 1727
         let x := stir s st
         st < nStirrup ∧ x.iso = true)
      ∧ (let s : State := { st9 .active with pwr := { on.pwr with sleep := 1#18 <<< 17 } }
         let p : Nat := 63
         p < 64 ∧ 0 < s.clk.mult ∧ (part s p).state ≠ .free ∧ (part s p).state ≠ .resetting)
      ∧ (let s : State := st9 .resetting
         let p : Nat := 63
         let cause : Nat := 5
         p < 64 ∧ (part s p).state = .resetting ∧ cause ≠ causeDestroy) := by
  refine ⟨?_, ?_, ?_, ?_, ?_⟩ <;> decide +kernel


/-! ## Witnesses: fabric and house time -/

def brk (s : State) : State := { s with tree := { s.tree with held := [heldCue 511 false] } }
def silent : State := late { spanned with force := [(0x607C, 0x8000_0000#32)] }
def carrying : State := late spanned
def linkDown (s : State) : State := { s with fab := { s.fab with reinUp := false } }
def hc (n : Nat) (s : State) : State := { s with force := (0x0100, BitVec.ofNat 32 (n * 2 ^ 30 + 3 * 2 ^ 28 + 15 * 2 ^ 24)) :: s.force }
def tug : State := hc 1 spanned
def rein : State := hc 2 spanned
def clock (f : House → House) (s : State) : State := { s with house := f s.house }
def asked (st : HcState) (good : Nat) : State := clock (fun h => { h with lead := 0, exch := some 0, state := st, good := good, exchOn := true }) rein
def at2048 (s : State) : State := clock (fun h => { h with frameStart := 16 }) s
def at8192 (s : State) : State := clock (fun h => { h with frameStart := 64 }) s
def tugs (x : FabPort) : State := { on with fab := { on.fab with ports := [(3, x)] } }
def phy : FabPort := { FabPort.none with phy := true }
def flit (p : Option Nat) (k vote : Nat) (b : Nat) : FabOut :=
  { port := 23, part := p, pkt := { packet (BitVec.ofNat 4 k) with vote := BitVec.ofNat 2 vote }, ready := 0, beats := b, next := 0 }
def sending (o : FabOut) (credit : Nat) : State := { late spanned with fab := { spanned.fab with reinQ := [o], credit := credit } }

theorem witness_SpanPartialsAndCuesReachTheDieRoot :
    (let s : State := on
     let port : Nat := 23
     ports.contains port = true ∧ portUp s port = false)
      ∧ (let s : State := spanned
         let port : Nat := 3
         let e : Nat := 127
         let pkt : SpanPkt := packet 1
         let slot := spanSlot s e
         let ns := node s .die slot
         let ours := portUp s port = true ∧ spanFor s pkt.span = some e ∧ (spanState s e).broken = false
         let below := (spanDown s e).contains port = true ∧ pkt.gen = ns.epoch.setWidth 6
         ports.contains port = true ∧ ours ∧ below ∧ pkt.fkind = 1 ∧ pkt.opst = slotOp s slot ∧ isCount s slot = false ∧ ns.sent = false ∧
           portChild port ∉ ns.cur.kids ∧ portUp s port = true ∧ pkt.beat = 0 ∧ packetBeats s pkt ≤ unitBeats port ∧ bufferT s port 1 ≠ 0)
      ∧ (let s : State := spanned
         let port : Nat := 3
         let e : Nat := 127
         let pkt : SpanPkt := { packet 1 with gen := 2 }
         let slot := spanSlot s e
         let ns := node s .die slot
         let ours := portUp s port = true ∧ spanFor s pkt.span = some e ∧ (spanState s e).broken = false
         ports.contains port = true ∧ ours ∧ (spanDown s e).contains port = true ∧ pkt.fkind = 1 ∧ pkt.opst = slotOp s slot ∧ genEpoch ns
           pkt.gen = none)
      ∧ (let s : State := spanned
         let port : Nat := 23
         let e : Nat := 127
         let pkt : SpanPkt := packet 2
         let slot := spanSlot s e
         let ours := portUp s port = true ∧ spanFor s pkt.span = some e ∧ (spanState s e).broken = false
         ports.contains port = true ∧ ours ∧ pkt.fkind = 2 ∧ spanUp s e = some port ∧ pkt.gen = (epochOf s slot).setWidth 6 ∧
           pkt.time.toNat ≤ (houseNow s).toNat + 2 ^ 21 ∧ slotVerdict s slot = false ∧ edgeReached s pkt.time = false ∧ (s.fab.sched.all
           fun x => x.slot != slot) = true)
      ∧ (let s : State := spanned
         let port : Nat := 3
         let e : Nat := 127
         let pkt : SpanPkt := packet 2
         let slot := spanSlot s e
         let ours := portUp s port = true ∧ spanFor s pkt.span = some e ∧ (spanState s e).broken = false
         ports.contains port = true ∧ ours ∧ pkt.fkind = 2 ∧ ((spanUp s e ≠ some port ∨ pkt.gen ≠ (epochOf s slot).setWidth 6)) ∧ portUp s
           port = true ∧ pkt.beat = 0 ∧ unitBeats port < packetBeats s pkt) := by
  refine ⟨?_, ?_, ?_, ?_, ?_⟩ <;> decide +kernel

theorem witness_SpansIdleRejoinAndBreak :
    (let s : State := on
     let port : Nat := 23
     ports.contains port = true ∧ portUp s port = false)
      ∧ (let s : State := spanned
         let port : Nat := 3
         let e : Nat := 127
         let pkt : SpanPkt := packet 3
         let g : W32 := 0
         let slot := spanSlot s e
         let ns := node s .die slot
         let ours := portUp s port = true ∧ spanFor s pkt.span = some e ∧ (spanState s e).broken = false
         let below := (spanDown s e).contains port = true ∧ genEpoch ns pkt.gen = some g
         ports.contains port = true ∧ ours ∧ below ∧ pkt.fkind = 3 ∧ leftOut ns (portChild port) g = false)
      ∧ (let s : State := spanned
         let port : Nat := 3
         let e : Nat := 127
         let pkt : SpanPkt := packet 4
         let g : W32 := 0
         let slot := spanSlot s e
         let ns := node s .die slot
         let ours := portUp s port = true ∧ spanFor s pkt.span = some e ∧ (spanState s e).broken = false
         let below := (spanDown s e).contains port = true ∧ genEpoch ns pkt.gen = some g
         ports.contains port = true ∧ ours ∧ below ∧ pkt.fkind = 4 ∧ ns.idleSent = false ∧ ns.ackWait = false)
      ∧ (let s : State := spanned
         let port : Nat := 3
         let e : Nat := 127
         let pkt : SpanPkt := packet 5
         let slot := spanSlot s e
         let ours := portUp s port = true ∧ spanFor s pkt.span = some e ∧ (spanState s e).broken = false
         ports.contains port = true ∧ ours ∧ pkt.fkind = 5 ∧ spanValid s e = true ∧ cueWaits s slot = false)
      ∧ (let s : State := brk spanned
         let port : Nat := 23
         let e : Nat := 127
         let pkt : SpanPkt := packet 5
         let slot := spanSlot s e
         let ours := portUp s port = true ∧ spanFor s pkt.span = some e ∧ (spanState s e).broken = false
         ports.contains port = true ∧ ours ∧ pkt.fkind = 5 ∧ spanValid s e = true ∧ cueWaits s slot = true)
      ∧ (let s : State := spanned
         let port : Nat := 3
         let pkt : SpanPkt := packet 0
         ports.contains port = true ∧ portUp s port = true ∧ port < 4 ∧ fkindReserved pkt.fkind = true)
      ∧ (let s : State := late spanned
         let port : Nat := 23
         let pkt : SpanPkt := packet 15
         let x := fabPort s port
         let now := (houseNow s).toNat
         let lately := now :: x.bads.filter fun t => decide (now < t + 1000 * usTicks)
         ports.contains port = true ∧ portUp s port = true ∧ 8 ≤ port ∧ fkindReserved pkt.fkind = true ∧ 0 < now ∧ lately.length < 16) := by
  refine ⟨?_, ?_, ?_, ?_, ?_, ?_, ?_⟩ <;> decide +kernel

theorem witness_PortsAreHeardAndLost :
    (let s : State := on
     let port : Nat := 23
     ports.contains port = true ∧ heartbeatDue s port = false ∧ portUp s port = false ∧ timedOut s port = false ∧ s.fab.reinUp = false)
      ∧ (let s : State := silent
         let port : Nat := 23
         let i : Nat := 15
         let die : BitVec 16 := 65535
         let now := (houseNow s).toNat
         let peers := (validPeers s).filter fun i => fld s (0x6040 + 4 * i) 15 0 == die.toNat
         ports.contains port = true ∧ heartbeatDue s port = true ∧ portUp s port = true ∧ timedOut s port = true ∧ spansOn s port = [] ∧ 0
           < now ∧ s.fab.reinUp = true ∧ validPeers s = [i] ∧ spansOn s (8 + i) = [] ∧ peers = [])
      ∧ (let s : State := silent
         let port : Nat := 23
         let i : Nat := 15
         let die : BitVec 16 := 0
         let peers := (validPeers s).filter fun i => fld s (0x6040 + 4 * i) 15 0 == die.toNat
         ports.contains port = true ∧ peers = [i] ∧ spansOn s (8 + i) = [])
      ∧ (let s : State := carrying
         let port : Nat := 23
         let e : Nat := 127
         ports.contains port = true ∧ timedOut s port = true ∧ spansOn s port = [e])
      ∧ (let s : State := { on with fab := { on.fab with reinUp := true } }
         let port : Nat := 3
         ports.contains port = true ∧ s.fab.reinUp = true ∧ validPeers s = []) := by
  refine ⟨?_, ?_, ?_, ?_, ?_⟩ <;> decide +kernel

theorem witness_TugsTrainAndFlitsLeave :
    (let s : State := on
     let port : Nat := 3
     let x := fabPort s port
     let resends := { s.fab with retry := s.fab.retry + 1 }
     port < 4 ∧ x.phy = false ∧ ((x.phy = false ∨ s.boot.inReset = true ∨ s.boot.reduced = true ∨ (x.again = true ∧ s.house.unstable =
       true))) ∧ x.resends + 1 < 16 ∧ s.fab.reinQ = [] ∧ creditNow s < 256)
      ∧ (let s : State := tugs phy
         let port : Nat := 3
         let transit : Nat := 10
         let x := fabPort s port
         let measures := x.phy = true ∧ s.boot.inReset = false ∧ s.boot.reduced = false ∧ (x.again = false ∨ s.house.unstable = false)
         port < 4 ∧ measures ∧ transit ≤ 10)
      ∧ (let s : State := tugs { phy with resends := 15 }
         let port : Nat := 3
         let transit : Nat := 11
         let x := fabPort s port
         let measures := x.phy = true ∧ s.boot.inReset = false ∧ s.boot.reduced = false ∧ (x.again = false ∨ s.house.unstable = false)
         let resends := { s.fab with retry := s.fab.retry + 1 }
         port < 4 ∧ x.phy = true ∧ spansOn s port = [] ∧ measures ∧ 10 < transit ∧ 16 ≤ x.resends + 1)
      ∧ (let s : State := sending (flit none 7 0 1) 256
         let port : Nat := 3
         let bulk : Bool := true
         let o : FabOut := flit none 7 0 1
         let due := s.fab.reinQ = [o] ∧ 8 ≤ o.port ∧ portUp s o.port = true ∧ o.ready ≤ s.clk.tclk ∧ (bulk = false ∨ 256 ≤ creditNow s)
         let whole := o.beats ≤ o.next + 3
         port < 4 ∧ due ∧ whole ∧ o.part = none ∧ o.pkt.fkind ≠ 6)
      ∧ (let s : State := sending (flit none 7 0 4) 0
         let port : Nat := 3
         let bulk : Bool := false
         let o : FabOut := flit none 7 0 4
         let due := s.fab.reinQ = [o] ∧ 8 ≤ o.port ∧ portUp s o.port = true ∧ o.ready ≤ s.clk.tclk ∧ (bulk = false ∨ 256 ≤ creditNow s)
         port < 4 ∧ due ∧ o.next + 3 < o.beats ∧ o.part = none ∧ o.pkt.fkind ≠ 6)
      ∧ (let s : State := sending (flit none 6 1 1) 300
         let port : Nat := 3
         let bulk : Bool := false
         let o : FabOut := flit none 6 1 1
         let due := s.fab.reinQ = [o] ∧ 8 ≤ o.port ∧ portUp s o.port = true ∧ o.ready ≤ s.clk.tclk ∧ (bulk = false ∨ 256 ≤ creditNow s)
         let whole := o.beats ≤ o.next + 3
         port < 4 ∧ due ∧ whole ∧ o.pkt.fkind = 6 ∧ o.pkt.vote = 1 ∧ o.part = none)
      ∧ (let s : State := sending (flit none 6 2 1) 300
         let port : Nat := 3
         let bulk : Bool := false
         let o : FabOut := flit none 6 2 1
         let due := s.fab.reinQ = [o] ∧ 8 ≤ o.port ∧ portUp s o.port = true ∧ o.ready ≤ s.clk.tclk ∧ (bulk = false ∨ 256 ≤ creditNow s)
         let whole := o.beats ≤ o.next + 3
         port < 4 ∧ due ∧ whole ∧ o.pkt.fkind = 6 ∧ o.pkt.vote = 2 ∧ o.part = none)
      ∧ (let s : State := sending (flit (some 1) 1 2 1) 300
         let port : Nat := 3
         let bulk : Bool := false
         let o : FabOut := flit (some 1) 1 2 1
         let p : Nat := 1
         let due := s.fab.reinQ = [o] ∧ 8 ≤ o.port ∧ portUp s o.port = true ∧ o.ready ≤ s.clk.tclk ∧ (bulk = false ∨ 256 ≤ creditNow s)
         let whole := o.beats ≤ o.next + 3
         port < 4 ∧ due ∧ whole ∧ o.part = some p ∧ p < 64 ∧ outRank o = 2) := by
  refine ⟨?_, ?_, ?_, ?_, ?_, ?_, ?_, ?_⟩ <;> decide +kernel

theorem witness_HouseFramesBegin :
    (let s : State := clock (fun h => { h with lead := 3 }) on
     let port : Nat := 3
     let h := s.house
     h.lead ≠ 0 ∧ port < 4 ∧ portUp s port = false)
      ∧ (let s : State := spanned
         let port : Nat := 3
         port < 4 ∧ portUp s port = true ∧ ((hcSrc s ≠ 1 ∨ hcTug s ≠ port)))
      ∧ (let s : State := tug
         let port : Nat := 3
         let start : W64 := 0
         let st : BitVec 2 := 0
         let frame : Nat := 1
         let h := s.house
         let ours := port < 4 ∧ portUp s port = true ∧ hcSrc s = 1 ∧ hcTug s = port
         let k := nearestHref (max 1 h.len) ((h.edge : Int) - ((fabPort s port).transit : Int))
         let plain := h.frameStart + BitVec.ofInt 64 (frameTicks s h.frameNo)
         let carried := start + BitVec.ofInt 64 (ticksToEnd s (k / 5))
         h.lead = 0 ∧ ours ∧ h.state = hcOf st ∧ k % 5 = 0 ∧ carried = plain ∧ frame ≠ 0)
      ∧ (let s : State := tug
         let port : Nat := 3
         let start : W64 := 5
         let st : BitVec 2 := 0
         let h := s.house
         let ours := port < 4 ∧ portUp s port = true ∧ hcSrc s = 1 ∧ hcTug s = port
         let k := nearestHref (max 1 h.len) ((h.edge : Int) - ((fabPort s port).transit : Int))
         let plain := h.frameStart + BitVec.ofInt 64 (frameTicks s h.frameNo)
         let carried := start + BitVec.ofInt 64 (ticksToEnd s (k / 5))
         ours ∧ h.state = hcOf st ∧ k % 5 = 0 ∧ carried ≠ plain) := by
  refine ⟨?_, ?_, ?_, ?_⟩ <;> decide +kernel

theorem witness_HouseTimeIsMeasured :
    (let s : State := rein
     let port : Nat := 23
     let t1 : W64 := 0
     let h := s.house
     let master := 8 + hcPeer s
     8 ≤ port ∧ port < 24 ∧ hcSrc s = 2 ∧ h.exchOn = false ∧ portUp s master = true ∧ portUp s port = true ∧ ((hcSrc s ≠ 2 ∨ port ≠ master
       ∨ h.exch ≠ some t1)) ∧ limitPassed s = false)
      ∧ (let s : State := linkDown rein
         let port : Nat := 23
         let h := s.house
         let master := 8 + hcPeer s
         8 ≤ port ∧ port < 24 ∧ hcSrc s = 2 ∧ ((h.exchOn = false ∨ h.state ≠ .locked)) ∧ portUp s master = false)
      ∧ (let s : State := asked .locked 0
         let port : Nat := 23
         let t1 : W64 := 0
         let t2 : W64 := 0
         let t3 : W64 := 0
         let h := s.house
         let fine : W64 := BitVec.ofNat 64 (houseFine s)
         let o := offsetOf (reg s 0x0118) t1 t2 t3 fine
         let size := o.natAbs
         let master := 8 + hcPeer s
         let measure := portUp s port = true ∧ hcSrc s = 2 ∧ port = master ∧ h.exch = some t1
         8 ≤ port ∧ port < 24 ∧ hcSrc s = 2 ∧ h.exchOn = true ∧ h.state = .locked ∧ measure ∧ size ≤ 8 * 128)
      ∧ (let s : State := asked .free 0
         let port : Nat := 23
         let t1 : W64 := 0
         let h := s.house
         let master := 8 + hcPeer s
         let measure := portUp s port = true ∧ hcSrc s = 2 ∧ port = master ∧ h.exch = some t1
         8 ≤ port ∧ port < 24 ∧ measure ∧ h.state = .free)
      ∧ (let s : State := asked .locking 0
         let port : Nat := 23
         let t1 : W64 := 0
         let t2 : W64 := 0
         let t3 : W64 := 0
         let h := s.house
         let fine : W64 := BitVec.ofNat 64 (houseFine s)
         let o := offsetOf (reg s 0x0118) t1 t2 t3 fine
         let size := o.natAbs
         let master := 8 + hcPeer s
         let measure := portUp s port = true ∧ hcSrc s = 2 ∧ port = master ∧ h.exch = some t1
         8 ≤ port ∧ port < 24 ∧ measure ∧ h.state = .locking ∧ size ≤ 4 * 128 ∧ h.good < 15)
      ∧ (let s : State := asked .locking 15
         let port : Nat := 23
         let t1 : W64 := 0
         let t2 : W64 := 0
         let t3 : W64 := 0
         let h := s.house
         let fine : W64 := BitVec.ofNat 64 (houseFine s)
         let o := offsetOf (reg s 0x0118) t1 t2 t3 fine
         let size := o.natAbs
         let master := 8 + hcPeer s
         let measure := portUp s port = true ∧ hcSrc s = 2 ∧ port = master ∧ h.exch = some t1
         8 ≤ port ∧ port < 24 ∧ measure ∧ h.state = .locking ∧ size ≤ 4 * 128 ∧ 15 ≤ h.good)
      ∧ (let s : State := asked .holdover 0
         let port : Nat := 23
         let t1 : W64 := 0
         let t2 : W64 := 0
         let t3 : W64 := 0
         let h := s.house
         let fine : W64 := BitVec.ofNat 64 (houseFine s)
         let o := offsetOf (reg s 0x0118) t1 t2 t3 fine
         let size := o.natAbs
         let master := 8 + hcPeer s
         let measure := portUp s port = true ∧ hcSrc s = 2 ∧ port = master ∧ h.exch = some t1
         8 ≤ port ∧ port < 24 ∧ measure ∧ h.state = .holdover ∧ size ≤ 8 * 128)
      ∧ (let s : State := at8192 (asked .locked 0)
         let port : Nat := 23
         let t1 : W64 := 0
         let t2 : W64 := 0
         let t3 : W64 := 0
         let h := s.house
         let fine : W64 := BitVec.ofNat 64 (houseFine s)
         let o := offsetOf (reg s 0x0118) t1 t2 t3 fine
         let size := o.natAbs
         let master := 8 + hcPeer s
         let measure := portUp s port = true ∧ hcSrc s = 2 ∧ port = master ∧ h.exch = some t1
         8 ≤ port ∧ port < 24 ∧ measure ∧ h.state = .locked ∧ 8 * 128 < size ∧ size ≤ 32 * 128)
      ∧ (let s : State := late (asked .locked 0)
         let port : Nat := 23
         let t1 : W64 := 0
         let t2 : W64 := 0
         let t3 : W64 := 0
         let h := s.house
         let fine : W64 := BitVec.ofNat 64 (houseFine s)
         let o := offsetOf (reg s 0x0118) t1 t2 t3 fine
         let size := o.natAbs
         let master := 8 + hcPeer s
         let measure := portUp s port = true ∧ hcSrc s = 2 ∧ port = master ∧ h.exch = some t1
         8 ≤ port ∧ port < 24 ∧ measure ∧ h.state = .locked ∧ 32 * 128 < size)
      ∧ (let s : State := late (asked .locking 0)
         let port : Nat := 23
         let t1 : W64 := 0
         let t2 : W64 := 0
         let t3 : W64 := 0
         let h := s.house
         let fine : W64 := BitVec.ofNat 64 (houseFine s)
         let o := offsetOf (reg s 0x0118) t1 t2 t3 fine
         let size := o.natAbs
         let master := 8 + hcPeer s
         let measure := portUp s port = true ∧ hcSrc s = 2 ∧ port = master ∧ h.exch = some t1
         8 ≤ port ∧ port < 24 ∧ measure ∧ h.state = .locking ∧ 1024 * 128 < size ∧ h.announced = [])
      ∧ (let s : State := at8192 (asked .locking 0)
         let port : Nat := 23
         let t1 : W64 := 0
         let t2 : W64 := 0
         let t3 : W64 := 0
         let h := s.house
         let fine : W64 := BitVec.ofNat 64 (houseFine s)
         let o := offsetOf (reg s 0x0118) t1 t2 t3 fine
         let size := o.natAbs
         let master := 8 + hcPeer s
         let measure := portUp s port = true ∧ hcSrc s = 2 ∧ port = master ∧ h.exch = some t1
         8 ≤ port ∧ port < 24 ∧ measure ∧ h.state = .locking ∧ 4 * 128 < size ∧ size ≤ 1024 * 128)
      ∧ (let s : State := at8192 (asked .holdover 0)
         let port : Nat := 23
         let t1 : W64 := 0
         let t2 : W64 := 0
         let t3 : W64 := 0
         let h := s.house
         let fine : W64 := BitVec.ofNat 64 (houseFine s)
         let o := offsetOf (reg s 0x0118) t1 t2 t3 fine
         let size := o.natAbs
         let master := 8 + hcPeer s
         let measure := portUp s port = true ∧ hcSrc s = 2 ∧ port = master ∧ h.exch = some t1
         8 ≤ port ∧ port < 24 ∧ measure ∧ h.state = .holdover ∧ 8 * 128 < size)
      ∧ (let s : State := late (clock (fun h => { h with state := .holdover }) on)
         let port : Nat := 23
         8 ≤ port ∧ port < 24 ∧ hcSrc s ≠ 2 ∧ portUp s port = false ∧ limitPassed s = true) := by
  refine ⟨?_, ?_, ?_, ?_, ?_, ?_, ?_, ?_, ?_, ?_, ?_, ?_, ?_⟩ <;> decide +kernel


/-! ## Witnesses: fault manager -/

def flt (f : Faults → Faults) (s : State) : State := { s with flt := f s.flt }
def full32 : List Signature := List.replicate 32 { dieId := 0, serial := 0, house := 0, type := 0, unit := 0, index := 0, steps := 0, stamps := 0, n := 0, budget := 0 }

theorem witness_RecordsEnterTheLog :
    (let s : State := on
     let r : Report := rep 1 4095
     let v : W32 := 2048
     let index : Nat := 2195
     let f := s.flt
     let old := Tbl.get 0 f.cnt r.type
     let kept := fun (off : Nat) (n : W32) (c : State) => (rcBefore off n c).cyc
     let cyc := kept (0x4A00 + 4 * r.type) old s
     let plain := reportOk r = true ∧ r.type < 32 ∧ r.type ≠ 0x10 ∧ signs r = false
     let room := f.logMem = false ∧ logFull s = false
     let live := s.boot.inReset = false
     plain ∧ room ∧ live ∧ (f.head - f.tail).toNat < (f.head - v.setWidth 12).toNat ∧ index < 4096 ∧ attrOk index = true ∧ f.exports.length
       ≤ s.cyc.exports)
      ∧ (let s : State := on
         let r : Report := rep 0x16 7
         let f := s.flt
         let room := f.logMem = false ∧ logFull s = false
         reportOk r = true ∧ room ∧ ((r.type = 0x16 ∨ r.type = 0x17)) ∧ f.exports.length < 32)
      ∧ (let s : State := on
         let r : Report := rep 0x10 7
         let f := s.flt
         let room := f.logMem = false ∧ logFull s = false
         reportOk r = true ∧ r.type = 0x10 ∧ tooSoon s r = false ∧ room)
      ∧ (let s : State := flt (fun f => { f with corrAt := [(4096 + 7, 0)], exports := full32 }) on
         let r : Report := rep 0x10 7
         let index : Nat := 2196
         let f := s.flt
         let old := Tbl.get 0 f.cnt r.type
         let kept := fun (off : Nat) (n : W32) (c : State) => (rcBefore off n c).cyc
         let cyc := kept (0x4A00 + 4 * r.type) old s
         let live := s.boot.inReset = false
         reportOk r = true ∧ r.type = 0x10 ∧ tooSoon s r = true ∧ live ∧ index < 4096 ∧ attrOk index = false ∧ s.cyc.exports <
           f.exports.length)
      ∧ (let s : State := flt (fun f => { f with exports := full32 }) on
         let r : Report := rep 0x17 7
         let f := s.flt
         let room := f.logMem = false ∧ logFull s = false
         reportOk r = true ∧ room ∧ ((r.type = 0x16 ∨ r.type = 0x17)) ∧ 32 ≤ f.exports.length)
      ∧ (let s : State := flt (fun f => { f with head := 2048 }) on
         let r : Report := rep 31 7
         let v : W32 := 2048
         let f := s.flt
         let plain := reportOk r = true ∧ r.type < 32 ∧ r.type ≠ 0x10 ∧ signs r = false
         let live := s.boot.inReset = false
         plain ∧ ((f.logMem = true ∨ logFull s = true)) ∧ live ∧ (f.head - v.setWidth 12).toNat ≤ (f.head - f.tail).toNat)
      ∧ (let r : Report := rep 0x11 7
         reportOk r = true ∧ r.type = 0x11)
      ∧ (let r : Report := { rep 64 147 with part := none }
         let index : Nat := 0
         reportOk r = true ∧ r.type = votesType ∧ r.index = 147 ∧ r.detail = [1, 0])
      ∧ (let s : State := reset on
         let index : Nat := 2195
         s.boot.inReset = true ∧ index < 4096) := by
  refine ⟨?_, ?_, ?_, ?_, ?_, ?_, ?_, ?_, ?_⟩ <;> decide +kernel

theorem witness_ErrorsAreContainedAndTested :
    (let s : State := on
     let unit : Nat := 255
     let index : Nat := 3
     let kind : Nat := 4
     let b : Nat := 17
     let slot : Nat := 511
     let p : Nat := 0
     let mayStart := index < 256 ∧ s.boot.inReset = false ∧ s.bist.busy = false ∧ kind < 5
     b < 18 ∧ slot < 512 ∧ p < 64 ∧ unit < 256 ∧ mayStart ∧ testAllowed s kind index = true)
      ∧ (let s : State := { on with bist := { on.bist with busy := true, kind := 3, index := 2 } }
         let unit : Nat := 255
         let index : Nat := 17
         let st : Nat := 1727
         let kind : Nat := 0
         let b : Nat := 17
         let slot : Nat := 511
         let p : Nat := 0
         let at_ := Place.barn b
         let ns := node s at_ slot
         b < 18 ∧ slot < 512 ∧ p < 64 ∧ unit < 256 ∧ index < 4096 ∧ isCount s slot = false ∧ ns.sent = false ∧ combining s at_ slot
           ns.epoch = false ∧ (part s p).state ≠ .free ∧ (part s p).state ≠ .resetting ∧ st < nStirrup ∧ kind < 8 ∧ index < 256 ∧
           s.boot.inReset = false ∧ ((5 ≤ kind ∨ s.bist.busy = true)) ∧ s.bist.busy = true)
      ∧ (let s : State := reset on
         let unit : Nat := 255
         let index : Nat := 17
         let kind : Nat := 0
         let b : Nat := 17
         let slot : Nat := 511
         let p : Nat := 0
         b < 18 ∧ slot < 512 ∧ p < 64 ∧ unit < 256 ∧ kind < 8 ∧ index < 256 ∧ s.boot.inReset = true)
      ∧ (let s : State := { on with obs := { on.obs with spill := [⟨0, true, 1, false⟩] } }
         let unit : Nat := 255
         let index : Nat := 17
         let kind : Nat := 0
         let b : Nat := 17
         let slot : Nat := 511
         let p : Nat := 0
         let x : TraceRec := ⟨0, true, 1, false⟩
         let mayStart := index < 256 ∧ s.boot.inReset = false ∧ s.bist.busy = false ∧ kind < 5
         b < 18 ∧ slot < 512 ∧ p < 64 ∧ unit < 256 ∧ s.obs.spill = [x] ∧ mayStart ∧ testAllowed s kind index = false ∧ s.bist.busy = false) := by
  refine ⟨?_, ?_, ?_, ?_⟩ <;> decide +kernel

theorem witness_RecipesAndTokensAreJudged :
    (let s : State := on
     let live := s.boot.inReset = false
     live ∧ authOver s = false)
      ∧ (let s : State := { on with dbg := { on.dbg with auth := 3 } }
         authOver s = true)
      ∧ (let s : State := reset on
         s.boot.inReset = true) := by
  refine ⟨?_, ?_, ?_⟩ <;> decide +kernel


/-! ## Witnesses: partitions -/

def st63 (st : PartState) : State := withPart (Part.initial st) on
def filled : State := { on with force := [(partKey 63 0, 0x001F_8000#32), (partKey 63 0x1C, 0x8000_0000#32), (slotKey 504 0, 0x81C0_0000#32)] }
def mine63 : State := { st63 .quiesced with force := [(rosterKey 1727, 0x8000_FC00#32)] }
def less : State := { st63 .active with force := [(partKey 63 0x2C, 0x8000_0000#32)], staged := [(partKey 63 0x2C, { val := 0, mask := 0xFFFF_FFFF, pend := [] })] }
def lessRight : State := { st63 .active with force := [(partKey 63 0, 0x0020_0000#32)], staged := [(partKey 63 0, { val := 0, mask := 0xFFFF_FFFF, pend := [] })] }
def waits : State := { on with su := { on.su with narrowed := 0x0020_0000 } }
def cross : Crossing := { due := 0, req := req false 8191 6 0, entry := none }
def forced : State := { st63 .active with su := { on.su with revoked := [(1, 127)] }, home := { on.home with crossing := [cross] } }
def low (s : State) : State := { s with boot := { s.boot with reduced := true } }
def only63 (x : Part) (l : Tbl W32) : State := { on with parts := [(63, x)], force := l }
def busyGroup : State := { on with stirs := [(1727, { worker with homeFly := [held 0] })], tly := { on.tly with due := [{ due := 0, act := .cmd { tally := 31, op := 24, nohold := false, src := 1727, part := 0, pay := 2, leftT := 0, ring := 0, didx := 0, word := 0 } }] } }
def kept63 : State := { st63 .quiesced with hq := { on.hq with kept := [] }, force := [(0x08F0, 63#32)] }

theorem witness_PartitionsAreMadeResetAndNarrowed :
    (let s : State := filled
     let p : Nat := 63
     let x := part s p
     let full := s.boot.reduced = false
     p < 64 ∧ p ≠ 0 ∧ full ∧ x.state = .free ∧ partRow s p = 0 ∧ (p = 0 ∨ s.boot.reduced = true ∨ x.state ≠ .quiesced) ∧ (s.boot.reduced =
       true ∨ x.state = .free ∨ x.state = .resetting) ∧ (s.boot.reduced = true ∨ (x.state ≠ .active ∧ x.state ≠ .quiesced)) ∧ revoking s =
       false)
      ∧ (let s : State := st63 .quiesced
         let p : Nat := 63
         let g : Nat × Nat := (1, 127)
         let x := part s p
         let narrowed := changeMap p (narrow p) s
         let gone := (groupsIn s p).filter fun g => !(groupsIn narrowed p).contains g
         let lost := lostRights s narrowed p
         let full := s.boot.reduced = false
         p < 64 ∧ (p = 0 ∨ s.boot.reduced = true ∨ x.state ≠ .free) ∧ p ≠ 0 ∧ full ∧ x.state = .quiesced ∧ assignedOf s p = [] ∧ x.state ≠
           .free ∧ x.state ≠ .resetting ∧ ((x.state = .active ∨ x.state = .quiesced)) ∧ gone = [] ∧ lost = 0)
      ∧ (let s : State := mine63
         let p : Nat := 63
         let x := part s p
         let full := s.boot.reduced = false
         p < 64 ∧ p ≠ 0 ∧ full ∧ x.state = .quiesced ∧ assignedOf s p ≠ [])
      ∧ (let s : State := less
         let p : Nat := 63
         let g : Nat × Nat := (1, 127)
         let x := part s p
         let narrowed := changeMap p (narrow p) s
         let gone := (groupsIn s p).filter fun g => !(groupsIn narrowed p).contains g
         let lost := lostRights s narrowed p
         let full := s.boot.reduced = false
         p < 64 ∧ full ∧ ((x.state = .active ∨ x.state = .quiesced)) ∧ ((gone ≠ [] ∨ lost ≠ 0)))
      ∧ (let s : State := waits
         let p : Nat := 63
         let x := part s p
         let full := s.boot.reduced = false
         p < 64 ∧ p ≠ 0 ∧ full ∧ x.state = .free ∧ partRow s p ≠ 0 ∧ revoking s = true ∧ s.su.revoked = [] ∧ s.hq.descs = [])
      ∧ (let s : State := forced
         let p : Nat := 63
         let c : Crossing := cross
         let g : Nat × Nat := (1, 127)
         p < 64 ∧ s.su.revoked = [g] ∧ s.home.crossing = [c] ∧ c.req.part = p ∧ inGroup g c.req.tok c.req.obj = true ∧ c.req.src < nStirrup) := by
  refine ⟨?_, ?_, ?_, ?_, ?_, ?_⟩ <;> decide +kernel

theorem witness_PartitionsRestSplitAndAccount :
    (let s : State := kept63
     let p : Nat := 63
     let k : Nat := 1
     let x := part s p
     let full := s.boot.reduced = false
     p < 64 ∧ k < 64 ∧ full ∧ x.state = .quiesced ∧ s.boot.inReset = false ∧ dirtyPart s = p)
      ∧ (let s : State := low on
         let p : Nat := 63
         let k : Nat := 3
         p < 64 ∧ k < 64 ∧ s.boot.reduced = true)
      ∧ (let s : State := on
         let p : Nat := 63
         let k : Nat := 56
         let full := s.boot.reduced = false
         p < 64 ∧ k < 64 ∧ full ∧ ((k = 0 ∨ 55 < k)))
      ∧ (let s : State := busyGroup
         let p : Nat := 63
         let k : Nat := 1
         let full := s.boot.reduced = false
         let alone := (((List.range 64).drop 1).any fun q => (part s q).state ≠ .free) = false
         p < 64 ∧ k < 64 ∧ full ∧ 1 ≤ k ∧ k ≤ 55 ∧ alone ∧ splitBlocked s k = true)
      ∧ (let s : State := only63 (Part.initial .active) [(partKey 63 0x10, 0x0005_0002#32)]
         let p : Nat := 63
         let k : Nat := 55
         let x := part s p
         let full := s.boot.reduced = false
         let alone := (((List.range 64).drop 1).any fun q => (part s q).state ≠ .free) = false
         let w := reg s (partKey p 0x10)
         p < 64 ∧ k < 64 ∧ (s.boot.reduced = true ∨ x.state ≠ .quiesced) ∧ full ∧ 1 ≤ k ∧ k ≤ 55 ∧ ¬ alone ∧ livePartitions s = [p] ∧
           x.rateEff = 0 ∧ bitsN w 24 16 ≠ 0 ∧ (x.state ≠ .quiescing ∨ atRest s p = false))
      ∧ (let s : State := only63 { Part.initial .active with rateEff := 3 } [(partKey 63 0x10, 0x0005_0002#32)]
         let p : Nat := 63
         let k : Nat := 55
         let x := part s p
         let w := reg s (partKey p 0x10)
         p < 64 ∧ k < 64 ∧ livePartitions s = [p] ∧ ((x.rateEff ≠ 0 ∨ bitsN w 24 16 = 0)))
      ∧ (let s : State := reset on
         let p : Nat := 63
         let k : Nat := 55
         let full := s.boot.reduced = false
         let alone := (((List.range 64).drop 1).any fun q => (part s q).state ≠ .free) = false
         p < 64 ∧ k < 64 ∧ full ∧ 1 ≤ k ∧ k ≤ 55 ∧ alone ∧ splitBlocked s k = false ∧ s.boot.inReset = true)
      ∧ (let s : State := st63 .quiescing
         let p : Nat := 63
         let k : Nat := 55
         let x := part s p
         p < 64 ∧ k < 64 ∧ x.state = .quiescing ∧ atRest s p = true ∧ s.hq.descs = []) := by
  refine ⟨?_, ?_, ?_, ?_, ?_, ?_, ?_, ?_⟩ <;> decide +kernel


/-! ## Witnesses: rings and descriptors -/

def ringed (w : W32) : State := withPage [(pageKey 63 0x68, w)] on
def snapX : Desc := { part := 63, ring := 3, idx := 7, d := [8, 0, 0, 0, 0x1000, 524288, 0, 0] }
def snapAt (k : Nat) : SnapRun := { x := snapX, raised := false, stage := k }
def rawDesc (ab : Bool) : DescState := { descState { part := 63, ring := 3, idx := 9, d := [] } [] with decoded := false, aborted := ab }
def timed (f : HostQ → HostQ) : State := { withPage [(pageKey 63 0x88, 0x0400_0006#32)] on with hq := f { on.hq with cqSince := [(63, 1)] } }
def kw : DmaWrite := { part := 63, kind := 1, addr := 0, data := [0] }
def wbAt (w : W32) (st : PartState) : State := { withPart (Part.initial st) (withPage [(pageKey 63 0xC0, w)] on) with force := [(partKey 63 4, 0x8000_0000#32)], hq := { on.hq with wbDue := [63] } }
def offed (f : HostQ → HostQ) : State := { on with hq := f { on.hq with off := true } }
def ready (x : Desc) (ids : List Nat) (s : State) : State := withDesc (descState x ids) s
def fetchDue : State := withPage [(pageKey 63 0x68, 0x8000_0006#32), (pageKey 63 0x6C, 1#32), (pageKey 63 0x88, 0x8000_0006#32)] (withPart (Part.initial .active) { on with force := [(partKey 63 4, 0x8000_0000#32)] })
def small : State := { on with force := [(0x5000, 0x8000_0000#32)] }
def noShare (s : State) : State := { s with parts := [(0, { Part.initial .active with shareEff := 0 })] }
def snap0 : Desc := { part := 0, ring := 3, idx := 0, d := [8, 0, 0, 0, 0x1000, 524288, 0, 0] }
def raw0 (x : Desc) (ab : Bool) : DescState := { descState { x with d := [] } [] with decoded := false, aborted := ab }
def sn (k : Nat) (s : State) : State := { s with obs := { s.obs with snaps := [{ x := snap0, raised := false, stage := k }] } }
def dark0 : State := { on with parts := [(0, { Part.initial .active with causes := 1, curtain := 1 })] }
def sr (k : Nat) : SnapRun := { x := snap0, raised := false, stage := k }
def hostSlot : State := { on with force := [(slotKey 7 0, 0x85C0_0000#32)] }
def refusedD (x : Desc) (ids : List Nat) : DescState := { descState x ids with refusal := 1 }
def calls : State := { ready (descOf 1 7) [7] hostSlot with hq := { (ready (descOf 1 7) [7] hostSlot).hq with hostCall := [(7, descOf 1 7)] } }

theorem witness_RingsRunAndStop :
    (let s : State := on
     let p : Nat := 63
     let q : Nat := 3
     let v : W32 := 0x8000_0010
     let ctl := pageReg s p (0x20 * q + 8)
     let prod := pageReg s p (0x20 * q + 0xC)
     let cons := pageReg s p (0x20 * q + 0x10)
     let n := (v - cons).toNat
     let inRange := (prod - cons).toNat ≤ n ∧ n ≤ 2 ^ bitsN ctl 4 0
     let live := s.boot.inReset = false
     p < 64 ∧ q < 4 ∧ live ∧ ((bitB ctl 31 = false ∨ s.boot.reduced = true ∨ inRange)) ∧ bitB ctl 31 = false ∧ bitB v 31 = true ∧ bitB v 29
       = false ∧ 6 ≤ bitsN v 4 0 ∧ bitsN v 4 0 ≤ 16 ∧ bitB (pageReg s p 0x88) 30 = false ∧ bitB (pageReg s p 0xA8) 30 = false)
      ∧ (let s : State := on
         let p : Nat := 63
         let q : Nat := 3
         let v : W32 := 0x0000_0011
         let ctl := pageReg s p (0x20 * q + 8)
         let live := s.boot.inReset = false
         p < 64 ∧ q < 4 ∧ live ∧ bitB ctl 31 = false ∧ bitB v 31 = false ∧ bitB v 29 = false ∧ ((bitsN v 4 0 < 6 ∨ 16 < bitsN v 4 0)))
      ∧ (let s : State := ringed 0x8000_0006
         let p : Nat := 63
         let q : Nat := 3
         let v : W32 := 0x0000_0006
         let ctl := pageReg s p (0x20 * q + 8)
         let live := s.boot.inReset = false
         p < 64 ∧ q < 4 ∧ live ∧ bitB ctl 31 = true ∧ bitB v 31 = false ∧ bitB v 29 = false ∧ bitsN v 4 0 = bitsN ctl 4 0)
      ∧ (let s : State := ringed 0x8000_0006
         let p : Nat := 63
         let q : Nat := 3
         let v : W32 := 0xA000_0006
         let ctl := pageReg s p (0x20 * q + 8)
         let prod := pageReg s p (0x20 * q + 0xC)
         let cons := pageReg s p (0x20 * q + 0x10)
         let n := (v - cons).toNat
         let inRange := (prod - cons).toNat ≤ n ∧ n ≤ 2 ^ bitsN ctl 4 0
         let live := s.boot.inReset = false
         p < 64 ∧ q < 4 ∧ live ∧ bitB ctl 31 = true ∧ s.boot.reduced = false ∧ ¬ inRange ∧ bitB v 31 = true ∧ bitB v 29 = true ∧ bitsN v 4
           0 = bitsN ctl 4 0)
      ∧ (let s : State := withPage [(pageKey 63 0x88, 0x4000_0006#32), (pageKey 63 0xA8, 0x4000_0006#32)] on
         let p : Nat := 63
         let q : Nat := 3
         let live := s.boot.inReset = false
         p < 64 ∧ q < 4 ∧ live ∧ bitB (pageReg s p 0x88) 30 = true ∧ bitB (pageReg s p 0xA8) 30 = true)
      ∧ (let s : State := reset on
         let p : Nat := 63
         let q : Nat := 3
         p < 64 ∧ q < 4 ∧ s.boot.inReset = true) := by
  refine ⟨?_, ?_, ?_, ?_, ?_, ?_⟩ <;> decide +kernel

theorem witness_HostWritesAndInterruptsLeave :
    (let s : State := withDesc (rawDesc false) on
     let p : Nat := 63
     let q : Nat := 3
     let d : DescState := rawDesc false
     let hq := s.hq
     p < 64 ∧ q < 4 ∧ hq.descs = [d] ∧ d.x.part = p ∧ d.x.ring = q ∧ d.decoded = false ∧ d.started = false ∧ d.aborted = false)
      ∧ (let s : State := withDesc (rawDesc true) on
         let p : Nat := 63
         let q : Nat := 3
         let d : DescState := rawDesc true
         let hq := s.hq
         p < 64 ∧ q < 4 ∧ hq.descs = [d] ∧ d.x.part = p ∧ d.x.ring = q ∧ d.decoded = false ∧ d.aborted = true)
      ∧ (let s : State := { on with obs := { on.obs with snaps := [snapAt 4] } }
         let p : Nat := 63
         let q : Nat := 3
         let y : SnapRun := snapAt 4
         p < 64 ∧ q < 4 ∧ s.obs.snaps = [y] ∧ y.x.part = p ∧ y.x.ring = q ∧ y.stage = 4)
      ∧ (let s : State := timed id
         let p : Nat := 63
         let q : Nat := 3
         let hq := s.hq
         let since := Tbl.get 0 hq.cqSince p ≠ 0 ∧ bitB (pageReg s p 0x88) 26 = true
         let free := (hq.kept.any fun w => w.part == p) = false
         p < 64 ∧ q < 4 ∧ since ∧ free ∧ hq.dmaQ = [])
      ∧ (let s : State := timed (fun h => { h with dmaQ := [.flush] })
         let p : Nat := 63
         let q : Nat := 3
         let hq := s.hq
         let since := Tbl.get 0 hq.cqSince p ≠ 0 ∧ bitB (pageReg s p 0x88) 26 = true
         let free := (hq.kept.any fun w => w.part == p) = false
         p < 64 ∧ q < 4 ∧ since ∧ free ∧ hq.dmaQ ≠ [])
      ∧ (let s : State := timed (fun h => { h with kept := [kw] })
         let p : Nat := 63
         let q : Nat := 3
         let hq := s.hq
         let since := Tbl.get 0 hq.cqSince p ≠ 0 ∧ bitB (pageReg s p 0x88) 26 = true
         let holds := (hq.kept.any fun w => w.part == p) = true
         p < 64 ∧ q < 4 ∧ since ∧ holds)
      ∧ (let s : State := wbAt 1 .active
         let p : Nat := 63
         let q : Nat := 3
         let hq := s.hq
         let due := hq.wbDue.contains p = true
         p < 64 ∧ q < 4 ∧ due ∧ bitB (pageReg s p 0xC0) 0 = true ∧ dmaAllowed s p = true ∧ (((part s p).state ≠ .quiesced ∨ hq.off = true))
           ∧ (part s p).dirty.en = false)
      ∧ (let s : State := wbAt 1 .quiesced
         let p : Nat := 63
         let q : Nat := 3
         let hq := s.hq
         let due := hq.wbDue.contains p = true
         p < 64 ∧ q < 4 ∧ due ∧ bitB (pageReg s p 0xC0) 0 = true ∧ dmaAllowed s p = true ∧ (part s p).state = .quiesced ∧ hq.off = false)
      ∧ (let s : State := wbAt 0 .active
         let p : Nat := 63
         let q : Nat := 3
         let hq := s.hq
         let due := hq.wbDue.contains p = true
         p < 64 ∧ q < 4 ∧ due ∧ ((bitB (pageReg s p 0xC0) 0 = false ∨ dmaAllowed s p = false)))
      ∧ (let s : State := { on with agenda := [{ clk := .eclk, due := 5, ev := .powerDown }] }
         let p : Nat := 63
         let q : Nat := 3
         let hq := s.hq
         let idle := (s.agenda.any fun a => a.ev == .powerDown) = false
         p < 64 ∧ q < 4 ∧ hq.descs = [] ∧ s.obs.snaps = [] ∧ (Tbl.get 0 hq.cqSince p = 0 ∨ bitB (pageReg s p 0x88) 26 = false) ∧
           hq.wbDue.contains p = false ∧ ¬ idle)
      ∧ (let s : State := offed id
         let p : Nat := 63
         let q : Nat := 3
         let hq := s.hq
         let idle := (s.agenda.any fun a => a.ev == .powerDown) = false
         p < 64 ∧ q < 4 ∧ idle ∧ hq.off = true ∧ hq.flushWait = false ∧ awaiting s = false ∧ hq.wbDue = [] ∧ hq.kept = [] ∧ hq.keptIrqs =
           [])
      ∧ (let s : State := offed (fun h => { h with flushWait := true, dmaQ := [.flush] })
         let p : Nat := 63
         let q : Nat := 3
         let hq := s.hq
         let idle := (s.agenda.any fun a => a.ev == .powerDown) = false
         p < 64 ∧ q < 4 ∧ idle ∧ hq.off = true ∧ hq.flushWait = true ∧ hq.dmaQ.contains .flush = true)
      ∧ (let s : State := offed (fun h => { h with flushWait := true })
         let p : Nat := 63
         let q : Nat := 3
         let hq := s.hq
         let idle := (s.agenda.any fun a => a.ev == .powerDown) = false
         p < 64 ∧ q < 4 ∧ idle ∧ hq.off = true ∧ hq.flushWait = true ∧ hq.dmaQ.contains .flush = false)
      ∧ (let s : State := withDesc (descState (descOf 0 0) []) on
         let p : Nat := 63
         let q : Nat := 3
         let d : DescState := descState (descOf 0 0) []
         let hq := s.hq
         let idle := (s.agenda.any fun a => a.ev == .powerDown) = false
         p < 64 ∧ q < 4 ∧ idle ∧ hq.off = false ∧ s.obs.snaps = [] ∧ hq.descs = [d] ∧ d.decoded = true) := by
  refine ⟨?_, ?_, ?_, ?_, ?_, ?_, ?_, ?_, ?_, ?_, ?_, ?_, ?_, ?_⟩ <;> decide +kernel

theorem witness_DescriptorsAreFetchedAndStart :
    (let s : State := fetchDue
     let x : Desc := descOf 0 0
     let p : Nat := 63
     let q : Nat := 3
     descOk x = true ∧ nextFetch s = some (p, q))
      ∧ (let s : State := withDesc (raw0 (descOf 0 0) false) on
         let x : Desc := descOf 0 0
         let d : DescState := raw0 (descOf 0 0) false
         let waits := s.hq.descs = [d] ∧ sameDesc d.x x = true ∧ d.decoded = false
         descOk x = true ∧ waits ∧ d.aborted = false ∧ malformed s x = 0)
      ∧ (let s : State := withDesc (raw0 (descOf 255 0) false) on
         let x : Desc := descOf 255 0
         let d : DescState := raw0 (descOf 255 0) false
         let waits := s.hq.descs = [d] ∧ sameDesc d.x x = true ∧ d.decoded = false
         descOk x = true ∧ waits ∧ d.aborted = false ∧ d.started = false ∧ malformed s x ≠ 0)
      ∧ (let s : State := withDesc (raw0 (descOf 0 0) true) on
         let x : Desc := descOf 0 0
         let d : DescState := raw0 (descOf 0 0) true
         let waits := s.hq.descs = [d] ∧ sameDesc d.x x = true ∧ d.decoded = false
         descOk x = true ∧ waits ∧ d.aborted = true)
      ∧ (let s : State := ready (descOf 0 0) [] on
         let x : Desc := descOf 0 0
         let d : DescState := descState (descOf 0 0) []
         let alone := s.hq.descs = [d] ∧ d.x = x ∧ d.decoded = true ∧ d.started = false ∧ d.refusal = 0 ∧ covered s x.part = false
         let ok := fun (op : Nat) => alone ∧ descOp x = op
         descOk x = true ∧ ok 0)
      ∧ (let s : State := ready (descOf 7 9) [] small
         let x : Desc := descOf 7 9
         let d : DescState := descState (descOf 7 9) []
         let alone := s.hq.descs = [d] ∧ d.x = x ∧ d.decoded = true ∧ d.started = false ∧ d.refusal = 0 ∧ covered s x.part = false
         let ok := fun (op : Nat) => alone ∧ descOp x = op
         descOk x = true ∧ ok 7 ∧ traceMode s = 2 ∧ (part s x.part).shareEff ≠ 0 ∧ s.obs.dropPhase = false ∧ unreservedCount s < 16255 ∧
           overShare s x.part = false)
      ∧ (let s : State := noShare (ready (descOf 7 9) [] small)
         let x : Desc := descOf 7 9
         let d : DescState := descState (descOf 7 9) []
         let alone := s.hq.descs = [d] ∧ d.x = x ∧ d.decoded = true ∧ d.started = false ∧ d.refusal = 0 ∧ covered s x.part = false
         let ok := fun (op : Nat) => alone ∧ descOp x = op
         descOk x = true ∧ ok 7 ∧ (part s x.part).shareEff = 0)
      ∧ (let s : State := ready snap0 [] on
         let x : Desc := snap0
         let d : DescState := descState snap0 []
         let alone := s.hq.descs = [d] ∧ d.x = x ∧ d.decoded = true ∧ d.started = false ∧ d.refusal = 0 ∧ covered s x.part = false
         let ok := fun (op : Nat) => alone ∧ descOp x = op
         descOk x = true ∧ ok 8 ∧ s.obs.snaps = [])
      ∧ (let s : State := sn 2 dark0
         let x : Desc := snap0
         let y : SnapRun := sr 2
         let target := descBits x 1 5 0
         let snap := s.obs.snaps = [y] ∧ y.x = x ∧ descOp x = 8 ∧ malformed s x = 0 ∧ y.raised = false
         descOk x = true ∧ nextFetch s = none ∧ s.hq.descs = [] ∧ snap ∧ y.stage = 2 ∧ covered s target = true)
      ∧ (let s : State := sn 3 dark0
         let x : Desc := snap0
         let y : SnapRun := sr 3
         let snap := s.obs.snaps = [y] ∧ y.x = x ∧ descOp x = 8 ∧ malformed s x = 0 ∧ y.raised = false
         descOk x = true ∧ snap ∧ y.stage = 3 ∧ dmaAllowed s x.part = false)
      ∧ (let s : State := sn 4 on
         let x : Desc := snap0
         let y : SnapRun := sr 4
         let snap := s.obs.snaps = [y] ∧ y.x = x ∧ descOp x = 8 ∧ malformed s x = 0 ∧ y.raised = false
         descOk x = true ∧ snap ∧ y.stage = 4)
      ∧ (let s : State := ready (descOf 10 0) [] on
         let x : Desc := descOf 10 0
         let d : DescState := descState (descOf 10 0) []
         let alone := s.hq.descs = [d] ∧ d.x = x ∧ d.decoded = true ∧ d.started = false ∧ d.refusal = 0 ∧ covered s x.part = false
         let ok := fun (op : Nat) => alone ∧ descOp x = op
         let target := descBits x 1 5 0
         descOk x = true ∧ ok 10 ∧ (part s target).state = .active)
      ∧ (let s : State := ready (descOf 10 63) [] (withPart (Part.initial .quiesced) on)
         let x : Desc := descOf 10 63
         let d : DescState := descState (descOf 10 63) []
         let alone := s.hq.descs = [d] ∧ d.x = x ∧ d.decoded = true ∧ d.started = false ∧ d.refusal = 0 ∧ covered s x.part = false
         let ok := fun (op : Nat) => alone ∧ descOp x = op
         let target := descBits x 1 5 0
         descOk x = true ∧ ok 10 ∧ (part s target).state = .quiesced)
      ∧ (let s : State := ready (descOf 10 62) [] on
         let x : Desc := descOf 10 62
         let d : DescState := descState (descOf 10 62) []
         let alone := s.hq.descs = [d] ∧ d.x = x ∧ d.decoded = true ∧ d.started = false ∧ d.refusal = 0 ∧ covered s x.part = false
         let ok := fun (op : Nat) => alone ∧ descOp x = op
         let target := descBits x 1 5 0
         descOk x = true ∧ ok 10 ∧ (((part s target).state = .free ∨ (part s target).state = .resetting))) := by
  refine ⟨?_, ?_, ?_, ?_, ?_, ?_, ?_, ?_, ?_, ?_, ?_, ?_, ?_, ?_⟩ <;> decide +kernel

theorem witness_HostOperationsReachTheirUnits :
    (let s : State := ready (descOf 1 7) [7] hostSlot
     let x : Desc := descOf 1 7
     let d : DescState := descState (descOf 1 7) [7]
     let begins := s.hq.descs = [d] ∧ d.x = x ∧ d.decoded = true ∧ d.started = false
     let alone := begins ∧ d.refusal = 0 ∧ covered s x.part = false
     let ok := fun (op : Nat) => alone ∧ descOp x = op
     descOk x = true ∧ ok 1 ∧ dAct x = 0 ∧ s.hq.hostCall = [])
      ∧ (let s : State := calls
         let x : Desc := descOf 1 7
         let d : DescState := descState (descOf 1 7) [7]
         let slot := d.ids.headD 0
         let begins := s.hq.descs = [d] ∧ d.x = x ∧ d.decoded = true ∧ d.started = false
         let alone := begins ∧ d.refusal = 0 ∧ covered s x.part = false
         let ok := fun (op : Nat) => alone ∧ descOp x = op
         descOk x = true ∧ ok 1 ∧ dAct x = 0 ∧ (s.hq.hostCall.any fun h => h.1 == slot) = true)
      ∧ (let s : State := ready (descOf 1 0x407) [7] hostSlot
         let x : Desc := descOf 1 0x407
         let d : DescState := descState (descOf 1 0x407) [7]
         let begins := s.hq.descs = [d] ∧ d.x = x ∧ d.decoded = true ∧ d.started = false
         let alone := begins ∧ d.refusal = 0 ∧ covered s x.part = false
         let ok := fun (op : Nat) => alone ∧ descOp x = op
         descOk x = true ∧ ok 1 ∧ dAct x = 1)
      ∧ (let s : State := ready (descOf 1 0x807) [7] hostSlot
         let x : Desc := descOf 1 0x807
         let d : DescState := descState (descOf 1 0x807) [7]
         let begins := s.hq.descs = [d] ∧ d.x = x ∧ d.decoded = true ∧ d.started = false
         let alone := begins ∧ d.refusal = 0 ∧ covered s x.part = false
         let ok := fun (op : Nat) => alone ∧ descOp x = op
         descOk x = true ∧ ok 1 ∧ dAct x = 2)
      ∧ (let s : State := ready (descOf 2 0x0006_0000) [63] on
         let x : Desc := descOf 2 0x0006_0000
         let d : DescState := descState (descOf 2 0x0006_0000) [63]
         let i : Nat := 63
         let begins := s.hq.descs = [d] ∧ d.x = x ∧ d.decoded = true ∧ d.started = false
         let alone := begins ∧ d.refusal = 0 ∧ covered s x.part = false
         let ok := fun (op : Nat) => alone ∧ descOp x = op
         let one := d.ids = [i] ∧ flyOf s x.part < 16
         descOk x = true ∧ ok 2 ∧ one)
      ∧ (let s : State := ready (descOf 2 0x0105_0000) [63, 64] on
         let x : Desc := descOf 2 0x0105_0000
         let d : DescState := descState (descOf 2 0x0105_0000) [63, 64]
         let i : Nat := 63
         let j : Nat := 64
         let begins := s.hq.descs = [d] ∧ d.x = x ∧ d.decoded = true ∧ d.started = false
         let alone := begins ∧ d.refusal = 0 ∧ covered s x.part = false
         let ok := fun (op : Nat) => alone ∧ descOp x = op
         let two := d.ids = [i, j] ∧ flyOf s x.part < 15
         descOk x = true ∧ ok 2 ∧ two)
      ∧ (let s : State := ready (descOf 3 0x0010_0000) [63] on
         let x : Desc := descOf 3 0x0010_0000
         let d : DescState := descState (descOf 3 0x0010_0000) [63]
         let i : Nat := 63
         let begins := s.hq.descs = [d] ∧ d.x = x ∧ d.decoded = true ∧ d.started = false
         let alone := begins ∧ d.refusal = 0 ∧ covered s x.part = false
         let ok := fun (op : Nat) => alone ∧ descOp x = op
         let one := d.ids = [i] ∧ flyOf s x.part < 16
         descOk x = true ∧ ok 3 ∧ one)
      ∧ (let s : State := ready (descOf 3 0x0110_0000) [63, 64] on
         let x : Desc := descOf 3 0x0110_0000
         let d : DescState := descState (descOf 3 0x0110_0000) [63, 64]
         let i : Nat := 63
         let j : Nat := 64
         let begins := s.hq.descs = [d] ∧ d.x = x ∧ d.decoded = true ∧ d.started = false
         let alone := begins ∧ d.refusal = 0 ∧ covered s x.part = false
         let ok := fun (op : Nat) => alone ∧ descOp x = op
         let two := d.ids = [i, j] ∧ flyOf s x.part < 15
         descOk x = true ∧ ok 3 ∧ two)
      ∧ (let s : State := withDesc (refusedD (descOf 2 0x0006_0000) [63]) on
         let x : Desc := descOf 2 0x0006_0000
         let d : DescState := refusedD (descOf 2 0x0006_0000) [63]
         let i : Nat := 63
         let begins := s.hq.descs = [d] ∧ d.x = x ∧ d.decoded = true ∧ d.started = false
         let one := d.ids = [i] ∧ flyOf s x.part < 16
         descOk x = true ∧ begins ∧ d.refusal ≠ 0 ∧ descOp x = 2 ∧ one)
      ∧ (let s : State := withDesc (refusedD (descOf 3 0x0010_0000) [63]) on
         let x : Desc := descOf 3 0x0010_0000
         let d : DescState := refusedD (descOf 3 0x0010_0000) [63]
         let i : Nat := 63
         let begins := s.hq.descs = [d] ∧ d.x = x ∧ d.decoded = true ∧ d.started = false
         let one := d.ids = [i] ∧ flyOf s x.part < 16
         descOk x = true ∧ begins ∧ d.refusal ≠ 0 ∧ descOp x = 3 ∧ one)
      ∧ (let s : State := ready (descOf 4 0x001A_0000) [15] on
         let x : Desc := descOf 4 0x001A_0000
         let d : DescState := descState (descOf 4 0x001A_0000) [15]
         let begins := s.hq.descs = [d] ∧ d.x = x ∧ d.decoded = true ∧ d.started = false
         let alone := begins ∧ d.refusal = 0 ∧ covered s x.part = false
         let ok := fun (op : Nat) => alone ∧ descOp x = op
         descOk x = true ∧ ok 4)
      ∧ (let s : State := ready (descOf 4 0x001A_0000) [15] dark0
         let x : Desc := descOf 4 0x001A_0000
         let d : DescState := descState (descOf 4 0x001A_0000) [15]
         let begins := s.hq.descs = [d] ∧ d.x = x ∧ d.decoded = true ∧ d.started = false
         descOk x = true ∧ begins ∧ d.refusal = 0 ∧ descOp x = 4 ∧ covered s x.part = true)
      ∧ (let s : State := ready (descOf 5 0x70) [7] on
         let x : Desc := descOf 5 0x70
         let d : DescState := descState (descOf 5 0x70) [7]
         let slot := d.ids.headD 0
         let begins := s.hq.descs = [d] ∧ d.x = x ∧ d.decoded = true ∧ d.started = false
         let alone := begins ∧ d.refusal = 0 ∧ covered s x.part = false
         let ok := fun (op : Nat) => alone ∧ descOp x = op
         let mask := fun (k : Nat) (v : W32) => ~~~ (reservedBits k v) &&& wbMask k &&& ~~~ (fixedBits k)
         descOk x = true ∧ ok 5 ∧ dKind x = 0 ∧ dWmask x = 7 ∧ 0 < slot ∧ slot < 512 ∧ mask (slotKey slot 0) ((descWord x 2).setWidth 32) ≠
           0)
      ∧ (let s : State := ready (descOf 5 0x11) [8191] on
         let x : Desc := descOf 5 0x11
         let d : DescState := descState (descOf 5 0x11) [8191]
         let slot := d.ids.headD 0
         let begins := s.hq.descs = [d] ∧ d.x = x ∧ d.decoded = true ∧ d.started = false
         let alone := begins ∧ d.refusal = 0 ∧ covered s x.part = false
         let ok := fun (op : Nat) => alone ∧ descOp x = op
         let mask := fun (k : Nat) (v : W32) => ~~~ (reservedBits k v) &&& wbMask k &&& ~~~ (fixedBits k)
         descOk x = true ∧ ok 5 ∧ dKind x = 1 ∧ dWmask x = 1 ∧ slot < 8192 ∧ mask (objCfgKey false slot) ((descWord x 2).setWidth 32) ≠ 0)
      ∧ (let s : State := ready (descOf 5 0x12) [2047] on
         let x : Desc := descOf 5 0x12
         let d : DescState := descState (descOf 5 0x12) [2047]
         let slot := d.ids.headD 0
         let begins := s.hq.descs = [d] ∧ d.x = x ∧ d.decoded = true ∧ d.started = false
         let alone := begins ∧ d.refusal = 0 ∧ covered s x.part = false
         let ok := fun (op : Nat) => alone ∧ descOp x = op
         let mask := fun (k : Nat) (v : W32) => ~~~ (reservedBits k v) &&& wbMask k &&& ~~~ (fixedBits k)
         descOk x = true ∧ ok 5 ∧ dKind x = 2 ∧ dWmask x = 1 ∧ slot < 2048 ∧ mask (objCfgKey true slot) ((descWord x 2).setWidth 32) ≠ 0)
      ∧ (let s : State := ready (descOf 6 0x100) [15, 7, 0] on
         let x : Desc := descOf 6 0x100
         let d : DescState := descState (descOf 6 0x100) [15, 7, 0]
         let slot := d.ids.headD 0
         let begins := s.hq.descs = [d] ∧ d.x = x ∧ d.decoded = true ∧ d.started = false
         let alone := begins ∧ d.refusal = 0 ∧ covered s x.part = false
         let ok := fun (op : Nat) => alone ∧ descOp x = op
         descOk x = true ∧ ok 6 ∧ slot < 16) := by
  refine ⟨?_, ?_, ?_, ?_, ?_, ?_, ?_, ?_, ?_, ?_, ?_, ?_, ?_, ?_, ?_, ?_⟩ <;> decide +kernel


/-! ## Witnesses: observation -/

def cyced : State := { on with flt := { on.flt with lost := 7 }, cyc := { on.cyc with rc := [(0x4810, 5)] } }
def lostS : State := { on with flt := { on.flt with lost := 7 } }
def armed (hi : W32) : State := { on with force := [(0x5018, 0x8000_0000#32), (0x5024, hi)] }
def onePart (w : W32) : State := { on with parts := [(63, { Part.initial .active with frozenMode := true, counters := [(3, 9)] })], force := [(0x5014, w)] }
def small6 : State := { on with force := [(0x5000, 0x8200_0000#32), (rosterKey 1727, 0x8000_0000#32)], parts := [(0, { Part.initial .active with shareEff := 1 })] }
def rec6 : TraceRec := { part := 63, reserved := false, bits := 2 ^ 127 + 5, bad := true }
def obs6 (f : Observe → Observe) : State := { on with obs := f on.obs }
def iso6 : State := { small6 with stirs := [(1727, { Stirrup.initial with iso := true, lastPc := 77 })] }

theorem witness_CountersAreReadAndCollected :
    (let s : State := lostS
     let p : Nat := 63
     let i : Nat := 15
     let off : Nat := 0x4810
     let path : Path := .manager
     let v : W32 := 7
     let u : State := ((rcTake lostS .manager 0x4810).getD (0, on)).2
     let live := s.boot.inReset = false
     p < 64 ∧ i < 16 ∧ live ∧ s.cyc.rc.lookup 0x4810 = none ∧ rcTake s path off = some (v, u) ∧ p < 512)
      ∧ (let s : State := cyced
         let off : Nat := 0x4812
         let size : Nat := 4
         let old : W32 := 5
         let live := s.boot.inReset = false
         live ∧ s.cyc.rc.lookup 0x4810 = some old ∧ off < 0x10000 ∧ aligned off size = false)
      ∧ (let s : State := reset on
         s.boot.inReset = true)
      ∧ (let s : State := armed 1
         let live := s.boot.inReset = false
         live ∧ fld s 0x5018 31 30 = 2 ∧ edgeReached s (freezeTime s) = false)
      ∧ (let s : State := armed 0
         let live := s.boot.inReset = false
         live ∧ fld s 0x5018 31 30 = 2 ∧ edgeReached s (freezeTime s) = true)
      ∧ (let s : State := onePart 0x8000_0000
         let p : Nat := 63
         livePartitions s = [p] ∧ frozenBit s p = true)
      ∧ (let s : State := onePart 0
         let p : Nat := 63
         livePartitions s = [p] ∧ frozenBit s p = false) := by
  refine ⟨?_, ?_, ?_, ?_, ?_, ?_, ?_⟩ <;> decide +kernel

theorem witness_TraceIsSampledAndSent :
    (let s : State := on
     let st : Nat := 1727
     let w : Nat := 15
     let o := s.obs
     let live := s.boot.inReset = false
     traceMode s = 0 ∧ o.winDropped = [] ∧ (o.dropPhase = false ∨ 12288 < o.spill.length) ∧ o.spill = [] ∧ st < nStirrup ∧ (sampling s =
       false ∨ sampled s st = false) ∧ w < 16 ∧ live)
      ∧ (let s : State := small6
         let st : Nat := 1727
         traceMode s ≠ 0 ∧ st < nStirrup ∧ sampling s = true ∧ sampled s st = true ∧ unstrobed s st = false)
      ∧ (let s : State := iso6
         let st : Nat := 1727
         st < nStirrup ∧ sampling s = true ∧ sampled s st = true ∧ unstrobed s st = true)
      ∧ (let s : State := obs6 (fun o => { o with dropPhase := true, lostRun := [(63, 2)] })
         let o := s.obs
         o.dropPhase = true ∧ o.spill.length ≤ 12288)
      ∧ (let s : State := obs6 (fun o => { o with spill := [rec6], winLeft := 7 })
         let r : TraceRec := rec6
         let l : List TraceRec := []
         let o := s.obs
         o.spill = r :: l ∧ o.dropPhase = false ∧ o.winLeft + 1 ≠ 4096)
      ∧ (let s : State := obs6 (fun o => { o with spill := [rec6], winLeft := 4095 })
         let r : TraceRec := rec6
         let l : List TraceRec := []
         let o := s.obs
         o.spill = r :: l ∧ o.winLeft + 1 = 4096) := by
  refine ⟨?_, ?_, ?_, ?_, ?_, ?_⟩ <;> decide +kernel


/-! ## Witnesses: registers and start-up -/

/-! A book image of one record of four zero bytes; the CRC of its 236 zero bytes is 0x00676D9C (IEEE 802.3, by hand). -/

def busy7 : State := { on with su := { on.su with objBusy := true } }
def sel7 : State := { on with force := [(0x08C0, 0x0000_1FFF#32)] }
def selT7 : State := { on with force := [(0x08C0, 0x4000_07FF#32)] }
def locked7 : State := { on with force := [(0x0010, 0xC0#32)] }
def src7 : State := { on with force := [(0x0100, 0x4000_0000#32)] }
def fuses7 (m : BitVec 1728) (g : BitVec 2) (h : BitVec 384) : Fuses := { State.reset.boot.fuses with goodMap := m, grade := g, keyHash := h }
def boot7 (f : Boot → Boot) : State := { on with boot := f on.boot }
def down7 : State := { reset on with boot := { (reset on).boot with pwrgd := true } }
def book7 : Book := { copyB := true, seq := 1, recs := [] }
theorem crc_part1 : (List.replicate 40 0#8).foldl crcByte 0xFFFFFFFF#32 = 0x1613C24E#32 := by decide +kernel
theorem crc_part2 : (List.replicate 40 0#8).foldl crcByte 0x1613C24E#32 = 0x71DCE719#32 := by decide +kernel
theorem crc_part3 : (List.replicate 40 0#8).foldl crcByte 0x71DCE719#32 = 0xC6A285D8#32 := by decide +kernel
theorem crc_part4 : (List.replicate 40 0#8).foldl crcByte 0xC6A285D8#32 = 0x55F8AC9C#32 := by decide +kernel
theorem crc_part5 : (List.replicate 40 0#8).foldl crcByte 0x55F8AC9C#32 = 0x368E5789#32 := by decide +kernel
theorem crc_part6 : (List.replicate 36 0#8).foldl crcByte 0x368E5789#32 = 0xFF989263#32 := by decide +kernel

theorem crc_zeros : crc32 (List.replicate 236 0#8) = 0x00676D9C#32 := by
  have h : List.replicate 236 0#8 = List.replicate 40 0#8 ++ (List.replicate 40 0#8 ++ (List.replicate 40 0#8
      ++ (List.replicate 40 0#8 ++ (List.replicate 40 0#8 ++ List.replicate 36 0#8)))) := by decide +kernel
  simp only [crc32, h, List.foldl_append, crc_part1, crc_part2, crc_part3, crc_part4, crc_part5, crc_part6]
  decide

def image7 : List (BitVec 8) :=
  [0x55#8, 0x48#8, 0x4B#8, 0x50#8, 1#8, 0#8, 0#8, 0#8, 4#8, 0#8, 0#8, 0#8, 1#8, 0#8, 0#8, 0#8, 0#8, 0#8, 0#8, 0#8,
   0x9C#8, 0x6D#8, 0x67#8, 0#8] ++ List.replicate 236 0#8
theorem image_passes : rows14 (copy false image7) = 0 := by
  have h : cut image7 24 236 = List.replicate 236 0#8 := by decide +kernel
  have h' : crc32 (cut image7 24 236) = 0x00676D9C#32 := by rw [h, crc_zeros]
  have h2 : bodyLen image7 = 4 ∧ nrec image7 = 1 ∧ cut image7 0 4 = [0x55#8, 0x48#8, 0x4B#8, 0x50#8] ∧ leAt image7 4 2 = 1
      ∧ image7.length = 260 ∧ bookEnd image7 = 260 ∧ leAt image7 0x14 4 = 0x00676D9C := by decide +kernel
  obtain ⟨a, b, c, d, e, f, g⟩ := h2
  simp [rows14, copy, a, b, c, d, e, f, g, h']

def drain7 : State := { (boot7 fun b => { b with draining := true, reduced := true, phase := 5, book := some book7 }) with
  su := { on.su with dwPending := true } }

theorem witness_WritesFollowTheirAccessCodes :
    (let s : State := reset on
     let off : Nat := 65535
     s.boot.inReset = true ∧ off < 0x10000)
      ∧ (let s : State := src7
         let v : W32 := 0x8000_0000
         let st : Nat := 1727
         let i : Nat := 0
         let p : Nat := 63
         let q : Nat := 3
         let off : Nat := 63
         let size : Nat := 8
         let tok : Bool := false
         let k := rosterKey st
         let m : W32 := 0x87FF_FFFF
         let live := s.boot.inReset = false
         let free := s.su.objBusy = false
         live ∧ hcSrc s ≠ 0 ∧ st < nStirrup ∧ (v ^^^ reg s k) &&& m ≠ 0 ∧ free ∧ objectOf (selAfter s v) = some (tok, i) ∧ portGrants s
           (tok, i) = true ∧ objectSel s = some (tok, i) ∧ ((tok = true → tagged s i = false)) ∧ off < 64 ∧ ((size ≠ 4 ∨ off % 4 ≠ 0)) ∧
           off < 0x10000 ∧ aligned off size = false ∧ p < 64 ∧ off < 0x1000 ∧ q < 4)
      ∧ (let s : State := { busy7 with force := sel7.force }
         let st : Nat := 2047
         let i : Nat := 8191
         let tok : Bool := false
         let live := s.boot.inReset = false
         live ∧ hcSrc s = 0 ∧ nStirrup ≤ st ∧ st < 2048 ∧ s.su.objBusy = true ∧ objectSel s = some (tok, i) ∧ ((s.su.objBusy = true ∨
           portGrants s (tok, i) = false))) := by
  refine ⟨?_, ?_, ?_⟩ <;> decide +kernel

theorem witness_ResetStartsTheEngine :
    (let s : State := down7
     let f : Fuses := fuses7 (BitVec.allOnes 1728) 0 1
     let g : Nat := 0
     let good := (goodTiles f.goodMap).length
     let rises := s.boot.inReset = true ∧ s.boot.pwrgd = true
     rises ∧ isolatedStirs s = [] ∧ gradeFor f.grade.toNat good = some g ∧ (s.boot.halted = false ∨ s.boot.unprov = true))
      ∧ (let s : State := down7
         let f : Fuses := fuses7 0 2 0
         let good := (goodTiles f.goodMap).length
         let rises := s.boot.inReset = true ∧ s.boot.pwrgd = true
         rises ∧ isolatedStirs s = [] ∧ gradeFor f.grade.toNat good = none)
      ∧ (let s : State := boot7 (fun b => { b with firstDone := false, halted := true, resA := 3, spiMode := 4 })
         let live := s.boot.inReset = false
         (live ∨ s.boot.pwrgd = false) ∧ live ∧ s.boot.stage ≠ 0 ∧ s.boot.firstDone = false ∧ s.boot.halted = true ∧ s.boot.unprov = false)
      ∧ (let s : State := boot7 (fun b => { b with halted := true, resA := 3, spiMode := 2 })
         let live := s.boot.inReset = false
         live ∧ (s.boot.stage = 0 ∨ s.boot.firstDone = true)) := by
  refine ⟨?_, ?_, ?_, ?_⟩ <;> decide +kernel

theorem witness_BootReadsAndAppliesTheBook :
    (let s : State := on
     let c : FlashCopy := copy false []
     flashOk c = true ∧ s.boot.spiBusy = false ∧ s.boot.phase = 0 ∧ switchReady s = false)
      ∧ (let s : State := boot7 (fun b => { b with spiBusy := true })
         let c : FlashCopy := copy false []
         flashOk c = true ∧ s.boot.spiBusy = true ∧ s.boot.phase ≠ 3 ∧ c.again = false ∧ c.copyB = (s.boot.resA != 0))
      ∧ (let s : State := boot7 (fun b => { b with phase := 1 })
         let c : FlashCopy := copy false []
         let first := s.boot.phase = 1
         flashOk c = true ∧ first ∧ rows14 c ≠ 0 ∧ c.copyB = false)
      ∧ (let s : State := boot7 (fun b => { b with phase := 1 })
         let c : FlashCopy := copy true []
         let first := s.boot.phase = 1
         flashOk c = true ∧ first ∧ rows14 c ≠ 0 ∧ c.copyB = true)
      ∧ (let s : State := boot7 (fun b => { b with phase := 1 })
         let c : FlashCopy := copy false image7
         let first := s.boot.phase = 1
         flashOk c = true ∧ first ∧ rows14 c = 0)
      ∧ (let s : State := boot7 (fun b => { b with phase := 2 })
         let c : FlashCopy := copy false []
         flashOk c = true ∧ s.boot.phase = 2 ∧ row8 s c.bytes = none ∧ c.copyB = false)
      ∧ (let s : State := drain7
         let c : FlashCopy := copy false image7
         let book : Book := book7
         flashOk c = true ∧ switchReady s = true ∧ s.boot.book = some book) := by
  refine ⟨?_, ?_, ?_, ?_, ⟨by decide +kernel, by decide +kernel, image_passes⟩, ?_, ?_⟩ <;> decide +kernel


/-! ## Witnesses: the whole machine -/

theorem witness_StepRunsTheFrontCommand : on.pending = [] := by decide

/-- Commands of every kind of operand at the edge of its range. -/
theorem witness_EveryCommandCompletes :
    (([.call 1727 (word 0 13 0 511), .signal (.unit (req false 8191 0 1)), .mark (.unit (ctrl (word 4 3 0 0))), .wakePass true 2047,
       .partialArrival (.barn 17) (.call part0), .cueArrival (.half 1) (cue 511), .spanCue 23 (packet 2) true, .faultReport (rep 31 4095),
       .nop (descOf 0 0), .rcCounterRead (.page 63) 0xB4 4, .registerWrite .mgmt 0x1_FFFF 8 0, .attrClear 4095] : List Instr).all
      fun c => c.wf && accepted on c) = true := by decide +kernel


theorem witness_EveryStepKeepsTheDebugPromise :
    (State.reset.dbg.disabled = true → State.reset.dbg.auth = 0#2) ∧ (State.reset.boot.inReset = true → State.reset.dbg.auth = 0#2)
      ∧ step { on with pending := [.irqAck] } = .next { on with pending := [], hq := { on.hq with irqs := [] } } := by
  refine ⟨by decide, by decide, rfl⟩

end Sys2Proof.Tests
end

/-! PROOFS. The accesses of the sync window: what a read of STIR_STAT or HOUSE_LO and a write of STIR_PAY3 leave. -/

namespace Sys2Proof.Machine

/-- The answer of a command whose operand names an existing part. -/
theorem answer_of {p : Prop} [Decidable p] (h : p) (t : State) : answer (decide p) t = .next t :=
  answer_next.mpr ⟨decide_eq_true h, rfl⟩

/-- Without a pending quiescence call a write of STIR_PAY3 replaces payload word 3 alone. -/
theorem writePay_word3_plain {s : State} {st : Nat} (v : W32) (h : quiesceCall s (stir s st) = false) :
    writePay st 3 v s = setStir st { stir s st with pay := setPay (stir s st).pay 3 v } s := by
  simp [writePay, h]

/-- With one it commits the set too (R92). -/
theorem writePay_word3_commits {s : State} {st : Nat} {c : PendCall} (v : W32) (hc : (stir s st).call = some c)
    (h : quiesceCall s (stir s st) = true) :
    writePay st 3 v s = setStir st
      { stir s st with pay := setPay (stir s st).pay 3 v, call := some { c with commit := setPay (stir s st).pay 3 v } } s := by
  simp [writePay, h, hc]

/-! ## The obligation -/

/-- Settles O6: each access answers the state of its one register operation. -/
theorem syncWindowAccessesTakeEffect : Obligations.SyncWindowAccessesTakeEffect := by
  intro s st v c hst
  refine ⟨answer_of hst _, answer_of hst _, fun hq => ?_, fun hc hq => ?_⟩
  · exact (answer_of hst _).trans (congrArg _ (writePay_word3_plain v hq))
  · exact (answer_of hst _).trans (congrArg _ (writePay_word3_commits v hc hq))

end Sys2Proof.Machine

/-! PROOFS. Collecting counters and reading registers: RC registers, bad accesses, freezes. -/

namespace Sys2Proof.Machine

/-! ## Accesses in and out of reset (R297, R324) -/

theorem regRead_live {s : State} (h : s.boot.inReset = false) (v : W32) (f : State → State) :
    regRead v f s = f (present (v.setWidth 64) s) := by simp [regRead, h]

theorem regRead_reset {s : State} (h : s.boot.inReset = true) (v : W32) (f : State → State) : regRead v f s = present 0 s := by
  simp [regRead, h]

theorem regWrite_live {s : State} (h : s.boot.inReset = false) (f : State → State) : regWrite f s = f s := by
  simp [regWrite, h]

theorem regWrite_reset {s : State} (h : s.boot.inReset = true) (f : State → State) : regWrite f s = s := by
  simp [regWrite, h]

/-! ## RC registers (R17) -/

/-- A sparse store lists a key exactly where looking it up finds a value. -/
theorem has_eq_isSome_lookup {α : Type} (k : Nat) (t : Tbl α) : Tbl.has t k = (t.lookup k).isSome := by
  induction t with
  | nil => rfl
  | cons e t ih =>
    obtain ⟨j, v⟩ := e
    by_cases h : k = j
    · simp [Tbl.has, h]
    · simp [Tbl.has, List.lookup, beq_false_of_ne h, ih]

/-- Without an increment in the cycle of the read the register is cleared. -/
theorem rcSplit_quiet {s : State} {off : Nat} (h : s.cyc.rc.lookup off = none) (now : W32) : rcSplit s off now = (now, 0) := by
  simp [rcSplit, h]

/-- An increment in the cycle of the read is not returned, and stays. -/
theorem rcSplit_counted {s : State} {off : Nat} {old : W32} (h : s.cyc.rc.lookup off = some old) (now : W32) :
    rcSplit s off now = (old, now - old) := by
  simp [rcSplit, h]

theorem rcTaken_quiet {s : State} {off : Nat} (h : s.cyc.rc.lookup off = none) : rcTaken off s = s := by
  simp [rcTaken, has_eq_isSome_lookup, h]

theorem rcTaken_counted {s : State} {off : Nat} {old : W32} (h : s.cyc.rc.lookup off = some old) :
    rcTaken off s = { s with cyc := { s.cyc with rc := Tbl.insert off 0 s.cyc.rc } } := by
  simp [rcTaken, has_eq_isSome_lookup, h]

/-- The RC registers of the manager window stand at words of it. -/
theorem rcManager_offset {s : State} {off : Nat} {x : W32 × (W32 → State)} (h : rcManager s off = some x) :
    off < 0x10000 ∧ off % 4 = 0 := by
  unfold rcManager at h
  split at h
  · omega
  · split at h
    · omega
    · split at h <;> try omega
      cases h

/-- An RC register stands at a word of a path other than a tile's. -/
theorem rcTake_offset {s : State} {path : Path} {off : Nat} {x : W32 × State} (h : rcTake s path off = some x) :
    pathOk path off = true ∧ off % 4 = 0 ∧ ∀ st, path ≠ .tile st := by
  obtain ⟨y, hy, -⟩ := Option.map_eq_some_iff.mp h
  cases path with
  | tile st => simp [rcRead] at hy
  | manager =>
    obtain ⟨z, hz, -⟩ := Option.map_eq_some_iff.mp hy
    obtain ⟨hlt, hal⟩ := rcManager_offset hz
    exact ⟨by simp [pathOk, hlt], hal, by simp⟩
  | mgmt =>
    simp only [rcRead] at hy
    split at hy
    · subst off; exact ⟨rfl, rfl, by simp⟩
    · obtain ⟨z, hz, -⟩ := Option.map_eq_some_iff.mp hy
      obtain ⟨hlt, hal⟩ := rcManager_offset hz
      refine ⟨?_, hal, by simp⟩
      simp only [pathOk, decide_eq_true_eq]
      omega
  | page p =>
    simp only [rcRead] at hy
    split at hy
    · next hp =>
      obtain ⟨hp, rfl⟩ := hp
      exact ⟨by simp [pathOk, hp], rfl, by simp⟩
    · cases hy

/-- A read of an RC register in one word presents what it takes. -/
theorem registerRead_rc {s : State} {path : Path} {off : Nat} {v : W32} {u : State} (hl : s.boot.inReset = false)
    (h : rcTake s path off = some (v, u)) : registerRead path off 4 s = present (v.setWidth 64) u := by
  obtain ⟨-, hal, hpath⟩ := rcTake_offset h
  cases path with
  | tile st => exact absurd rfl (hpath st)
  | manager | mgmt | page => simp [registerRead, hl, aligned, hal, readWords, readStep, h]

/-- The row RC_COUNTER_READ at an RC register. -/
theorem exec_rcCounterRead_rc {s : State} {path : Path} {off : Nat} {v : W32} {u : State} (hl : s.boot.inReset = false)
    (h : rcTake s path off = some (v, u)) :
    exec (.rcCounterRead path off 4) s = .next { u with su := { u.su with rdata := v.setWidth 64 } } :=
  answer_next.mpr ⟨(rcTake_offset h).1, registerRead_rc hl h⟩

/-- An RC register in a cycle without an increment of it: its value is taken, and 0 stays. -/
theorem rcTake_quiet {s : State} {path : Path} {off k : Nat} {now : W32} {f : W32 → State}
    (hr : rcRead s path off = some (k, now, f)) (h : s.cyc.rc.lookup k = none) (hf : (f 0).cyc = s.cyc) :
    rcTake s path off = some (now, f 0) := by
  have hk : (f 0#32).cyc.rc.lookup k = none := hf ▸ h
  simp [rcTake, hr, rcSplit_quiet h, rcTaken_quiet hk]

/-- In a cycle that has counted: the value before is taken, and the increment stays, as one of this cycle. -/
theorem rcTake_counted {s : State} {path : Path} {off k : Nat} {now old : W32} {f : W32 → State}
    (hr : rcRead s path off = some (k, now, f)) (h : s.cyc.rc.lookup k = some old) (hf : (f (now - old)).cyc = s.cyc) :
    rcTake s path off = some (old, { f (now - old) with cyc := { s.cyc with rc := Tbl.insert k 0 s.cyc.rc } }) := by
  have hk : (f (now - old)).cyc.rc.lookup k = some old := hf ▸ h
  simp [rcTake, hr, rcSplit_counted h, rcTaken_counted hk, hf]

/-- UHK_FLT_LOST is an RC register of the manager window. -/
theorem rcRead_lost (s : State) :
    rcRead s .manager 0x4810 = some (0x4810, s.flt.lost, fun v => { s with flt := { s.flt with lost := v } }) := rfl

/-! ## Bad reads (R13, R324) -/

/-- In reset a read of the manager window presents 0. -/
theorem registerRead_manager_reset {s : State} (hr : s.boot.inReset = true) (off size : Nat) :
    registerRead .manager off size s = present 0 s := by
  simp [registerRead, hr]

/-- A read of a wrong size or alignment in the manager window presents 0 and is recorded there. -/
theorem registerRead_unaligned {s : State} {off size : Nat} (hl : s.boot.inReset = false) (h : aligned off size = false) :
    registerRead .manager off size s = present 0 (mgrAccess off 0 causeSize s) := by
  simp [registerRead, hl, h, badRead]

/-! ## Freezes (R274, R275) -/

/-- What the partitions' parts of a freeze change: FROZEN banks and modes, the list of banks filled, the markers for the home. -/
def FreezeFrame (t s : State) : Prop :=
  t = { s with obs := { s.obs with frzNow := t.obs.frzNow }, parts := t.parts, home := t.home, free := t.free }

theorem FreezeFrame.refl (s : State) : FreezeFrame s s := rfl

theorem FreezeFrame.trans {u t s : State} (h : FreezeFrame u t) (g : FreezeFrame t s) : FreezeFrame u s := by
  unfold FreezeFrame at *
  rw [h, g]

theorem freezePart_frame (seq : BitVec 8) (p : Nat) (s : State) : FreezeFrame (freezePart seq p s) s := by
  unfold freezePart
  split <;> rfl

theorem freezeParts_frame (seq : BitVec 8) (l : List Nat) (s : State) :
    FreezeFrame (l.foldl (fun a p => freezePart seq p a) s) s := by
  induction l generalizing s with
  | nil => exact .refl s
  | cons p l ih => exact (ih _).trans (freezePart_frame seq p s)

/-- The state in which a freeze has taken its sequence number and driven its strobe. -/
def freezeTaken (timed : Bool) (s : State) : State :=
  { s with obs := { s.obs with frzSeq := s.obs.frzSeq + 1, frzArmed := s.obs.frzArmed && !timed },
           out := { s.out with ctrFreeze := true, ctrSnap := s.obs.frzSeq + 1 } }

theorem freeze_eq (timed : Bool) (s : State) :
    freeze timed s = (livePartitions s).foldl (fun a p => freezePart (s.obs.frzSeq + 1) p a) (freezeTaken timed s) := rfl

theorem freeze_frame (timed : Bool) (s : State) : FreezeFrame (freeze timed s) (freezeTaken timed s) :=
  freezeParts_frame _ _ _

theorem freeze_obs (timed : Bool) (s : State) : (freeze timed s).obs = { s.obs with
    frzSeq := s.obs.frzSeq + 1, frzArmed := s.obs.frzArmed && !timed, frzNow := (freeze timed s).obs.frzNow } :=
  congrArg State.obs (freeze_frame timed s)

theorem freeze_out (timed : Bool) (s : State) :
    (freeze timed s).out = { s.out with ctrFreeze := true, ctrSnap := s.obs.frzSeq + 1 } :=
  congrArg State.out (freeze_frame timed s)

/-- What a freeze can change at all. -/
theorem freeze_rest (timed : Bool) (s : State) : freeze timed s = { s with
    obs := (freeze timed s).obs, out := (freeze timed s).out, parts := (freeze timed s).parts, home := (freeze timed s).home,
    free := (freeze timed s).free } := by
  have h := freeze_frame timed s
  generalize freeze timed s = t at h ⊢
  unfold FreezeFrame at h
  rw [h]
  rfl

/-- What a FROZEN partition holds after a freeze. -/
theorem freezePart_frozen {s : State} {p : Nat} (seq : BitVec 8) (h : frozenBit s p = true) :
    (freezePart seq p s).obs.frzNow = s.obs.frzNow ++ [p]
      ∧ (freezePart seq p s).parts = Tbl.set partFree p { part s p with
          frozenMode := true, bank := bankCopy s p (part s p).bank, frzSeq := seq, frzTime := houseNow s, frzValid := true } s.parts := by
  simp only [freezePart, h, if_true]
  exact ⟨rfl, rfl⟩

/-- One whose bit is 0 leaves FROZEN mode. -/
theorem freezePart_running {s : State} {p : Nat} (seq : BitVec 8) (h : frozenBit s p = false) :
    (freezePart seq p s).parts = Tbl.set partFree p { part s p with frozenMode := false } s.parts := by
  simp only [freezePart, h]
  rfl

/-- Arming a freeze whose time has not come. -/
theorem armFreeze_ahead {s : State} (hsrc : fld s 0x5018 31 30 = 2) (h : edgeReached s (freezeTime s) = false) :
    armFreeze s = { s with obs := { s.obs with frzArmed := true } } := by
  simp [armFreeze, hsrc, h]

/-- Arming one whose time has passed: it is late, and falls in the coming TCLK. -/
theorem armFreeze_late {s : State} (hsrc : fld s 0x5018 31 30 = 2) (h : edgeReached s (freezeTime s) = true) :
    armFreeze s = { s with
      obs := { s.obs with frzArmed := true, frzLate := true }, cyc := { s.cyc with frzLate := true },
      agenda := s.agenda ++ [{ clk := .tclk, due := s.clk.tclk + 1, ev := .freeze none }] } := by
  simp [armFreeze, hsrc, h, afterT, schedule]

/-! ## The obligation -/

/-- Settles O52: each read answers the state of its register's rule, and a freeze that of its partitions one by one. -/
theorem countersAreReadAndCollected : Obligations.CountersAreReadAndCollected := by
  intro s p i off size path v old u
  refine ⟨?_, ?_, ?_, ?_, ?_, ?_, ?_, ?_, ?_, ?_, ?_, ?_, ?_, ?_, ?_⟩
  · intro hp hi hl
    exact answer_next.mpr ⟨decide_eq_true ⟨hp, hi⟩, regRead_live hl _ _⟩
  · intro hl
    exact congrArg _ (regRead_live hl _ _)
  · intro hl
    exact congrArg _ (regRead_live hl _ _)
  · intro hp hl
    exact answer_next.mpr ⟨decide_eq_true hp, regRead_live hl _ _⟩
  · intro hr
    exact ⟨congrArg _ (regRead_reset hr _ _), answer_next.mpr ⟨rfl, registerRead_manager_reset hr _ _⟩⟩
  · intro hl hc
    exact exec_rcCounterRead_rc hl (rcTake_quiet (rcRead_lost s) hc rfl)
  · intro hl hc
    exact exec_rcCounterRead_rc hl (rcTake_counted (rcRead_lost s) hc rfl)
  · intro hl h
    exact exec_rcCounterRead_rc hl h
  · intro hl hoff h
    refine completes_answer.mpr ⟨decide_eq_true hoff, ?_⟩
    rw [registerRead_unaligned hl h]
    exact ⟨rfl, report_told _ _ _ _ _ _, rfl⟩
  · intro hl hsrc h
    exact congrArg _ ((regWrite_live hl _).trans (armFreeze_ahead hsrc h))
  · intro hl hsrc h
    exact congrArg _ ((regWrite_live hl _).trans (armFreeze_late hsrc h))
  · exact completes_next.mpr ⟨by simpa using freeze_obs true s, freeze_out true s, freeze_rest true s⟩
  · intro hp
    exact completes_answer.mpr ⟨decide_eq_true hp, by simpa using freeze_obs false s, freeze_out false s⟩
  · intro hlive h
    refine completes_next.mpr ?_
    rw [freeze_eq, hlive]
    exact freezePart_frozen (s := freezeTaken true s) _ h
  · intro hlive h
    refine completes_next.mpr ?_
    rw [freeze_eq, hlive]
    exact freezePart_running (s := freezeTaken true s) _ h

end Sys2Proof.Machine

/-! PROOFS. The loss of the clock's hold on the fabric spans leaves the house clock itself: every operation that aborts the spans'
epochs keeps it. -/

namespace Sys2Proof.Machine

/-! ## Reports, records and packets -/

theorem foldl_house {α : Type} {f : State → α → State} (h : ∀ a x, (f a x).house = a.house) (l : List α) (s : State) :
    (l.foldl f s).house = s.house := by
  induction l generalizing s with
  | nil => rfl
  | cons x l ih => exact (ih _).trans (h s x)

theorem TreeOnly.house {t s : State} (h : TreeOnly t s) : t.house = s.house := by rw [h]

theorem HomeFrame.house {t s : State} (h : HomeFrame t s) : t.house = s.house := by rw [h]

@[simp] theorem settle_house (at_ : Place) (slot : Nat) (s : State) : (settle at_ slot s).house = s.house :=
  (settle_touches at_ slot s).1.house

@[simp] theorem event_house (p type : Nat) (d0 : W32) (d1 : W128) (s : State) : (event p type d0 d1 s).house = s.house :=
  (event_quiet p type d0 d1 s).1.house

theorem traceOffer_tclk_house (p : Nat) (bits : W128) (s : State) : (traceOffer false p bits s).house = s.house := by
  unfold traceOffer
  split <;> rfl

@[simp] theorem traceTimebase_house (s : State) : (traceTimebase s).house = s.house := by
  unfold traceTimebase
  split <;> rfl

@[simp] theorem sendSpan_house (port slot ready : Nat) (pkt : SpanPkt) (s : State) : (sendSpan port slot ready pkt s).house = s.house := rfl

@[simp] theorem offerDown_house (to_ : Place) (prio ready : Nat) (ev : Instr) (s : State) :
    (offerDown to_ prio ready ev s).house = s.house := rfl

/-! ## A cue on its way -/

@[simp] theorem addCall_house (k slot st : Nat) (p : Partial) (s : State) : (addCall k slot st p s).house = s.house := by
  simp only [addCall]
  split
  · simp
  · split <;> simp

@[simp] theorem passNode_house (at_ : Place) (slot : Nat) (e nx : W32) (s : State) : (passNode at_ slot e nx s).house = s.house := by
  simp only [passNode, settle_house]
  split
  · split
    · exact (foldl_house (fun a p => addCall_house _ _ _ p a) _ _).trans rfl
    · rfl
  · rfl

@[simp] theorem stallForward_house (k : Nat) (c : Cue) (s : State) : (stallForward k c s).house = s.house := by
  simp only [stallForward]
  refine (foldl_house (fun a st => offerDown_house _ _ _ _ a) _ _).trans ?_
  split <;> simp

@[simp] theorem mapCut_house (k : Nat) (c : Cue) (s : State) : (mapCut k c s).2.house = s.house := by
  unfold mapCut
  split <;> rfl

@[simp] theorem stallArrive_house (k : Nat) (c : Cue) (s : State) : (stallArrive k c s).house = s.house := by
  simp only [stallArrive]
  split <;> simp

@[simp] theorem sendCut_house (at_ : Place) (c : Cue) (k : Nat × Nat) (s : State) : (sendCut at_ c k s).house = s.house := by
  unfold sendCut
  split <;> rfl

@[simp] theorem startDown_house (at_ : Place) (c : Cue) (s : State) : (startDown at_ c s).house = s.house := by
  unfold startDown
  split
  · rfl
  · exact stallArrive_house _ _ _
  · split
    · exact foldl_house (fun a k => sendCut_house _ _ k a) _ _
    · exact foldl_house (fun a to_ => offerDown_house _ _ _ _ a) _ _

/-! ## A cue that leaves its root -/

@[simp] theorem copyStart_house (p : Nat) (s : State) : (copyStart p s).house = s.house := by
  apply foldl_house
  intro a t
  rfl

@[simp] theorem freezeBy_house (slot : Nat) (s : State) : (freezeBy slot s).house = s.house := by
  unfold freezeBy
  split <;> rfl

@[simp] theorem syncEvent_house (at_ : Place) (c : Cue) (s : State) : (syncEvent at_ c s).house = s.house := by
  unfold syncEvent
  split
  · rfl
  · exact traceOffer_tclk_house _ _ _

@[simp] theorem tellHost_house (c : Cue) (s : State) : (tellHost c s).house = s.house := by
  unfold tellHost
  split <;> rfl

@[simp] theorem wpMark_house (slot : Nat) (e : W32) (s : State) (w : Nat) : (wpMark slot e s w).house = s.house := by
  unfold wpMark traceMarkRec
  split
  · exact traceOffer_tclk_house _ _ _
  · rfl

@[simp] theorem count_house (p i n : Nat) (s : State) : (count p i n s).house = s.house := rfl

@[simp] theorem cueOut_house (at_ : Place) (c : Cue) (s : State) : (cueOut at_ c s).house = s.house := by
  simp only [cueOut]
  refine (foldl_house (fun a w => wpMark_house _ _ a w) _ _).trans ?_
  simp only [tellHost_house, syncEvent_house, freezeBy_house]
  split <;> split <;> simp

/-! ## Aborts and the loss of spans -/

@[simp] theorem passRoot_house (at_ : Place) (slot : Nat) (e nx : W32) (s : State) : (passRoot at_ slot e nx s).house = s.house := by
  unfold passRoot
  split <;> simp

@[simp] theorem applyAfter_house (slot : Nat) (s : State) : (applyAfter slot s).house = s.house := by
  unfold applyAfter
  split
  · split <;> rfl
  · rfl

@[simp] theorem abortSlot_house (slot : Nat) (root : Place) (stalls : List Nat) (s : State) :
    (abortSlot slot root stalls s).house = s.house := by
  simp only [abortSlot, abortTo, applyAfter_house, startDown_house, cueOut_house, setEpoch_house]
  split
  · rfl
  · exact (passRoot_house _ _ _ _ _).trans rfl

@[simp] theorem endEpoch_house (slot e : Nat) (s : State) : (endEpoch slot e s).house = s.house := by
  unfold endEpoch
  split
  · rfl
  · exact abortSlot_house _ _ _ _

@[simp] theorem loseSpan_house (skip : Option Nat) (e : Nat) (s : State) : (loseSpan skip e s).house = s.house := by
  simp only [loseSpan]
  split
  · rfl
  · rw [settle_house]
    split <;> try rw [event_house]
    all_goals
      rw [foldl_house fun a p => sendSpan_house _ _ _ _ a]
      exact endEpoch_house _ _ _

theorem allPortsLost_house (es : List Nat) (s : State) : (allPortsLost es s).house = s.house :=
  (foldl_house (fun a _ => report_house _ _ _ _ _ a) _ _).trans (foldl_house (fun a e => loseSpan_house none e a) _ _)

@[simp] theorem clockLost_house (s : State) : (clockLost s).house = s.house := by
  simp only [clockLost]
  split
  · rfl
  · exact allPortsLost_house _ _

/-! ## The state of the house clock (R205, R206) -/

/-- Entering a state of the house clock changes nothing else of it but the start of a holdover. -/
theorem setHc_house (x : HcState) (s : State) :
    (setHc x s).house = { s.house with state := x, holdSince := (setHc x s).house.holdSince } := by
  unfold setHc
  split
  · next h => rw [h]
  · dsimp only
    split <;> rw [traceTimebase_house] <;> split <;> simp

/-- Restarted locking: FREE without a source, LOCKING with one, and nothing measured or announced. -/
theorem restartLocking_house (s : State) :
    (restartLocking s).house.state = (if hcSrc s = 0 then .free else .locking) ∧ (restartLocking s).house.good = 0
      ∧ (restartLocking s).house.announced = [] := by
  unfold restartLocking
  rw [setHc_house]
  exact ⟨rfl, rfl, rfl⟩

theorem hcCtlWrite_house (v : W32) (s : State) : (hcCtlWrite v s).house = (restartLocking (writeFields 0x0100 v s)).house := by
  simp only [hcCtlWrite]
  split
  · exact clockLost_house _
  · rfl

end Sys2Proof.Machine

/-! PROOFS. Register writes by their access codes: locks, the roster, the object port, bad accesses and the rows a write dispatches to. -/

namespace Sys2Proof.Machine

/-- A register write out of reset completes with its effect. -/
theorem completes_regWrite {s : State} (hl : s.boot.inReset = false) {f : State → State} {P : State → Prop} (h : P (f s)) :
    Completes (.next (regWrite f s)) P :=
  completes_next.mpr (by rwa [regWrite_live hl])

/-- A write that changes nothing, in reset or not. -/
theorem regWrite_unchanged {f : State → State} {s : State} (h : f s = s) : regWrite f s = s := by
  unfold regWrite
  split
  · rfl
  · exact h

/-! ## Words by their access codes (R14, R18) -/

/-- A word without WB bits is not staged. -/
theorem stageWord_of_noWb {k : Nat} (h : wbMask k = 0) (v mask : W32) (s : State) : stageWord k v mask s = s := by
  simp [stageWord, h]

/-- A write of a word without WB bits leaves the home. -/
theorem writeWord_home {k : Nat} (h : wbMask k = 0) (off : Nat) (v : W32) (s : State) : (writeWord off k v s).home = s.home := by
  simp only [writeWord, stageWord_of_noWb h]
  split <;> split <;> split <;> rfl

/-- A record in the manager window of the write's own TCLK, and nothing else. -/
theorem mgrAccess_told (off v cause : Nat) (s : State) :
    Told (mgrAccess off v cause s) s 0x01 20 0 none [off, v, cause]
      ∧ mgrAccess off v cause s = { s with agenda := (mgrAccess off v cause s).agenda, free := (mgrAccess off v cause s).free } :=
  ⟨report_told _ _ _ _ _ _, rfl⟩

/-! ## Lock bits (R331) -/

/-- A lock bit once set stays set; an attempt to clear one is recorded. -/
theorem lockWrite_spec (v : W32) (s : State) :
    (lockWrite v s).force = Tbl.set (resetWord 0x0010) 0x0010 (reg s 0x0010 ||| (v &&& 0xC0#32)) s.force
      ∧ (reg s 0x0010 &&& ~~~ v &&& 0xC0#32 ≠ 0 → Told (lockWrite v s) s 0x01 20 0 none [0x0010, v.toNat, 19])
      ∧ lockWrite v s = { s with force := (lockWrite v s).force, agenda := (lockWrite v s).agenda, free := (lockWrite v s).free } := by
  have hm : rwlMask 0x0010 = 0xC0#32 := rfl
  simp only [lockWrite, hm]
  split
  · next h => exact ⟨rfl, fun hn => absurd h hn, rfl⟩
  · exact ⟨rfl, fun _ => (mgrAccess_told _ _ _ _).1, rfl⟩

/-! ## The house clock's seed (R31, R205) -/

theorem hcSeedWrite_free {s : State} (h : hcSrc s = 0) (v : W32) : hcSeedWrite v s = seedHouse v s := if_pos h

theorem hcSeedWrite_sourced {s : State} (h : hcSrc s ≠ 0) (v : W32) : hcSeedWrite v s = mgrAccess 0x0114 v.toNat 0x031 s := if_neg h

/-! ## The roster (R332) -/

section roster
variable {st : Nat} (hst : st < nStirrup)
include hst

theorem isRosterKey_rosterKey : isRosterKey (rosterKey st) = true := by
  simp [isRosterKey, rosterKey, hst]

theorem wbMask_rosterKey : wbMask (rosterKey st) = 0x87FF_FFFF#32 := by
  simp [wbMask, isRosterKey_rosterKey hst]

/-- A roster key lies above every word of the manager window and below the member words. -/
theorem rosterKey_range : 0x20000 ≤ rosterKey st ∧ rosterKey st < 0x30000 := by
  simp only [rosterKey, nStirrup] at *
  omega

theorem resFields_rosterKey : resFields (rosterKey st) = [] := by
  obtain ⟨hlo, hhi⟩ := rosterKey_range hst
  generalize rosterKey st = k at hlo hhi
  have hp : isPartKey k = false := by simp [isPartKey]; omega
  have hs : isSlotKey k = false := by simp [isSlotKey]; omega
  have hv : isVerdKey k = false := by simp [isVerdKey]; omega
  have hn : isSpanKey k = false := by simp [isSpanKey]; omega
  have hu : isUsKey k = false := by simp [isUsKey]; omega
  have ho : ¬ (0x42000 ≤ k ∧ k < 0x44000) := by omega
  simp only [resFields, hp, hs, hv, hn, hu, ho, Bool.false_eq_true, false_and, if_false]
  split <;> try omega
  rfl

theorem rwMask_rosterKey : rwMask (rosterKey st) = 0 := by
  obtain ⟨hlo, hhi⟩ := rosterKey_range hst
  generalize rosterKey st = k at hlo hhi
  have hp : isPartKey k = false := by simp [isPartKey]; omega
  have hr : ¬ (0x6040 ≤ k ∧ k < 0x6080) := by omega
  have hm : ¬ (0x1_0400 ≤ k ∧ k < 0x1_0800) := by omega
  simp only [rwMask, hp, hr, hm, Bool.false_eq_true, if_false]
  split <;> try omega
  rfl

theorem rwlMask_rosterKey : rwlMask (rosterKey st) = 0 := by
  obtain ⟨hlo, hhi⟩ := rosterKey_range hst
  have h1 : rosterKey st ≠ 0x0010 := by omega
  have h2 : ¬ (rosterKey st = 0x6018 ∨ rosterKey st = 0x7000) := by omega
  simp [rwlMask, h1, h2]

theorem fixedBits_rosterKey : fixedBits (rosterKey st) = 0 := by
  obtain ⟨hlo, hhi⟩ := rosterKey_range hst
  generalize rosterKey st = k at hlo hhi
  have hs : isSlotKey k = false := by simp [isSlotKey]; omega
  have hm : isMemberKey k = false := by simp [isMemberKey]; omega
  have h1 : k ≠ 0x1000 := by omega
  have h2 : k ∉ [0x1018, 0x1020, 0x1030, 0x1038] := by simp; omega
  simp [fixedBits, hs, hm, h1, h2]

/-- A roster word has neither reserved encodings nor bits in force at once: its write only stages. -/
theorem rosterStage_eq (v : W32) (s : State) : rosterStage st v s = stageWord (rosterKey st) v (~~~ 0#32) s := by
  have hr : reservedBits (rosterKey st) v = 0 := by simp [reservedBits, resFields_rosterKey hst]
  simp [rosterStage, hst, writeWord, hr, directMask, lockedChange, rwMask_rosterKey hst, rwlMask_rosterKey hst]

end roster

/-- A number past the last stirrup selects no entry. -/
theorem rosterStage_none {st : Nat} (h : nStirrup ≤ st) (v : W32) (s : State) : rosterStage st v s = s := if_neg (Nat.not_lt.mpr h)

/-- What was staged last of a word's bits is what the word will read. -/
theorem overWord_put (w v m : W32) (g : Staged) : overWord w (g.put v m) &&& m = v &&& m := by
  apply BitVec.eq_of_getLsbD_eq
  intro i hi
  simp only [overWord, Staged.put, BitVec.getLsbD_and, BitVec.getLsbD_or, BitVec.getLsbD_not, hi, decide_true, Bool.true_and]
  cases m.getLsbD i <;> simp

/-- Staging a write appends it to those of its word that wait for their acknowledgement. -/
theorem stage_staged (k : Nat) (v m : W32) (s : State) : (stage k v m s).staged
    = Tbl.set noStage k { stagedAt s k with pend := (stagedAt s k).pend ++ [(v, m)] } s.staged := rfl

theorem stagedAt_stage (k : Nat) (v m : W32) (s : State) :
    stagedAt (stage k v m s) k = { stagedAt s k with pend := (stagedAt s k).pend ++ [(v, m)] } := by
  refine Tbl.get_set_self _ _ _ _ fun h => ?_
  have hp := congrArg Staged.pend h
  simp [noStage] at hp

/-- The bits just staged are those of the word as staged. -/
theorem stagedWord_stage (k : Nat) (v m : W32) (s : State) : stagedWord (stage k v m s) k &&& m = v &&& m := by
  unfold stagedWord
  rw [stagedAt_stage]
  simp only [Staged.all, List.foldl_append, List.foldl_cons, List.foldl_nil]
  exact overWord_put _ _ _ _

theorem stage_acknowledges (k : Nat) (v m : W32) (s : State) :
    ∃ a ∈ (stage k v m s).agenda, a.clk = .tclk ∧ a.ev = .wbAcknowledge k :=
  ⟨_, List.mem_append_right _ (List.mem_singleton.mpr rfl), rfl, rfl⟩

/-- Words that differ in the bits of a mask, seen under it. -/
theorem xor_and_eq_zero {v w m : W32} (h : w &&& m = v &&& m) : (v ^^^ w) &&& m = 0 := by
  apply BitVec.eq_of_getLsbD_eq
  intro i _
  have hi := congrArg (BitVec.getLsbD · i) h
  simp only [BitVec.getLsbD_and] at hi
  simp only [BitVec.getLsbD_and, BitVec.getLsbD_xor]
  cases hm : m.getLsbD i <;> simp_all

/-- A write that leaves its word staged as another than the one in force is not withdrawn; it joins the die-wide request where its
word is of one. -/
theorem stageWord_stages {k : Nat} {v mask m : W32} {s : State} (hm : mask &&& wbMask k &&& ~~~ (fixedBits k) = m) (h0 : m ≠ 0)
    (hne : stagedWord (stage k v m s) k ≠ reg s k) :
    stageWord k v mask s = stage k v m s ∨ stageWord k v mask s = dwRestart (stage k v m s) := by
  have hreg : reg (stage k v m s) k = reg s k := rfl
  simp only [stageWord, hm, h0, hreg, beq_false_of_ne hne, Bool.and_false, Bool.false_and, Bool.false_eq_true, if_false]
  split
  · exact .inr rfl
  · exact .inl rfl

/-- A roster write that changes the entry in force is staged. -/
theorem rosterStage_changes {st : Nat} (hst : st < nStirrup) {v : W32} {s : State}
    (hv : (v ^^^ reg s (rosterKey st)) &&& 0x87FF_FFFF#32 ≠ 0) :
    rosterStage st v s = stage (rosterKey st) v 0x87FF_FFFF#32 s
      ∨ rosterStage st v s = dwRestart (stage (rosterKey st) v 0x87FF_FFFF#32 s) := by
  rw [rosterStage_eq hst]
  refine stageWord_stages ?_ (by decide) fun h => hv (xor_and_eq_zero ?_)
  · rw [wbMask_rosterKey hst, fixedBits_rosterKey hst]
    rfl
  · rw [← h]
    exact stagedWord_stage _ _ _ _

/-- Such a write waits for its acknowledgement, and changes nothing in force and no stirrup (R332). -/
theorem rosterStage_spec {st : Nat} (hst : st < nStirrup) {v : W32} {s : State}
    (hv : (v ^^^ reg s (rosterKey st)) &&& 0x87FF_FFFF#32 ≠ 0) :
    let k := rosterKey st
    let t := rosterStage st v s
    t.staged = Tbl.set noStage k { stagedAt s k with pend := (stagedAt s k).pend ++ [(v, 0x87FF_FFFF#32)] } s.staged
      ∧ (∃ a ∈ t.agenda, a.clk = .tclk ∧ a.ev = .wbAcknowledge k) ∧ t.force = s.force ∧ t.stirs = s.stirs := by
  have hack := stage_acknowledges (rosterKey st) v 0x87FF_FFFF#32 s
  obtain h | h := rosterStage_changes hst hv <;> simp only [h] <;> exact ⟨rfl, hack, rfl, rfl⟩

/-! ## The object port (R165) -/

/-- A set-up request as the object port sends it. -/
def portRequest (s : State) (tok : Bool) (i : Nat) (op : BitVec 5) (v : W32) : HomeReq :=
  { tok := tok, obj := i, op := op, nohold := false, rid := 0, src := srcSetup, merged := false, mlevel := false, mrec := 0,
    poll := false, part := 0, pay := v.setWidth 128, leftT := s.clk.tclk, ring := 0, didx := 0, sub := 0, word := 0 }

/-- The port is BUSY, and its request crosses to the home behind those before it. -/
theorem setupRequest_sent (tok : Bool) (i : Nat) (op : BitVec 5) (v : W32) (s : State) :
    (setupRequest tok i op v s).su.objBusy = true
      ∧ (setupRequest tok i op v s).home.crossing.map (·.req) = s.home.crossing.map (·.req) ++ [portRequest s tok i op v] :=
  ⟨rfl, List.map_append⟩

theorem objSelWrite_busy {s : State} (h : s.su.objBusy = true) (v : W32) :
    objSelWrite v s = mgrAccess 0x08C0 v.toNat causePort s := by
  simp [objSelWrite, h]

/-- A selection that names an object of the port's fetches it. -/
theorem objSelWrite_fetches {s : State} {v : W32} {tok : Bool} {i : Nat} (hb : s.su.objBusy = false)
    (ho : objectOf (selAfter s v) = some (tok, i)) (hg : portGrants s (tok, i) = true) :
    objSelWrite v s = setupRequest tok i (if tok then 0x16 else 4) 0
      (writeFields 0x08C0 v { s with su := { s.su with objSeen := true } }) := by
  simp [objSelWrite, hb, ho, hg]

/-- Its request is the port's, as sent in the TCLK of the write. -/
theorem objSelWrite_sent {s : State} {v : W32} {tok : Bool} {i : Nat} (hb : s.su.objBusy = false)
    (ho : objectOf (selAfter s v) = some (tok, i)) (hg : portGrants s (tok, i) = true) :
    (objSelWrite v s).su.objBusy = true
      ∧ (objSelWrite v s).home.crossing.map (·.req)
        = s.home.crossing.map (·.req) ++ [portRequest s tok i (if tok then 0x16 else 4) 0] := by
  rw [objSelWrite_fetches hb ho hg]
  obtain ⟨hbusy, hreq⟩ := setupRequest_sent tok i (if tok then 0x16 else 4) 0
    (writeFields 0x08C0 v { s with su := { s.su with objSeen := true } })
  refine ⟨hbusy, hreq.trans ?_⟩
  obtain ⟨-, -, -, htclk⟩ := writeFields_keep 0x08C0 v { s with su := { s.su with objSeen := true } }
  rw [portRequest, htclk, writeFields, writeWord_home (by decide)]
  rfl

theorem objValueWrite_sets {s : State} {tok : Bool} {i : Nat} (v : W32) (hb : s.su.objBusy = false)
    (ho : objectSel s = some (tok, i)) (hg : portGrants s (tok, i) = true) (ht : tok = true → tagged s i = false) :
    objValueWrite v s = setupRequest tok i 5 v s := by
  cases tok with
  | false => simp [objValueWrite, hb, ho, hg]
  | true => simp [objValueWrite, hb, ho, hg, ht rfl]

theorem objValueWrite_ignored {s : State} {tok : Bool} {i : Nat} (v : W32) (ho : objectSel s = some (tok, i))
    (h : s.su.objBusy = true ∨ portGrants s (tok, i) = false) :
    objValueWrite v s = mgrAccess 0x08C4 v.toNat causePort s := by
  obtain h | h := h <;> simp [objValueWrite, ho, h]

/-! ## REGISTER_WRITE (R13, R43, R324) -/

theorem writeTile_tag (st : Nat) (v : W32) (s : State) :
    writeTile st 0x10 v s = setStir st { stir s st with tag := v.setWidth 20 } s := rfl

/-- A write of a stirrup in another size or alignment is ignored. -/
theorem registerWrite_tile_ignored {st off size : Nat} (h : size ≠ 4 ∨ off % 4 ≠ 0) (x : W64) (s : State) :
    registerWrite (.tile st) off size x s = s := by
  simp only [registerWrite]
  exact if_neg fun ⟨h4, hal⟩ => h.elim (· h4) (· hal)

theorem registerWrite_manager_reset {s : State} (hr : s.boot.inReset = true) (off size : Nat) (x : W64) :
    registerWrite .manager off size x s = s := by
  simp [registerWrite, regWrite_reset hr]

theorem registerWrite_manager_unaligned {s : State} (hl : s.boot.inReset = false) {off size : Nat} (h : aligned off size = false)
    (x : W64) : registerWrite .manager off size x s = mgrAccess off x.toNat causeSize s := by
  simp [registerWrite, regWrite, hl, h]

theorem registerWrite_page_unaligned {s : State} (hl : s.boot.inReset = false) {off size : Nat} (h : aligned off size = false)
    (p : Nat) (x : W64) : registerWrite (.page p) off size x s = ppErr p s := by
  simp [registerWrite, regWrite, hl, h]

theorem registerWrite_manager_word {off : Nat} (h : off % 4 = 0) (x : W64) (s : State) :
    registerWrite .manager off 4 x s = regWrite (writeManager off (lowWord x)) s := by
  simp [registerWrite, aligned, h, eachWord]

theorem registerWrite_page_word {off : Nat} (h : off % 4 = 0) (p : Nat) (x : W64) (s : State) :
    registerWrite (.page p) off 4 x s = regWrite (writePage p off (lowWord x)) s := by
  simp [registerWrite, aligned, h, eachWord]

/-- UHK_LOCK is written as LOCK_WRITE does. -/
theorem writeManager_lock (v : W32) : writeManager 0x0010 v = lockWrite v := rfl

/-- The doorbell word of a submission ring is written as SQ_DOORBELL does. -/
theorem writePage_doorbell {q : Nat} (hq : q < 4) (p : Nat) (v : W32) : writePage p (0x20 * q + 0xC) v = doorbell p q v := by
  have hhas : pageHas (0x20 * q + 0xC) = true := by
    simp [pageHas, inSpan]
    omega
  have hlt : 0x20 * q + 0xC < 0x80 := by omega
  have hq' : (0x20 * q + 0xC) / 32 = q := by omega
  have ho : (0x20 * q + 0xC) % 32 = 0xC := by omega
  funext s
  simp only [writePage, hhas, hlt, hq', ho]
  rfl

/-! ## The obligation -/

/-- Settles O54: each write answers the state of its port's rule; an access held back by reset, or of a wrong size, does not
reach it. -/
theorem writesFollowTheirAccessCodes : Obligations.WritesFollowTheirAccessCodes := by
  intro s v value cfg x st i p q off size waiters tok
  refine ⟨?_, ?_, ?_, ?_, ?_, ?_, ?_, ?_, ?_, ?_, ?_, rfl, ?_, ?_, ?_, ?_, ?_, ?_⟩
  · intro hr hoff
    exact ⟨congrArg _ (regWrite_reset hr _), answer_next.mpr ⟨decide_eq_true hoff, registerWrite_manager_reset hr off size x⟩⟩
  · intro hl
    exact completes_regWrite hl (lockWrite_spec v s)
  · intro hl hsrc
    exact congrArg _ ((regWrite_live hl _).trans (hcSeedWrite_free hsrc v))
  · intro hl hsrc
    refine completes_regWrite hl ?_
    rw [hcSeedWrite_sourced hsrc]
    exact mgrAccess_told _ _ _ _
  · intro hl
    refine completes_regWrite hl ?_
    rw [hcCtlWrite_house]
    exact restartLocking_house _
  · intro hl hst hv
    refine completes_answer.mpr ⟨decide_eq_true (Nat.lt_trans hst (by decide)), ?_⟩
    rw [regWrite_live hl]
    exact rosterStage_spec hst hv
  · intro hst hlt
    exact answer_next.mpr ⟨decide_eq_true hlt, regWrite_unchanged (rosterStage_none hst v s)⟩
  · intro hl hb ho hg
    exact completes_regWrite hl (objSelWrite_sent hb ho hg)
  · intro hl hb ho hg ht
    refine completes_regWrite hl ?_
    rw [objValueWrite_sets v hb ho hg ht]
    exact setupRequest_sent _ _ _ _ _
  · intro hl hb
    refine completes_regWrite hl ?_
    rw [objSelWrite_busy hb]
    exact mgrAccess_told _ _ _ _
  · intro hl ho h
    refine completes_regWrite hl ?_
    rw [objValueWrite_ignored v ho h]
    exact mgrAccess_told _ _ _ _
  · intro hst
    exact answer_next.mpr ⟨decide_eq_true ⟨hst, by decide⟩, rfl⟩
  · intro hst hoff h
    exact answer_next.mpr ⟨decide_eq_true ⟨hst, hoff⟩, registerWrite_tile_ignored h x s⟩
  · intro hl hoff h
    refine completes_answer.mpr ⟨decide_eq_true hoff, ?_⟩
    rw [registerWrite_manager_unaligned hl h]
    exact mgrAccess_told _ _ _ _
  · intro hl hp hoff h
    exact answer_next.mpr ⟨decide_eq_true ⟨hp, hoff⟩, registerWrite_page_unaligned hl h p x⟩
  · exact answer_next.mpr ⟨rfl, (registerWrite_manager_word rfl x s).trans (by rw [writeManager_lock])⟩
  · intro hp hq
    refine (answer_next.mpr ⟨decide_eq_true ⟨hp, by omega⟩, ?_⟩).trans (answer_of ⟨hp, hq⟩ _).symm
    rw [registerWrite_page_word (by omega), writePage_doorbell hq]

end Sys2Proof.Machine

/-! PROOFS. A tile's commands at its stirrup: how a STIR_CMD write is judged, and what each class sends. -/

namespace Sys2Proof.Machine

/-! ## What a command word tells -/

/-- A word without a cause to freeze has a listed OP of a listed class, and its tile has a role (Table STR-14). -/
theorem stirrupCause_eq_zero {a : Bool} {w : W32} (h : stirrupCause a w = 0) :
    cClass w < 5 ∧ opListed (cClass w) (cOp w) = true ∧ a = true := by
  unfold stirrupCause at h
  split at h
  · omega
  · split at h
    · omega
    · split at h
      · omega
      · simp_all

theorem stirrupCause_unlisted {a : Bool} {w : W32} (h : opListed (cClass w) (cOp w) = false) :
    stirrupCause a w = if 5 ≤ cClass w then 1 else 2 := by
  simp [stirrupCause, h]

theorem wordIs_class {cls op : Nat} {w : W32} (h : wordIs cls op w = true) : cClass w = cls := by
  simp only [wordIs, Bool.and_eq_true, beq_iff_eq] at h
  exact h.1

/-- CALL, HOME and TALLY commands hold their tile unless NOHOLD is 1. -/
theorem cHeld_of_class {w : W32} (h : cClass w < 3) : cHeld w = !cNohold w := by
  have h3 : (cClass w != 3) = true := by simp; omega
  have h4 : (cClass w != 4) = true := by simp; omega
  simp only [cHeld, h3, h4, Bool.and_true]

/-- Outside WAIT_TO a command's payload is the tile's as it stands (R45, R151). -/
theorem sample_pay {s : State} {x : Stirrup} {w : W32} (h : cClass w ≠ 1) : (sample s x w).pay = x.pay := by
  simp [sample, wordIs, h]

/-! ## The stirrup in the state -/

/-- An assigned stirrup is not as at reset. -/
theorem ne_initial_of_assigned {x : Stirrup} (h : wAssigned x.role = true) : x ≠ Stirrup.initial := by
  rintro rfl
  exact absurd h (by decide)

theorem stir_setStir {st : Nat} {x : Stirrup} {s : State} (h : x ≠ Stirrup.initial) : stir (setStir st x s) st = x :=
  Tbl.get_set_self _ _ _ _ h

theorem setStir_setStir {st : Nat} {x y : Stirrup} {s : State} (hx : x ≠ Stirrup.initial) (hy : y ≠ Stirrup.initial) :
    setStir st y (setStir st x s) = setStir st y s := by
  simp only [setStir, Tbl.set_set _ _ _ _ _ hx hy]

@[simp] theorem stir_offerUp (from_ : Place) (prio ready beats : Nat) (ev : Instr) (s : State) (st : Nat) :
    stir (offerUp from_ prio ready beats ev s) st = stir s st := rfl

/-! ## Judging a STIR_CMD write (R48, R53, R63) -/

section judge
variable {s : State} {st : Nat} {w : W32}

theorem writeCmd_frozen (h : (stir s st).frozen = true) : writeCmd st w s = s := by simp [writeCmd, h]

theorem writeCmd_faulty (hf : (stir s st).frozen = false) (hi : (stir s st).iso = false)
    (hc : stirrupCause (wAssigned (stir s st).role) w ≠ 0) :
    writeCmd st w s = freezeStirrup st (stirrupCause (wAssigned (stir s st).role) w) w s := by
  simp [writeCmd, hf, hi, hc]

/-- A command is issued where nothing waits or holds it back; one that R53 refuses is answered at once, whatever the limits. -/
theorem writeCmd_accepted (hf : (stir s st).frozen = false) (hi : (stir s st).iso = false)
    (hc : stirrupCause (wAssigned (stir s st).role) w = 0) (hq : (stir s st).cmdQ = []) (hm : mustQueue s (stir s st) = false)
    (hl : limited (stir s st) w = false ∨ busyRefused (stir s st) w = true) :
    writeCmd st w s = issueNow st (sample s (stir s st) w) s := by
  have hlim : (sample s (stir s st) w).lim = false := by obtain h | h := hl <;> simp [sample, h]
  simp [writeCmd, hf, hi, hc, hq, hm, hlim]

theorem IssuesAtOnce.writeCmd_eq (h : IssuesAtOnce s st w) : writeCmd st w s = issueNow st (sample s (stir s st) w) s := by
  obtain ⟨-, hf, hi, hc, hq, hm, hl, -⟩ := h
  exact writeCmd_accepted hf hi hc hq hm (.inl hl)

theorem IssuesAtOnce.not_busy (h : IssuesAtOnce s st w) : busyRefused (stir s st) w = false := by
  obtain ⟨-, -, -, -, -, -, -, hb⟩ := h
  exact hb

theorem IssuesAtOnce.assigned (h : IssuesAtOnce s st w) : wAssigned (stir s st).role = true := by
  obtain ⟨-, -, -, hc, -⟩ := h
  exact (stirrupCause_eq_zero hc).2.2

theorem IssuesAtOnce.not_still (h : IssuesAtOnce s st w) : stillPart s (stir s st) = false := by
  obtain ⟨-, -, -, -, -, hm, -⟩ := h
  simp only [mustQueue, Bool.or_eq_false_iff] at hm
  exact hm.2

/-- A tile's row completes with the state of its STIR_CMD write. -/
theorem completes_tileCmd {cls op : Nat} {P : State → Prop} (hw : wordIs cls op w = true) (hst : st < nStirrup)
    (h : P (writeCmd st w s)) : Completes (tileCmd cls op st w s) P :=
  ⟨_, tileCmd_next.mpr ⟨hw, hst, rfl⟩, h⟩

theorem execCall_next (hcl : cClass w = 0) (hop : opListed 0 (cOp w) = true) (hst : st < nStirrup) :
    execCall st w s = .next (writeCmd st w s) := by
  simp [execCall, hcl, hop, answer, hst]

end judge

/-! ## Issuing by class -/

section issue
variable {s : State} {st : Nat} {c : StirCmd}

theorem issueNow_busy (h : busyRefused (stir s st) c.word = true) :
    issueNow st c s = setStir st { stir s st with status := stBusy } s := by
  simp [issueNow, h]

theorem issueNow_call (h : busyRefused (stir s st) c.word = false) (hc : cClass c.word = 0) : issueNow st c s = issueCall st c s := by
  simp [issueNow, h, hc]

theorem issueNow_home (h : busyRefused (stir s st) c.word = false) (hc : cClass c.word = 1) :
    issueNow st c s = pumpHome st 4 (setStir st { stir s st with homeQ := (stir s st).homeQ ++ [c] } s) := by
  simp [issueNow, h, hc]

theorem issueNow_tally (h : busyRefused (stir s st) c.word = false) (hc : cClass c.word = 2) : issueNow st c s = issueTally st c s := by
  simp [issueNow, h, hc]

theorem issueNow_fence (h : busyRefused (stir s st) c.word = false) (hc : cClass c.word = 3) :
    issueNow st c s = setStir st { stir s st with fence := some (BitVec.ofNat 3 (cScope c.word)) } s := by
  simp [issueNow, h, hc]

theorem issueNow_ctrl (h : busyRefused (stir s st) c.word = false) (hc : cClass c.word = 4) : issueNow st c s = issueCtrl st c s := by
  simp [issueNow, h, hc]

theorem pumpHome_empty (k : Nat) (h : (stir s st).homeQ = []) : pumpHome st k s = s := by
  cases k <;> simp [pumpHome, h]

/-- A request that waits alone takes a free request number and leaves (R51, R141). -/
theorem pumpHome_single {rid : Nat} (k : Nat) (hs : stillPart s (stir s st) = false) (hq : (stir s st).homeQ = [c])
    (hr : freeRid (stir s st) = some rid) (ha : wAssigned (stir s st).role = true) :
    let r := homePacket st rid c notLeft
    pumpHome st (k + 1) s = offerUp (.stirrup st) (prioHome s.clk.tclk st) s.clk.tclk 1 (homeArrival (.stall (stallOf st)) r)
      (setStir st { stir s st with
        homeQ := [], homeFly := (stir s st).homeFly ++ [{ rid := rid, held := cHeld c.word, req := r }] } s) := by
  intro r
  simp only [pumpHome, hs, hq, hr, Bool.false_eq_true, if_false]
  refine pumpHome_empty k ?_
  rw [stir_offerUp, stir_setStir]
  exact ne_initial_of_assigned ha

end issue

/-! ## CALL (R53, R58) -/

/-- While a CALL is pending, a command that R53 refuses changes the status alone. -/
theorem writeCmd_busy {s : State} {st : Nat} {w : W32} (hf : (stir s st).frozen = false) (hi : (stir s st).iso = false)
    (hq : (stir s st).cmdQ = []) (hm : mustQueue s (stir s st) = false)
    (hc : stirrupCause (wAssigned (stir s st).role) w = 0) (hb : busyRefused (stir s st) w = true) :
    writeCmd st w s = { s with stirs := Tbl.set Stirrup.initial st { stir s st with status := stBusy } s.stirs } :=
  (writeCmd_accepted hf hi hc hq hm (.inr hb)).trans (issueNow_busy hb)

theorem busyRefused_call {x : Stirrup} {w : W32} (hp : x.call.isSome = true) (hc : cClass w = 0) : busyRefused x w = true := by
  simp [busyRefused, hp, hc]

theorem busyRefused_held {x : Stirrup} {w : W32} (hp : x.call.isSome = true) (hc : cClass w = 1 ∨ cClass w = 2)
    (hn : cNohold w = false) : busyRefused x w = true := by
  obtain hc | hc := hc <;> simp [busyRefused, cHeld, hp, hc, hn]

/-- Settles O1: an issued call is the pending one; while one is pending, R53 answers BUSY. -/
theorem callBecomesPendingAndLeaves : Obligations.CallBecomesPendingAndLeaves := by
  intro s st w x c busy pending
  refine ⟨fun hcl hop h => ?_, fun hp hcl => ?_, ?_⟩
  · refine ⟨_, execCall_next hcl hop h.1, ?_⟩
    have hpay : c.pay = x.pay := sample_pay (by omega)
    have hheld : cHeld w = !cNohold w := cHeld_of_class (by omega)
    rw [h.writeCmd_eq, issueNow_call (c := c) h.not_busy hcl, ← hheld]
    simp only [issueCall, hpay]
    exact ⟨rfl, rfl, rfl, rfl⟩
  · obtain ⟨hst, hf, hi, hq, hm, hcall, hc⟩ := hp
    obtain ⟨-, hop, -⟩ := stirrupCause_eq_zero hc
    exact (execCall_next hcl (hcl ▸ hop) hst).trans (congrArg _ (writeCmd_busy hf hi hq hm hc (busyRefused_call hcall hcl)))
  · have held : ∀ cls op, cls = 1 ∨ cls = 2 → pending → wordIs cls op w = true → cNohold w = false →
        tileCmd cls op st w s = busy := by
      rintro cls op hcls ⟨hst, hf, hi, hq, hm, hcall, hc⟩ hw hn
      exact tileCmd_next.mpr ⟨hw, hst, writeCmd_busy hf hi hq hm hc (busyRefused_held hcall (wordIs_class hw ▸ hcls) hn)⟩
    exact ⟨held 2 0x1A (.inr rfl), held 1 0x01 (.inl rfl), held 1 0x06 (.inl rfl)⟩

/-! ## HOME, TALLY and CTRL commands (R50, R51, R52) -/

/-- A HOME command issued at an idle queue is in flight under the free request number. -/
theorem IssuesAtOnce.writeCmd_home {s : State} {st rid : Nat} {w : W32} (h : IssuesAtOnce s st w) (hq : (stir s st).homeQ = [])
    (hr : freeRid (stir s st) = some rid) (hcl : cClass w = 1) :
    let x := stir s st
    let r := homePacket st rid (sample s x w) notLeft
    writeCmd st w s = offerUp (.stirrup st) (prioHome s.clk.tclk st) s.clk.tclk 1 (homeArrival (.stall (stallOf st)) r)
      (setStir st { x with homeFly := x.homeFly ++ [{ rid := rid, held := !cNohold w, req := r }] } s) := by
  intro x r
  have hheld : cHeld w = !cNohold w := cHeld_of_class (by omega)
  have hne : ∀ q f, { x with homeQ := q, homeFly := f } ≠ Stirrup.initial := fun q f => ne_initial_of_assigned h.assigned
  let y : Stirrup := { x with homeQ := [sample s x w] }
  have hy : stir (setStir st y s) st = y := stir_setStir (hne _ _)
  have hpump := pumpHome_single (s := setStir st y s) (c := sample s x w) (rid := rid) 3 (by rw [hy]; exact h.not_still) (by rw [hy])
    (by rw [hy]; exact hr) (by rw [hy]; exact h.assigned)
  rw [h.writeCmd_eq, issueNow_home (c := sample s x w) h.not_busy hcl, hq, List.nil_append]
  refine hpump.trans ?_
  rw [hy, setStir_setStir (hne _ _) (hne _ _), ← hheld]
  show offerUp _ _ _ _ _ (setStir st { x with homeQ := [], homeFly := _ } s) = _
  rw [← hq]
  rfl

/-- Settles O2: every row of the HOME class is the one issue of a HOME command. -/
theorem homeCommandsTakeARequestNumber : Obligations.HomeCommandsTakeARequestNumber := by
  intro s st rid w h hq hr x r goes
  have row : ∀ op, wordIs 1 op w = true → goes (tileCmd 1 op st w s) := by
    intro op hw
    refine completes_tileCmd hw h.1 ?_
    rw [h.writeCmd_home hq hr (wordIs_class hw)]
    exact ⟨rfl, rfl, rfl⟩
  exact ⟨row 0x00, row 0x01, row 0x02, row 0x03, row 0x04, row 0x05, row 0x06, row 0x07, row 0x08, row 0x09, row 0x10, row 0x11,
    row 0x12, row 0x13, row 0x14, row 0x15, row 0x16⟩

/-- Settles O3: a TALLY row is the issue of a TALLY command, a CTRL row that of a CTRL command. -/
theorem exactCommandsGoInFlight : Obligations.ExactCommandsGoInFlight := by
  intro s st w h x c goes tally ctrl
  have tallyRow : ∀ op, wordIs 2 op w = true → tally (tileCmd 2 op st w s) := by
    intro op hw
    have hcl := wordIs_class hw
    have hheld : cHeld w = !cNohold w := cHeld_of_class (by omega)
    refine completes_tileCmd hw h.1 ?_
    rw [h.writeCmd_eq, issueNow_tally (c := c) h.not_busy hcl, ← hheld]
    exact ⟨rfl, rfl, rfl⟩
  have ctrlRow : ∀ op, wordIs 4 op w = true → ctrl (tileCmd 4 op st w s) := by
    intro op hw
    refine completes_tileCmd hw h.1 ?_
    rw [h.writeCmd_eq, issueNow_ctrl (c := c) h.not_busy (wordIs_class hw)]
    exact ⟨rfl, rfl, rfl⟩
  exact ⟨tallyRow 0x18, tallyRow 0x19, tallyRow 0x1A, ctrlRow 0, ctrlRow 1, ctrlRow 2, ctrlRow 3⟩

end Sys2Proof.Machine

/-! PROOFS. Fences, queued commands, freezes, remote writes and role stamps at a stirrup, and the cue that ends its call. -/

namespace Sys2Proof.Machine

/-! ## Fences and queued commands (R50, R51, R52) -/

section queue
variable {s : State} {st : Nat}

theorem holdCause_fence (s : State) (x : Stirrup) (k : BitVec 3) : holdCause s { x with fence := some k } = true := by
  simp [holdCause]

theorem settleFence_waiting (x : Stirrup) (k : BitVec 3) :
    settleFence { x with fence := some k } = if fenceMet x k = true then { x with fence := none } else { x with fence := some k } := rfl

theorem issueHeld_empty (h : (stir s st).cmdQ = []) : issueHeld st s = s := by
  simp [issueHeld, h]

theorem issueHeld_held (h : mustQueue s (stir s st) = true) : issueHeld st s = s := by
  simp only [issueHeld]
  split
  · rfl
  · simp [h]

/-- A stirrup with nothing waiting asks for no issue. -/
theorem wake_idle (hc : (stir s st).cmdQ = []) (hh : (stir s st).homeQ = []) : wake st s = s := by
  simp [wake, hc, hh]

/-- A waiting command that nothing holds back any longer is issued from a queue without it. -/
theorem issueHeld_single {c : StirCmd} (hq : (stir s st).cmdQ = [c]) (hm : mustQueue s (stir s st) = false)
    (hf : (stir s st).frozen = false) (hl : limited (stir s st) c.word = false)
    (hc : stirrupCause (wAssigned (stir s st).role) c.word = 0) :
    issueHeld st s = wake st (issueNow st c (setStir st { stir s st with cmdQ := [] } s)) := by
  simp [issueHeld, hq, hm, hf, hl, hc]

theorem issueTally_stir {c : StirCmd} (ha : wAssigned (stir s st).role = true) :
    stir (issueTally st c s) st = { stir s st with
      exactFly := (stir s st).exactFly ++ [{ cmd := c, tally := true, held := cHeld c.word, leftT := notLeft }] } :=
  stir_setStir (ne_initial_of_assigned ha)

theorem issueTally_frame (st : Nat) (c : StirCmd) (s : State) :
    issueTally st c s = { s with stirs := (issueTally st c s).stirs, tree := (issueTally st c s).tree } := rfl

/-- A TALLY command that waited alone leaves as one written now (R52). -/
theorem queuedIssue_tally {c : StirCmd} (hh : (stir s st).homeQ = []) (hq : (stir s st).cmdQ = [c]) (hcl : cClass c.word = 2)
    (hf : (stir s st).frozen = false) (hm : mustQueue s (stir s st) = false) (hcall : (stir s st).call = none)
    (hx : (stir s st).exactFly.length < 2) (hc : stirrupCause (wAssigned (stir s st).role) c.word = 0) :
    pumpHome st 4 (issueHeld st s) = issueTally st c (setStir st { stir s st with cmdQ := [] } s) := by
  have ha : wAssigned (stir s st).role = true := (stirrupCause_eq_zero hc).2.2
  have hl : limited (stir s st) c.word = false := by simp [limited, hcl, hx]
  let s1 := setStir st { stir s st with cmdQ := [] } s
  have h1 : stir s1 st = { stir s st with cmdQ := [] } := stir_setStir (ne_initial_of_assigned ha)
  have hb : busyRefused (stir s1 st) c.word = false := by rw [h1]; simp [busyRefused, hcall]
  have h2 := issueTally_stir (c := c) (s := s1) (st := st) (by rw [h1]; exact ha)
  rw [issueHeld_single hq hm hf hl hc, issueNow_tally hb hcl]
  rw [wake_idle (by rw [h2, h1]) (by rw [h2, h1]; exact hh)]
  exact pumpHome_empty 4 (by rw [h2, h1]; exact hh)

end queue

/-- Settles O4: a fence is one word of the stirrup's record; a queued command takes the path of a written one. -/
theorem fencesAndQueuedCommandsIssueInTurn : Obligations.FencesAndQueuedCommandsIssueInTurn := by
  intro s st w c hst x k
  refine ⟨fun hw h => ?_, holdCause_fence s x k, settleFence_waiting x k, fun hh hq => ?_, fun hh hm => ?_, fun hh hq hcl hf hm hcall hx hc => ?_⟩
  · exact tileCmd_next.mpr ⟨hw, hst, h.writeCmd_eq.trans (issueNow_fence (c := sample s x w) h.not_busy (wordIs_class hw))⟩
  · exact answer_next.mpr ⟨decide_eq_true hst, by rw [issueHeld_empty hq, pumpHome_empty 4 hh]⟩
  · exact answer_next.mpr ⟨decide_eq_true hst, by rw [issueHeld_held hm, pumpHome_empty 4 hh]⟩
  · refine completes_answer.mpr ⟨decide_eq_true hst, ?_⟩
    have ha : wAssigned x.role = true := (stirrupCause_eq_zero hc).2.2
    have h1 : stir (setStir st { x with cmdQ := [] } s) st = { x with cmdQ := [] } := stir_setStir (ne_initial_of_assigned ha)
    rw [queuedIssue_tally hh hq hcl hf hm hcall hx hc]
    refine ⟨rfl, ?_, ?_, issueTally_frame st c _⟩ <;> rw [issueTally_stir (by rw [h1]; exact ha), h1]

/-! ## Freezes (R63, R64, R65) -/

/-- A freeze that the stirrup detects changes its record, and what tells of it. -/
theorem freezeStirrup_spec (st cause : Nat) (w : W32) (s : State) :
    let t := freezeStirrup st cause w s
    t.stirs = Tbl.set Stirrup.initial st (frozenBy cause (stir s st)) s.stirs ∧ t.tree = s.tree
      ∧ t = { s with stirs := t.stirs, agenda := t.agenda, free := t.free } := ⟨rfl, rfl, rfl⟩

theorem execMalformedCommand_next {s : State} {st : Nat} {w : W32} (hop : opListed (cClass w) (cOp w) = false)
    (hst : st < nStirrup) : execMalformedCommand st w s = .next (writeCmd st w s) := by
  simp [execMalformedCommand, hop, answer, hst]

/-- Settles O5: an unlisted word freezes by its lowest cause; a frozen stirrup ignores every write. -/
theorem frozenTilesTakeNoCommand : Obligations.FrozenTilesTakeNoCommand := by
  intro s st cause fromT w hst x
  refine ⟨fun hf hi hop => ?_, fun hf => ?_, ?_⟩
  · have hc : stirrupCause (wAssigned x.role) w = if 5 ≤ cClass w then 1 else 2 := stirrupCause_unlisted hop
    refine ⟨_, execMalformedCommand_next hop hst, ?_⟩
    rw [writeCmd_faulty hf hi (by rw [hc]; split <;> decide), hc]
    obtain ⟨hstirs, hrest⟩ := freezeStirrup_spec st (if 5 ≤ cClass w then 1 else 2) w s
    refine ⟨hstirs.trans ?_, hrest⟩
    split <;> rfl
  · have ignored : writeCmd st w s = s := writeCmd_frozen hf
    have row : ∀ cls op, wordIs cls op w = true → tileCmd cls op st w s = .next s :=
      fun _ _ hw => tileCmd_next.mpr ⟨hw, hst, ignored⟩
    exact ⟨fun hcl hop => (execCall_next hcl hop hst).trans (congrArg _ ignored), row 2 0x18, row 3 0, row 4 3, row 1 0,
      fun hop => (execMalformedCommand_next hop hst).trans (congrArg _ ignored)⟩
  · exact answer_of hst _

/-! ## Remote writes (R46) -/

section remote
variable {s : State} {st : Nat} {k : BitVec 2} (hst : st < nStirrup) (hk : k ≠ 0#2)
include hst hk

theorem remoteWrite_counts (h : (outOf k (stir s st)).toNat ≠ 1023) :
    execRemoteWriteReport st k s = .next (updStir st (incOut k) s) := by
  simp [execRemoteWriteReport, answer, hst, hk, h]

theorem remoteWrite_overflows (h : (outOf k (stir s st)).toNat = 1023) (hf : (stir s st).frozen = false) :
    execRemoteWriteReport st k s = .next (freezeStirrup st 5 0 s) := by
  simp [execRemoteWriteReport, answer, hst, hk, h, hf]

theorem landAck_presented : execLandAck st k false s = .next (afterT 5 (.landAck st k true) s) := by
  simp [execLandAck, answer, hst, hk]

theorem landAck_counts (h : outOf k (stir s st) ≠ 0#10) : execLandAck st k true s = .next (updStir st (decOut k) s) := by
  simp [execLandAck, answer, hst, hk, h]

theorem landAck_stray (h : outOf k (stir s st) = 0#10) :
    execLandAck st k true s = .next (report 0x04 1 st (some (stirPart (stir s st))) [k.toNat] s) := by
  simp [execLandAck, answer, hst, hk, h]

end remote

/-- Settles O7: each report and acknowledgement takes the branch of its scope and count. -/
theorem remoteWriteCountersCount : Obligations.RemoteWriteCountersCount := by
  intro s st k hst x
  refine ⟨?_, remoteWrite_counts hst, fun hk hn hf => ?_, landAck_presented hst, landAck_counts hst, fun hk hn => ?_⟩
  · rintro rfl
    exact ⟨answer_of hst _, fun _ => answer_of hst _⟩
  · exact ⟨_, remoteWrite_overflows hst hk hn hf, (freezeStirrup_spec st 5 0 s).1⟩
  · exact ⟨_, landAck_stray hst hk hn, report_told _ _ _ _ _ _, report_frame _ _ _ _ _ _⟩

/-! ## Role stamps (R61) -/

/-- Only the agenda differs. -/
def AgendaOnly (t s : State) : Prop := t = { s with agenda := t.agenda }

theorem AgendaOnly.trans {u t s : State} (h : AgendaOnly u t) (g : AgendaOnly t s) : AgendaOnly u s := by
  unfold AgendaOnly at *
  rw [h, g]

theorem wake_agendaOnly (st : Nat) (s : State) : AgendaOnly (wake st s) s := by
  simp only [wake]
  split <;> rfl

theorem bootJoin_agendaOnly (st : Nat) (s : State) : AgendaOnly (bootJoin st s) s := by
  unfold bootJoin
  dsimp only
  split
  · rfl
  · split <;> rfl

theorem tryRole_ready {s : State} {st : Nat} {r : W32} (hn : (stir s st).newRole = some r) (h : roleReady (stir s st) = true) :
    tryRole st s = wake st (bootJoin st
      (setStir st { stir s st with role := r, newRole := none, roleAt := some s.clk.tclk } s)) := by
  simp [tryRole, hn, h]

theorem tryRole_waits {s : State} {st : Nat} (h : roleReady (stir s st) = false) : tryRole st s = s := by
  unfold tryRole
  dsimp only
  split
  · rfl
  · simp [h]

theorem tryRole_none {s : State} {st : Nat} (h : (stir s st).newRole = none) : tryRole st s = s := by
  simp [tryRole, h]

/-- Each of R61's conditions keeps the stamp waiting. -/
theorem roleReady_false {x : Stirrup}
    (h : (x.call.any fun c => !c.boot) = true ∨ x.fence.isSome = true ∨ homeout x ≠ 0 ∨ x.exactFly ≠ []) : roleReady x = false := by
  obtain h | h | h | h := h
  · cases hc : x.call with
    | none => simp [hc] at h
    | some c => simp_all [roleReady]
  · simp [roleReady, Option.isSome_iff_ne_none.mp h]
  · simp [roleReady, h]
  · simp [roleReady, h]

/-- Settles O8: what follows the stamp's writing only asks for what comes next. -/
theorem roleStampWaitsForQuiet : Obligations.RoleStampWaitsForQuiet := by
  intro s st r hst hn x
  refine ⟨fun h => ?_, fun h => ?_⟩
  · refine completes_answer.mpr ⟨decide_eq_true hst, ?_⟩
    rw [tryRole_ready hn h]
    have hkeep := (wake_agendaOnly st _).trans (bootJoin_agendaOnly st
      (setStir st { x with role := r, newRole := none, roleAt := some s.clk.tclk } s))
    rw [hkeep]
    exact ⟨rfl, rfl⟩
  · exact answer_next.mpr ⟨decide_eq_true hst, tryRole_waits (roleReady_false h)⟩

/-! ## Cues (R54, R59, R60, R65) -/

/-- What a cue leaves of its stirrup: the call has ended, and one that is not frozen shows the cue. -/
def afterCue (s : State) (x : Stirrup) (c : Cue) : Stirrup :=
  if x.frozen then { x with call := none }
  else { x with call := none, res := c.data, status := c.status, verdict := c.verdict, inexact := c.inexact,
                overflow := c.overflow, audit := if c.verdictSlot then auditAfter s x c else x.audit }

theorem afterCue_keep (s : State) (x : Stirrup) (c : Cue) :
    (afterCue s x c).role = x.role ∧ (afterCue s x c).cmdQ = x.cmdQ ∧ (afterCue s x c).homeQ = x.homeQ
      ∧ (afterCue s x c).newRole = x.newRole := by
  unfold afterCue
  split <;> exact ⟨rfl, rfl, rfl, rfl⟩

theorem cueAtStirrup_none {s : State} {st : Nat} (c : Cue) (h : (stir s st).call = none) :
    cueAtStirrup st c s = staleDrop (bitsN c.role 15 10) st 2 c.slot s := by
  simp [cueAtStirrup, h]

theorem cueAtStirrup_pending {s : State} {st : Nat} {c : Cue} {pc : PendCall} (h : (stir s st).call = some pc)
    (hslot : pc.slot = c.slot) (hboot : pc.boot = false) (hstamp : stampIs (stir s st) c.role = true) :
    cueAtStirrup st c s = tryRole st (wake st (setStir st (afterCue s (stir s st) c) s)) := by
  simp [cueAtStirrup, h, hslot, hboot, hstamp, afterCue]

/-- With nothing waiting behind the call its end is all that happens. -/
theorem cueAtStirrup_idle {s : State} {st : Nat} {c : Cue} {pc : PendCall} (h : (stir s st).call = some pc)
    (hslot : pc.slot = c.slot) (hboot : pc.boot = false) (hstamp : stampIs (stir s st) c.role = true)
    (ha : wAssigned (stir s st).role = true) (hq : (stir s st).cmdQ = []) (hh : (stir s st).homeQ = [])
    (hn : (stir s st).newRole = none) : cueAtStirrup st c s = setStir st (afterCue s (stir s st) c) s := by
  obtain ⟨krole, kcmd, khome, knew⟩ := afterCue_keep s (stir s st) c
  have hs : stir (setStir st (afterCue s (stir s st) c) s) st = afterCue s (stir s st) c :=
    stir_setStir (ne_initial_of_assigned (by rw [krole]; exact ha))
  rw [cueAtStirrup_pending h hslot hboot hstamp, wake_idle (by rw [hs, kcmd, hq]) (by rw [hs, khome, hh]),
    tryRole_none (by rw [hs, knew, hn])]

/-- Settles O25: a cue for the pending call is the end of it; one without a call is dropped. -/
theorem cueDeliveryEndsTheCall : Obligations.CueDeliveryEndsTheCall := by
  intro s st c pc hst x
  refine ⟨fun h hslot hboot hstamp ha hq hh hn => ?_, fun h => ?_⟩
  · have hcue := cueAtStirrup_idle h hslot hboot hstamp ha hq hh hn
    refine ⟨fun hf => ?_, fun hf => ?_⟩ <;>
    · refine answer_next.mpr ⟨decide_eq_true hst, hcue.trans ?_⟩
      simp only [afterCue, x, hf, if_true, Bool.false_eq_true, if_false]
      rfl
  · refine completes_answer.mpr ⟨decide_eq_true hst, ?_⟩
    rw [cueAtStirrup_none c h]
    exact ⟨rfl, rfl⟩

end Sys2Proof.Machine

/-! PROOFS. Waiters that leave their FIFO: by a wake pass, by expiry, and at a freeze. -/

namespace Sys2Proof.Machine

/-! ## What an answer survives -/

/-- What a waiter's leaving keeps of the stirrups, the tree and the registers. -/
def SameOutside (t s : State) : Prop := t.stirs = s.stirs ∧ t.tree = s.tree ∧ t.force = s.force

theorem SameOutside.trans {u t s : State} (h : SameOutside u t) (g : SameOutside t s) : SameOutside u s :=
  ⟨h.1.trans g.1, h.2.1.trans g.2.1, h.2.2.trans g.2.2⟩

theorem HomeFrame.sameOutside {t s : State} (h : HomeFrame t s) : SameOutside t s := by
  unfold HomeFrame at h
  rw [h]
  exact ⟨rfl, rfl, rfl⟩

/-- An answer on its way stays so while the agenda only grows. -/
theorem Answers.mono {u t : State} {r : HomeReq} {status : BitVec 5} {pay : W128} (h : Answers t r status pay)
    (hs : u.stirs = t.stirs) (ha : t.agenda ⊆ u.agenda) : Answers u r status pay := by
  obtain ⟨d, hd⟩ := h
  refine ⟨d, ?_⟩
  have hu := ha hd
  simpa only [stir, hs] using hu

/-- A home operation that leaves every object, and drops nothing that is due. -/
def HomeGrows (t s : State) : Prop := HomeQuiet t s ∧ s.agenda ⊆ t.agenda

theorem HomeGrows.refl (s : State) : HomeGrows s s := ⟨.refl s, fun _ h => h⟩

theorem HomeGrows.trans {u t s : State} (h : HomeGrows u t) (g : HomeGrows t s) : HomeGrows u s :=
  ⟨h.1.trans g.1, fun _ hx => h.2 (g.2 hx)⟩

theorem HomeQuiet.obj {t s : State} (h : HomeQuiet t s) (tok : Bool) (i : Nat) : obj t tok i = obj s tok i := by
  simp only [Machine.obj, h.2]

theorem HomeGrows.answers {t s : State} {r : HomeReq} {status : BitVec 5} {pay : W128} (h : HomeGrows t s)
    (ha : Answers s r status pay) : Answers t r status pay := ha.mono h.1.1.sameOutside.1 h.2

theorem schedule_grows (c : Clk) (due : Nat) (ev : Instr) (s : State) : HomeGrows (schedule c due ev s) s :=
  ⟨⟨rfl, rfl⟩, List.subset_append_left _ _⟩

/-- A quiet operation that leaves the agenda as it is. -/
theorem HomeQuiet.grows {t s : State} (h : HomeQuiet t s) (ha : t.agenda = s.agenda) : HomeGrows t s := ⟨h, ha ▸ fun _ hx => hx⟩

/-! ## Passes and journals drop nothing that is due -/

theorem markPass_grows (tok : Bool) (i src : Nat) (picked : Bool) (s : State) : HomeGrows (markPass tok i src picked s) s := by
  unfold markPass
  split <;> exact HomeQuiet.grows ⟨rfl, rfl⟩ rfl

theorem passNext_grows (tok : Bool) (i : Nat) (s : State) : HomeGrows (passNext tok i s) s := by
  unfold passNext
  split
  · exact .refl s
  · exact schedule_grows _ _ _ _

theorem startPass_grows (tok : Bool) (i src : Nat) (s : State) : HomeGrows (startPass tok i src s) s :=
  (passNext_grows _ _ _).trans (markPass_grows _ _ _ _ _)

theorem dirtyLog_agenda (p kind : Nat) (addr : W64) (s : State) : (dirtyLog p kind addr s).agenda = s.agenda := by
  unfold dirtyLog
  dsimp only
  split
  · rfl
  · split <;> rfl

theorem hostWrite_agenda (p kind : Nat) (addr : W64) (data : List W64) (s : State) :
    (hostWrite p kind addr data s).agenda = s.agenda := by
  simp only [hostWrite]
  split
  · rfl
  · split
    · rfl
    · exact dirtyLog_agenda _ _ _ _

theorem rcBefore_agenda (off : Nat) (old : W32) (s : State) : (rcBefore off old s).agenda = s.agenda := by
  unfold rcBefore
  split <;> rfl

theorem raiseIrq_agenda (p vec : Nat) (s : State) : (raiseIrq p vec s).agenda = s.agenda := by
  unfold raiseIrq
  split
  · rfl
  · split <;> rfl

theorem wantWriteback_agenda (p : Nat) (s : State) : s.agenda ⊆ (wantWriteback p s).agenda := by
  simp only [wantWriteback]
  split
  · exact List.subset_append_left _ _
  · exact fun _ h => h

theorem event_grows (p type : Nat) (d0 : W32) (d1 : W128) (s : State) : HomeGrows (event p type d0 d1 s) s := by
  refine ⟨event_quiet p type d0 d1 s, ?_⟩
  have hwrite : ∀ (a b : W64) (k l : List W64) (t : State),
      (hostWrite p 2 a k (hostWrite p 2 b l t)).agenda = t.agenda := fun _ _ _ _ _ => by rw [hostWrite_agenda, hostWrite_agenda]
  simp only [event]
  split
  · rw [setPage_agenda, rcBefore_agenda]
    exact fun _ h => h
  · split
    · rw [raiseIrq_agenda]
      refine List.Subset.trans ?_ (wantWriteback_agenda _ _)
      rw [setPage_agenda, writeEntry, hwrite]
      exact fun _ h => h
    · refine List.Subset.trans ?_ (wantWriteback_agenda _ _)
      rw [setPage_agenda, writeEntry, hwrite]
      exact fun _ h => h

theorem report_grows (type unit index : Nat) (p : Option Nat) (d : List Nat) (s : State) :
    HomeGrows (report type unit index p d s) s :=
  ⟨report_quiet type unit index p d s, List.subset_append_left _ _⟩

theorem closeJournal_grows (p : Nat) (s : State) : HomeGrows (closeJournal p s) s :=
  (event_grows _ _ _ _ _).trans ((report_grows _ _ _ _ _ _).trans (HomeQuiet.grows ⟨rfl, rfl⟩ rfl))

theorem journalAdd_grows (p : Nat) (l : List JEntry) (s : State) : HomeGrows (journalAdd p l s) s := by
  simp only [journalAdd]
  split
  · exact .refl s
  · split
    · exact HomeQuiet.grows ⟨rfl, rfl⟩ rfl
    · exact closeJournal_grows p s

theorem journalObj_grows (p : Nat) (tok : Bool) (i : Nat) (l : List JEntry) (s : State) : HomeGrows (journalObj p tok i l s) s := by
  unfold journalObj
  split
  · exact .refl s
  · exact journalAdd_grows _ _ _

/-- A partition whose journal is not open records nothing. -/
theorem journalObj_shut {s : State} {p : Nat} (h : journalOpen s p = false) (tok : Bool) (i : Nat) (l : List JEntry) :
    journalObj p tok i l s = s := by
  unfold journalObj
  split
  · rfl
  · simp [journalAdd, h]

/-! ## A head waiter leaves its FIFO (R149, R155) -/

theorem obj_setObj {s : State} {tok : Bool} {i : Nat} {x : Obj} (h : x.seq ≠ 0) : obj (setObj tok i x s) tok i = x :=
  Tbl.get_set_self _ _ _ _ fun hn => h (congrArg Obj.seq hn)

theorem unlinkFrom_head {s : State} {tok : Bool} {i e : Nat} {sq : W32} {l : List (Nat × W32)}
    (hf : (obj s tok i).fifo = (e, sq) :: l) (hl : ∀ x ∈ l, x.1 ≠ e) :
    unlinkFrom tok i e s = setObj tok i { obj s tok i with fifo := l } s := by
  have hrest : l.filter (fun f => f.1 != e) = l := List.filter_eq_self.mpr fun x hx => bne_iff_ne.mpr (hl x hx)
  simp [unlinkFrom, hf, hrest]

/-- The hypotheses under which the only waiter record of a request stands first in one FIFO, with nothing to journal. -/
structure HeadOf (s : State) (i e : Nat) (sq : W32) (l : List (Nat × W32)) : Prop where
  shut : journalOpen s (waiter s e).req.part = false
  links : (waiter s e).links = [(false, i, sq)]
  fifo : (obj s false i).fifo = (e, sq) :: l
  rest : ∀ x ∈ l, x.1 ≠ e
  seq : (obj s false i).seq ≠ 0

section head
variable {s : State} {i e : Nat} {sq : W32} {l : List (Nat × W32)}

/-- Its leaving takes it out of the FIFO and frees its entry. -/
theorem HeadOf.leaveFifos_eq (h : HeadOf s i e sq l) :
    leaveFifos e s = freeWaiter e (count (waiter s e).req.part 7 (s.clk.eclk - (waiter s e).since)
      (setObj false i { obj s false i with fifo := l } s)) := by
  simp [leaveFifos, unlinkAll, h.shut, h.links, unlinkFrom_head h.fifo h.rest]

theorem HeadOf.leaveFifos_spec (h : HeadOf s i e sq l) :
    HomeFrame (leaveFifos e s) s ∧ obj (leaveFifos e s) false i = { obj s false i with fifo := l } := by
  rw [h.leaveFifos_eq]
  exact ⟨rfl, obj_setObj (x := { obj s false i with fifo := l }) h.seq⟩

/-- Another value in the semaphore leaves its head waiter. -/
theorem HeadOf.setVal (h : HeadOf s i e sq l) (v : W32) : HeadOf (setObj false i { obj s false i with val := v } s) i e sq l := by
  have ho : obj (setObj false i { obj s false i with val := v } s) false i = { obj s false i with val := v } := obj_setObj h.seq
  exact ⟨h.shut, h.links, by rw [ho]; exact h.fifo, h.rest, by rw [ho]; exact h.seq⟩

/-- Its leaving and its answer, whatever the pass that follows appends. -/
theorem HeadOf.answered (h : HeadOf s i e sq l) (status : BitVec 5) (pay : W128) (hsrc : (waiter s e).req.src < nStirrup) :
    let t := respond (waiter s e).req status pay false (leaveFifos e s)
    obj t false i = { obj s false i with fifo := l } ∧ Answers t (waiter s e).req status pay ∧ SameOutside t s := by
  obtain ⟨hframe, hobj⟩ := h.leaveFifos_spec
  obtain ⟨hquiet, hans⟩ := respond_tile (waiter s e).req status pay (leaveFifos e s) hsrc
  exact ⟨(hquiet.obj false i).trans hobj, hans, hquiet.1.sameOutside.trans hframe.sameOutside⟩

/-! ## Expiry and removal (R64, R151, R157) -/

theorem HeadOf.removeWaiter_eq (h : HeadOf s i e sq l) (hshadow : (waiter s e).shadow = false) (status : BitVec 5) :
    removeWaiter e status true s = respond (waiter s e).req status
      (if status = stTimeout then resWords (obj s false i).val 0 0 else 0) false (leaveFifos e s) := by
  simp [removeWaiter, h.links, journalObj_shut h.shut, hshadow]

/-- Removal outside a pass: what the new head's pass adds keeps the object and the answer. -/
theorem HeadOf.removeAndPass_grows (h : HeadOf s i e sq l) (status : BitVec 5) :
    HomeGrows (removeAndPass e status true s) (removeWaiter e status true s) := by
  have hhead : isHead s false i e = true := by simp [isHead, h.fifo]
  have hheads : (waiter s e).links.filter (fun k => isHead s k.1 k.2.1 e) = [(false, i, sq)] := by
    simp [h.links, hhead]
  simp only [removeAndPass, hheads, List.foldl_cons, List.foldl_nil]
  split
  · exact .refl _
  · exact (startPass_grows _ _ _ _).trans (journalObj_grows _ _ _ _ _)

theorem HeadOf.removed (h : HeadOf s i e sq l) (hshadow : (waiter s e).shadow = false) (hsrc : (waiter s e).req.src < nStirrup)
    (status : BitVec 5) :
    let t := removeAndPass e status true s
    obj t false i = { obj s false i with fifo := l }
      ∧ Answers t (waiter s e).req status (if status = stTimeout then resWords (obj s false i).val 0 0 else 0)
      ∧ t.stirs = s.stirs ∧ t.tree = s.tree ∧ t.force = s.force := by
  have hgrows := h.removeAndPass_grows status
  obtain ⟨hobj, hans, hout⟩ :=
    h.answered status (if status = stTimeout then resWords (obj s false i).val 0 0 else 0) hsrc
  rw [← h.removeWaiter_eq hshadow] at hobj hans hout
  exact ⟨(hgrows.1.obj false i).trans hobj, hgrows.answers hans, hgrows.1.1.sameOutside.trans hout⟩

theorem waiterExpiry_expired (hhas : Tbl.has s.waiters e = true) (hkept : (waiter s e).kept = false)
    (hexp : expired s (waiter s e) = true) (hheld : waiterHeld s (waiter s e) = false) :
    waiterExpiry e s = removeAndPass e stTimeout true s := by
  have hd : (waiter s e).deadline.isNone = false := by
    cases hd : (waiter s e).deadline with
    | none => simp [expired, hd] at hexp
    | some d => rfl
  simp [waiterExpiry, hhas, hkept, hd, hexp, hheld]

/-! ## A wake pass (R149) -/

/-- What a trace record formed in ECLK may change. -/
def TraceOnly (t s : State) : Prop := t = { s with obs := t.obs, parts := t.parts, cyc := t.cyc }

theorem dropRecord_traceOnly (p : Nat) (s : State) : TraceOnly (dropRecord p s) s := by
  simp only [TraceOnly, dropRecord, rcBefore]
  split <;> rfl

theorem traceAdmit_traceOnly (r : TraceRec) (s : State) : TraceOnly (traceAdmit r s) s := by
  simp only [traceAdmit]
  split
  · rfl
  · split
    · exact dropRecord_traceOnly _ _
    · split <;> rfl

theorem traceWaitEdge_traceOnly (p : Nat) (tok : Bool) (i waiter signaller waited n : Nat) (s : State) :
    TraceOnly (traceWaitEdge p tok i waiter signaller waited n s) s := by
  simp only [traceWaitEdge, traceOffer, if_true]
  split
  · split
    · rfl
    · exact traceAdmit_traceOnly _ _
  · rfl

/-- A wake takes the count, lets the waiter leave, traces the edge and answers. -/
theorem HeadOf.wakeTake_eq (h : HeadOf s i e sq l) (hshadow : (waiter s e).shadow = false) (src : Nat) :
    let v := (obj s false i).val - (waiter s e).count
    ∃ u, TraceOnly u (leaveFifos e (setObj false i { obj s false i with val := v } s))
      ∧ wakeTake false i e sq src s = respond (waiter s e).req stOk (resWords v 0 0) false u := by
  refine ⟨_, traceWaitEdge_traceOnly (waiter s e).req.part false i (traceName s (waiter s e).req.src) (traceName s src)
    (s.clk.eclk - (waiter s e).since) (waiter s e).count.toNat _, ?_⟩
  simp [wakeTake, journalObj_shut h.shut, hshadow]

/-- The head waiter of a semaphore takes its count and is answered. -/
theorem HeadOf.wakeTake_spec (h : HeadOf s i e sq l) (hshadow : (waiter s e).shadow = false)
    (hsrc : (waiter s e).req.src < nStirrup) (src : Nat) :
    let t := wakeTake false i e sq src s
    let v := (obj s false i).val - (waiter s e).count
    obj t false i = { obj s false i with val := v, fifo := l } ∧ Answers t (waiter s e).req stOk (resWords v 0 0)
      ∧ SameOutside t s := by
  intro t v
  obtain ⟨u, hu, ht⟩ := h.wakeTake_eq hshadow src
  obtain ⟨hframe, hobj⟩ := (h.setVal v).leaveFifos_spec
  obtain ⟨hquiet, hans⟩ := respond_tile (waiter s e).req stOk (resWords v 0 0) u hsrc
  have hval : obj (setObj false i { obj s false i with val := v } s) false i = { obj s false i with val := v } := obj_setObj h.seq
  have hleft : obj u false i = { obj s false i with val := v, fifo := l } := by
    rw [show u = _ from hu]
    exact hobj.trans (by rw [hval])
  have hout : SameOutside u s := by
    rw [show u = _ from hu]
    exact hframe.sameOutside
  rw [show t = _ from ht]
  exact ⟨(hquiet.obj false i).trans hleft, hans, hquiet.1.sameOutside.trans hout⟩

theorem wakePass_empty (hf : (obj s false i).fifo = []) (hc : covered s (passOwner s false i) = false)
    (hu : undoHolds s (passOwner s false i) i = false) : wakePass false i s = endPass false i s := by
  simp [wakePass, hf, hc, hu]

theorem wakePass_takes (hf : (obj s false i).fifo = (e, sq) :: l) (hc : covered s (passOwner s false i) = false)
    (hu : undoHolds s (passOwner s false i) i = false) (hd : (waiter s e).deadline = none)
    (hn : (waiter s e).count.toNat ≤ (obj s false i).val.toNat) :
    ∃ src, wakePass false i s = passNext false i (wakeTake false i e sq src s) := by
  simp only [wakePass, hf, hc, hu, expired, hd, canTake, hn, Bool.false_and, Bool.false_eq_true, or_self, if_false,
    decide_true, if_true]
  exact ⟨_, rfl⟩

theorem endPass_hasPass (tok : Bool) (i : Nat) (s : State) : hasPass (endPass tok i s) tok i = false := by
  simp only [hasPass, endPass, List.any_filter, Bool.not_and_self]
  exact List.any_eq_false.mpr fun _ _ => Bool.false_ne_true

end head

/-! ## The obligation -/

theorem waiterRemoval_none {s : State} {st : Nat} (h : s.waiters.filter (fun x => x.2.req.src == st && !x.2.kept) = []) :
    waiterRemoval st true s = s := by
  simp [waiterRemoval, h]

theorem waiterRemoval_single {s : State} {st e : Nat} {w : Waiter}
    (h : s.waiters.filter (fun x => x.2.req.src == st && !x.2.kept) = [(e, w)]) :
    waiterRemoval st true s = removeAndPass e stAborted true s := by
  simp [waiterRemoval, h]

/-- Settles O20: taking, expiry and removal are one leaving of the head waiter, with the answer of each. -/
theorem waitersWakeExpireAndAreRemoved : Obligations.WaitersWakeExpireAndAreRemoved := by
  intro s st i e sq l hst hi he w o p mine queued left
  have head : queued → HeadOf s i e sq l := fun ⟨hj, _, _, _, hk, hf, hl, hs⟩ => ⟨hj, hk, hf, hl, hs⟩
  refine ⟨fun hf hc hu => ?_, fun hq hc hu hd hn => ?_, fun hq hhas hexp hc hu => ?_, fun hm => ?_, fun hq hm => ?_⟩
  · refine completes_answer.mpr ⟨decide_eq_true hi, ?_⟩
    rw [wakePass_empty hf hc hu]
    exact ⟨endPass_hasPass _ _ _, rfl⟩
  · obtain ⟨-, hsrc, hshadow, -, -, hf, -⟩ := id hq
    obtain ⟨src, htake⟩ := wakePass_takes hf hc hu hd hn
    obtain ⟨hobj, hans, hout⟩ := (head hq).wakeTake_spec hshadow hsrc src
    have hgrows := passNext_grows false i (wakeTake false i e sq src s)
    refine completes_answer.mpr ⟨decide_eq_true hi, ?_⟩
    rw [htake]
    exact ⟨(hgrows.1.obj false i).trans hobj, hgrows.answers hans, hgrows.1.1.sameOutside.trans hout⟩
  · obtain ⟨-, hsrc, hshadow, hkept, hk, -⟩ := id hq
    have hheld : waiterHeld s w = false := by simp [waiterHeld, hk, hc, hu]
    refine completes_answer.mpr ⟨decide_eq_true he, ?_⟩
    rw [waiterExpiry_expired hhas hkept hexp hheld]
    exact (head hq).removed hshadow hsrc stTimeout
  · exact answer_next.mpr ⟨decide_eq_true hst, waiterRemoval_none hm⟩
  · obtain ⟨-, hsrc, hshadow, -⟩ := id hq
    refine completes_answer.mpr ⟨decide_eq_true hst, ?_⟩
    rw [waiterRemoval_single hm]
    exact (head hq).removed hshadow hsrc stAborted

end Sys2Proof.Machine

/-! PROOFS. A cue that leaves its root: what it changes on its way out, under a hold, by its turn, on its
scheduled edge. -/

namespace Sys2Proof.Machine

/-! ## A cue on its way out -/

/-- What a cue may change as it leaves its root, apart from its partition's apply point: packets on links, counters, tallies, trace,
and what is due. -/
def Departs (t s : State) : Prop :=
  t = { s with tree := { s.tree with links := t.tree.links }, parts := t.parts, tly := t.tly, agenda := t.agenda, obs := t.obs,
               free := t.free }

theorem Departs.refl (s : State) : Departs s s := rfl

theorem Departs.trans {u t s : State} (h : Departs u t) (g : Departs t s) : Departs u s := by
  unfold Departs at *
  rw [h, g]

theorem Departs.foldl {α : Type} {f : State → α → State} (h : ∀ a x, Departs (f a x) a) (l : List α) (s : State) :
    Departs (l.foldl f s) s := by
  induction l generalizing s with
  | nil => exact .refl s
  | cons x l ih => exact (ih _).trans (h s x)

theorem copyStart_departs (p : Nat) (s : State) : Departs (copyStart p s) s := by
  apply Departs.foldl
  intro a k
  rfl

theorem freezeBy_departs (i : Nat) (s : State) : Departs (freezeBy i s) s := by
  unfold freezeBy
  split <;> rfl

theorem traceOffer_departs (q : Nat) (bits : W128) (s : State) : Departs (traceOffer false q bits s) s := by
  unfold traceOffer
  split
  · exact .refl s
  · rfl

theorem syncEvent_departs (at_ : Place) (c : Cue) (s : State) : Departs (syncEvent at_ c s) s := by
  unfold syncEvent
  split
  · exact .refl s
  · exact traceOffer_departs _ _ s

theorem tellHost_departs (c : Cue) (s : State) : Departs (tellHost c s) s := by
  unfold tellHost
  split <;> rfl

theorem wpMark_departs (i : Nat) (e : W32) (s : State) (w : Nat) : Departs (wpMark i e s w) s := by
  unfold wpMark traceMarkRec
  split
  · exact traceOffer_departs _ _ s
  · exact .refl s

/-- What the TCLK of a cue's leaving does on its die, the packets down the tree apart. -/
theorem cueOut_departs (at_ : Place) (c : Cue) (s : State) : Departs (cueOut at_ c s) s := by
  simp only [cueOut]
  refine (Departs.foldl (fun a w => wpMark_departs _ _ a w) _ _).trans ?_
  refine (tellHost_departs _ _).trans ((syncEvent_departs _ _ _).trans ((freezeBy_departs _ _).trans ?_))
  generalize (slotOwner s c.slot).getD 0 = p
  have hcount : Departs (if c.status = stAborted then count p 3 1 (count p 1 1 s) else count p 1 1 s) s := by
    split <;> rfl
  split
  · exact (copyStart_departs _ _).trans hcount
  · exact hcount

/-- The packets of a cue join the links of the children it goes to. -/
theorem sendCues_links (c : Cue) (l : List Place) (s : State) :
    s.tree.links ⊆ (l.foldl (fun a k => sendCue k c a) s).tree.links
      ∧ ∀ k ∈ l, ∃ i ∈ (l.foldl (fun a k => sendCue k c a) s).tree.links, i.ev = .cueArrival k c ∧ i.link = k.linkDown := by
  induction l generalizing s with
  | nil => exact ⟨fun _ h => h, by simp⟩
  | cons k l ih =>
    obtain ⟨hkeep, hsent⟩ := ih (sendCue k c s)
    refine ⟨fun _ h => hkeep (List.mem_append_left _ h), fun j hj => ?_⟩
    rcases List.mem_cons.mp hj with rfl | hj
    · exact ⟨_, hkeep (List.mem_append_right _ (List.mem_singleton_self _)), rfl, rfl⟩
    · exact hsent j hj

/-- From the die root a cue goes by the child masks. -/
theorem startDown_die {c : Cue} (hc : c.counted = false) (s : State) :
    startDown .die c s = (routeKids .die c.stalls).foldl (fun a k => sendCue k c a) s := by
  simp [startDown, hc]

/-! ## Leaving the die root (R95, R134) -/

/-- The cue leaves the die root towards every half with a stall of it; objects, stirrups and registers stay. -/
def LeavesDie (c : Cue) (t s : State) : Prop :=
  (∀ k ∈ routeKids .die c.stalls, ∃ l ∈ t.tree.links, l.ev = .cueArrival k c ∧ l.link = k.linkDown)
    ∧ t.objs = s.objs ∧ t.stirs = s.stirs ∧ t.force = s.force

/-- No epoch of a lost span waits for a cue of the slot (R208). -/
def NoneWaits (s : State) (slot : Nat) : Prop :=
  spanRooted s slot = false ∨ (spanState s (spanOf s slot)).abortNext = false

theorem abortWaiting_none {s : State} {slot : Nat} (h : NoneWaits s slot) : abortWaiting slot s = s := by
  rcases h with h | h <;> simp [abortWaiting, h]

theorem Departs.noneWaits {t s : State} {slot : Nat} (h : Departs t s) (hw : NoneWaits s slot) : NoneWaits t slot := by
  rw [h]
  exact hw

theorem sendCue_departs (to_ : Place) (c : Cue) (s : State) : Departs (sendCue to_ c s) s := rfl

/-- The way down from the die root changes links alone. -/
theorem startDown_die_departs {c : Cue} (hc : c.counted = false) (s : State) : Departs (startDown .die c s) s := by
  rw [startDown_die hc]
  exact Departs.foldl (fun a k => sendCue_departs k c a) _ _

/-- Where the slot is not its partition's boundary slot, leaving the die root is the way out and the way down alone. -/
theorem leaveNow_plain {c : Cue} {p : Nat} {s : State} (hp : PlainSlot s c.slot p) (hw : NoneWaits s c.slot)
    (hc : c.counted = false) : leaveNow .die c s = startDown .die c (cueOut .die c s) := by
  obtain ⟨howner, hbound⟩ := hp
  have hdep := (startDown_die_departs hc (cueOut .die c s)).trans (cueOut_departs .die c s)
  simp only [leaveNow, abortWaiting_none (hdep.noneWaits hw), howner, hbound, false_and, if_false]

/-- A cue that leaves the die root. -/
theorem leaveNow_die {c : Cue} {p : Nat} {s : State} (hp : PlainSlot s c.slot p) (hw : NoneWaits s c.slot)
    (hc : c.counted = false) : Departs (leaveNow .die c s) s ∧ LeavesDie c (leaveNow .die c s) s := by
  have hdep := (startDown_die_departs hc (cueOut .die c s)).trans (cueOut_departs .die c s)
  rw [leaveNow_plain hp hw hc]
  refine ⟨hdep, ?_, ?_⟩
  · rw [startDown_die hc]
    exact (sendCues_links c _ _).2
  · rw [hdep]
    exact ⟨rfl, rfl, rfl⟩

/-! ## Releasing a held cue (R131 to R133) -/

theorem rcBefore_frame (off : Nat) (old : W32) (s : State) : rcBefore off old s = { s with cyc := (rcBefore off old s).cyc } := by
  unfold rcBefore
  split <;> rfl

/-- The state in which a held cue is let go: it is no longer held, and the power state is `pw`. -/
def letGo (h : HeldCue) (pw : Power) (cy : Cycle) (s : State) : State :=
  { s with pwr := pw, cyc := cy, tree := { s.tree with held := s.tree.held.filter fun g => g != h } }

theorem letGo_plainSlot {h : HeldCue} {pw : Power} {cy : Cycle} {s : State} {slot p : Nat} (hp : PlainSlot s slot p) :
    PlainSlot (letGo h pw cy s) slot p := hp

/-- A cue held at the die root, of a slot that ends there. -/
def HeldAtDie (s : State) (h : HeldCue) : Prop := h.at_ = .die ∧ h.cue.counted = false ∧ spanRooted s h.cue.slot = false

/-- A held cue let go leaves its die root. -/
theorem release_letGo_die {h : HeldCue} {p : Nat} {s : State} (hp : PlainSlot s h.cue.slot p) (hd : HeldAtDie s h)
    (pw : Power) (cy : Cycle) :
    (release h.at_ h.cue (letGo h pw cy s)).pwr = pw
      ∧ (release h.at_ h.cue (letGo h pw cy s)).tree.held = s.tree.held.filter (fun g => g != h)
      ∧ LeavesDie h.cue (release h.at_ h.cue (letGo h pw cy s)) s := by
  obtain ⟨hat, hcount, hroot⟩ := hd
  have hroot' : spanRooted (letGo h pw cy s) h.cue.slot = false := hroot
  obtain ⟨hdep, hleaves⟩ := leaveNow_die (letGo_plainSlot (h := h) (pw := pw) (cy := cy) hp) (.inl hroot') hcount
  have hrel : release h.at_ h.cue (letGo h pw cy s) = leaveNow .die h.cue (letGo h pw cy s) := by simp [release, hat, hroot']
  rw [hrel]
  refine ⟨?_, ?_, hleaves⟩ <;> rw [hdep] <;> rfl

/-! ## The cue of a span (R137, R190, R194) -/

/-- Packets on the child ports of a span join the queue for the ports, and change nothing else. -/
theorem sendSpans_spec (slot : Nat) (pkt : SpanPkt) (l : List Nat) (s : State) :
    let t := l.foldl (fun a port => sendSpan port slot a.clk.tclk pkt a) s
    t = { s with fab := { s.fab with reinQ := t.fab.reinQ } } ∧ s.fab.reinQ ⊆ t.fab.reinQ
      ∧ ∀ port ∈ l, ∃ o ∈ t.fab.reinQ, o.port = port ∧ o.pkt = pkt := by
  induction l generalizing s with
  | nil => exact ⟨rfl, fun _ h => h, by simp⟩
  | cons port l ih =>
    obtain ⟨hframe, hkeep, hsent⟩ := ih (sendSpan port slot s.clk.tclk pkt s)
    refine ⟨hframe, fun _ h => hkeep (List.mem_append_left _ h), fun q hq => ?_⟩
    rcases List.mem_cons.mp hq with rfl | hq
    · exact ⟨_, hkeep (List.mem_append_right _ (List.mem_singleton_self _)), rfl, rfl⟩
    · exact hsent q hq

/-- On the root die of a whole span a cue that may leave is scheduled for its T, and goes to the other dies. -/
theorem release_span {at_ : Place} {c : Cue} {s : State} (hroot : spanRooted s c.slot = true)
    (hwhole : (spanState s (spanOf s c.slot)).broken = false) :
    (release at_ c s).fab.sched = s.fab.sched ++ [{ slot := c.slot, t := releaseT s c.slot c, cue := c }]
      ∧ (∀ port ∈ spanDown s (spanOf s c.slot), ∃ o ∈ (release at_ c s).fab.reinQ,
          o.port = port ∧ o.pkt = cuePkt s c (releaseT s c.slot c))
      ∧ release at_ c s = { s with fab := (release at_ c s).fab } := by
  obtain ⟨hframe, -, hsent⟩ := sendSpans_spec c.slot (cuePkt s c (releaseT s c.slot c)) (spanDown s (spanOf s c.slot)) s
  have hrel : release at_ c s
      = schedCue (releaseT s c.slot c) c (sendKids c.slot (cuePkt s c (releaseT s c.slot c)) s) := by
    simp [release, hroot, hwhole]
  rw [hrel]
  refine ⟨?_, hsent, ?_⟩
  · unfold schedCue sendKids
    rw [hframe]
  · unfold schedCue sendKids
    rw [hframe]

/-! ## The three releases by their cases -/

/-- Has the cue whose turn is next leave in this TCLK. -/
def turnNow (s : State) : State :=
  match nextTurn s with
  | some h => afterT 0 (.spacedRelease h.cue.slot) s
  | none => s

theorem turnNow_eq (s : State) : turnNow s = { s with agenda := (turnNow s).agenda } := by
  unfold turnNow
  split <;> rfl

section held
variable {s : State} {slot : Nat} {h : HeldCue}

/-- A hold that has reached its limit is counted. -/
def expiredPwr (s : State) : Power := { s.pwr with expired := s.pwr.expired + 1 }

/-- A placed cue that leaves starts the spacing anew (R132). -/
def spacedFrom (s : State) (h : HeldCue) (pw : Power) : Power :=
  { pw with lastOut := if h.placed then some s.clk.tclk else s.pwr.lastOut }

theorem holdExpiry_none (hn : s.tree.held = []) : holdExpiry slot s = s := by simp [holdExpiry, hn]

theorem holdExpiry_covered (hf : s.tree.held.find? (fun g => g.cue.slot == slot && holdOver s g) = some h)
    (hc : covered s (heldPart s h) = true) :
    holdExpiry slot s = setDue h { s with pwr := expiredPwr s, cyc := (rcBefore 0x7010 s.pwr.expired s).cyc } := by
  simp only [holdExpiry, hf, hc, if_true]
  rw [rcBefore_frame]
  rfl

theorem holdExpiry_leaves (hf : s.tree.held.find? (fun g => g.cue.slot == slot && holdOver s g) = some h)
    (hc : covered s (heldPart s h) = false) :
    holdExpiry slot s
      = release h.at_ h.cue (letGo h (spacedFrom s h (expiredPwr s)) (rcBefore 0x7010 s.pwr.expired s).cyc s) := by
  simp only [holdExpiry, hf, hc]
  rw [rcBefore_frame]
  unfold spacedFrom
  cases h.placed <;> rfl

theorem spacedRelease_none (hn : s.tree.held = []) : spacedRelease slot s = s := by
  have hturn : nextTurn s = none := by
    unfold nextTurn
    split <;> simp [hn, firstHeld]
  simp [spacedRelease, dueTurn, hn, hturn]

/-- A cue that became due under a curtain goes before any placed one. -/
theorem spacedRelease_due (hd : dueTurn s slot = some h) :
    spacedRelease slot s = release h.at_ h.cue
      (letGo h { s.pwr with lastDue := Tbl.set 0 (heldPart s h) (s.clk.tclk + 1) s.pwr.lastDue } s.cyc s) := by
  simp only [spacedRelease, hd]
  rfl

theorem spacedRelease_turn (hs : h.cue.slot = slot) (hd : dueTurn s slot = none) (hn : nextTurn s = some h)
    (hc : covered s (heldPart s h) = false) :
    spacedRelease slot s = release h.at_ h.cue (letGo h { s.pwr with lastOut := some s.clk.tclk } s.cyc s) := by
  simp [spacedRelease, hd, hn, hs, hc, letGo, dropHeld]

/-- A placed cue whose turn comes under a curtain is passed over: the next one's turn comes in the same TCLK. -/
theorem spacedRelease_covered (hs : h.cue.slot = slot) (hd : dueTurn s slot = none) (hn : nextTurn s = some h)
    (hc : covered s (heldPart s h) = true) :
    spacedRelease slot s = { setDue h s with agenda := (spacedRelease slot s).agenda } := by
  have heq : spacedRelease slot s = turnNow (setDue h s) := by
    simp only [spacedRelease, hd, hn, hs, hc, ne_eq, not_true_eq_false, if_false, if_true]
    rfl
  rw [heq]
  exact turnNow_eq (setDue h s)

end held

section sched
variable {s : State} {slot : Nat} {x : Sched}

theorem scheduledRelease_none (hn : s.fab.sched = []) : scheduledRelease slot s = s := by simp [scheduledRelease, hn]

theorem scheduledRelease_waits {p : Nat} (hp : slotOwner s slot = some p)
    (hf : s.fab.sched.find? (fun y => y.slot == slot && edgeReached s y.t) = some x)
    (hw : s.house.unstable = true ∨ (x.cue.status = stReplay ∧ inUndo s p = true)) : scheduledRelease slot s = s := by
  simp only [scheduledRelease, hf, hp]
  refine if_pos ?_
  simpa using hw

theorem scheduledRelease_goes (hf : s.fab.sched.find? (fun y => y.slot == slot && edgeReached s y.t) = some x)
    (hu : s.house.unstable = false) (hr : x.cue.status ≠ stReplay) : scheduledRelease slot s = releaseSched x s := by
  simp [scheduledRelease, hf, hu, hr]

/-- What the log of a late cue changes. -/
theorem logLate_frame (slot : Nat) (c : Cue) (late : Nat) (s : State) :
    logLate slot c late s = { s with
      fab := { s.fab with late := s.fab.late + 1, latemax := (logLate slot c late s).fab.latemax },
      cyc := (logLate slot c late s).cyc, agenda := (logLate slot c late s).agenda, free := (logLate slot c late s).free } := by
  unfold logLate
  rw [rcBefore_frame 0x6010, rcBefore_frame 0x600C]
  rfl

/-- The state in which a scheduled cue goes: off the schedule, logged where it is late. -/
def takenOff (x : Sched) (s : State) : State :=
  let s1 := { s with fab := { s.fab with sched := s.fab.sched.filter fun y => y != x } }
  if lateness s x.t = 0 ∧ !inUnstable s x.t then s1
  else logLate x.slot { x.cue with profile := pickProfile s x.slot } (lateness s x.t) s1

theorem releaseSched_eq (x : Sched) (s : State) :
    releaseSched x s = leaveNow .die { x.cue with profile := pickProfile s x.slot } (takenOff x s) := rfl

theorem takenOff_frame (x : Sched) (s : State) : takenOff x s = { s with
    fab := { s.fab with
      sched := s.fab.sched.filter (fun y => y != x), latemax := (takenOff x s).fab.latemax,
      late := if lateness s x.t = 0 ∧ inUnstable s x.t = false then s.fab.late else s.fab.late + 1 },
    cyc := (takenOff x s).cyc, agenda := (takenOff x s).agenda, free := (takenOff x s).free } := by
  simp only [takenOff, Bool.not_eq_true']
  split
  · rfl
  · rw [logLate_frame]

/-- A scheduled cue leaves the die root on its edge. -/
theorem releaseSched_leaves {p : Nat} (hp : PlainSlot s x.cue.slot p) (hw : NoneWaits s x.cue.slot) (hc : x.cue.counted = false) :
    (releaseSched x s).fab.sched = s.fab.sched.filter (fun y => y != x)
      ∧ LeavesDie { x.cue with profile := pickProfile s x.slot } (releaseSched x s) s
      ∧ (releaseSched x s).fab.late
          = (if lateness s x.t = 0 ∧ inUnstable s x.t = false then s.fab.late else s.fab.late + 1) := by
  have hframe := takenOff_frame x s
  rw [releaseSched_eq]
  generalize takenOff x s = u at hframe ⊢
  have hpu : PlainSlot u x.cue.slot p := by rw [hframe]; exact hp
  have hwu : NoneWaits u x.cue.slot := by rw [hframe]; exact hw
  obtain ⟨hdep, hsent, hobjs, hstirs, hforce⟩ :=
    leaveNow_die (c := { x.cue with profile := pickProfile s x.slot }) hpu hwu hc
  refine ⟨?_, ⟨hsent, hobjs.trans ?_, hstirs.trans ?_, hforce.trans ?_⟩, ?_⟩
  · rw [hdep, hframe]
  · rw [hframe]
  · rw [hframe]
  · rw [hframe]
  · rw [hdep, hframe]

end sched

/-! ## The obligation -/

/-- Settles O28: each release lets its cue go from the state its counts leave, or keeps it. -/
theorem heldCuesLeaveInTheirTurn : Obligations.HeldCuesLeaveInTheirTurn := by
  intro s slot p h x hslot hp
  refine ⟨?_, ?_, ?_, ?_, ?_, ?_, ?_, ?_, ?_⟩
  · rintro ⟨-, hf⟩ hc
    refine completes_answer.mpr ⟨decide_eq_true hslot, ?_⟩
    rw [holdExpiry_covered hf hc]
    exact ⟨rfl, rfl, rfl⟩
  · rintro ⟨rfl, hf⟩ hc hd
    refine completes_answer.mpr ⟨decide_eq_true hslot, ?_⟩
    rw [holdExpiry_leaves hf hc]
    exact release_letGo_die hp hd _ _
  · rintro ⟨rfl, hf⟩ hc hroot hwhole
    refine completes_answer.mpr ⟨decide_eq_true hslot, ?_⟩
    rw [holdExpiry_leaves hf hc]
    obtain ⟨hsched, hsent, hframe⟩ := release_span (at_ := h.at_) (c := h.cue)
      (s := letGo h (spacedFrom s h (expiredPwr s)) (rcBefore 0x7010 s.pwr.expired s).cyc s) hroot hwhole
    refine ⟨?_, ?_, hsched, hsent, ?_⟩ <;> rw [hframe] <;> rfl
  · rintro ⟨rfl, hdue, hturn⟩ hc hd
    refine completes_answer.mpr ⟨decide_eq_true hslot, ?_⟩
    rw [spacedRelease_turn rfl hdue hturn hc]
    exact release_letGo_die hp hd _ _
  · rintro ⟨hs, hdue, hturn⟩ hc
    refine completes_answer.mpr ⟨decide_eq_true hslot, ?_⟩
    rw [spacedRelease_covered hs hdue hturn hc]
    exact ⟨rfl, rfl⟩
  · rintro ⟨rfl, hdue⟩ hd
    refine completes_answer.mpr ⟨decide_eq_true hslot, ?_⟩
    rw [spacedRelease_due hdue]
    exact release_letGo_die hp hd _ _
  · rintro ⟨rfl, hf⟩ hu hr hc hw
    refine completes_answer.mpr ⟨decide_eq_true hslot, ?_⟩
    obtain ⟨hslot', -⟩ : x.slot = x.cue.slot ∧ edgeReached s x.t = true := by simpa using List.find?_some hf
    rw [scheduledRelease_goes hf hu hr, ← hslot']
    exact releaseSched_leaves hp (.inr hw) hc
  · rintro ⟨-, hf⟩ hw
    exact answer_next.mpr ⟨decide_eq_true hslot, scheduledRelease_waits hp.1 hf hw⟩
  · intro hheld hsched
    exact ⟨answer_next.mpr ⟨decide_eq_true hslot, holdExpiry_none hheld⟩,
      answer_next.mpr ⟨decide_eq_true hslot, spacedRelease_none hheld⟩,
      answer_next.mpr ⟨decide_eq_true hslot, scheduledRelease_none hsched⟩⟩

end Sys2Proof.Machine

/-! PROOFS. The budget state adopted (R132, R316). -/

namespace Sys2Proof.Machine

/-- What a change of budget may touch: the power state, the held cues, and what is due. -/
def BudgetFrame (t s : State) : Prop :=
  t = { s with pwr := t.pwr, tree := { s.tree with held := t.tree.held }, agenda := t.agenda, free := t.free }

theorem BudgetFrame.trans {u t s : State} (h : BudgetFrame u t) (g : BudgetFrame t s) : BudgetFrame u s := by
  unfold BudgetFrame at *
  rw [h, g]

/-- The budget state that a presented value stands for. -/
def adopted (b : BitVec 2) : BitVec 2 := if b = 3#2 then 2#2 else b

/-- The state in which a budget is adopted, and a reserved value reported, before any held cue is placed. -/
def budgetSet (b : BitVec 2) (s : State) : State :=
  let s0 := if b = 3#2 then report 0x06 6 0 none [3] s else s
  { s0 with pwr := { s0.pwr with budget := adopted b } }

theorem budgetSet_frame (b : BitVec 2) (s : State) : BudgetFrame (budgetSet b s) s := by
  unfold budgetSet
  split <;> rfl

theorem budgetSet_of_ne {b : BitVec 2} {s : State} (h : b ≠ 3#2) :
    budgetSet b s = { s with pwr := { s.pwr with budget := b } } := by simp [budgetSet, adopted, h]

/-- The state in which the held cues are placed. -/
def placeHeld (s : State) : State :=
  { s with tree := { s.tree with held := s.tree.held.map fun h => { h with placed := true } },
           pwr := { s.pwr with lastOut := if s.tree.held.all (fun h => !h.placed) then none else s.pwr.lastOut } }

theorem placeHeld_placed (s : State) : ∀ h ∈ (placeHeld s).tree.held, h.placed = true := by
  intro h hh
  obtain ⟨g, -, rfl⟩ := List.mem_map.mp hh
  rfl

/-- A change of budget: adopted, and where it leaves RED every held cue is placed. -/
theorem budgetChange_eq (b : BitVec 2) (s : State) :
    budgetChange b s = if s.pwr.budget = 2#2 ∧ adopted b ≠ 2#2 then turnNow (placeHeld (budgetSet b s)) else budgetSet b s := by
  by_cases hb : b = 3#2
  · subst hb
    rfl
  · simp only [budgetChange, budgetSet, adopted, hb, if_false]
    rfl

/-! ## The obligation -/

/-- Settles O29: the budget is adopted first; leaving RED then places what is held. -/
theorem budgetChangesAreAdopted : Obligations.BudgetChangesAreAdopted := by
  intro s b
  refine ⟨fun hb hred => congrArg Host.Outcome.next (?_ : budgetChange b s = _), completes_next.mpr ?_⟩
  · rw [budgetChange_eq, if_neg, budgetSet_of_ne hb]
    rintro ⟨hs, hn⟩
    have hb2 : b = 2#2 := hred.resolve_left fun h => h hs
    exact hn (by simp [adopted, hb2])
  · rw [budgetChange_eq]
    split
    · rw [turnNow_eq]
      exact ⟨rfl, fun _ _ => placeHeld_placed _, BudgetFrame.trans (t := budgetSet b s) rfl (budgetSet_frame b s)⟩
    · next hstay => exact ⟨rfl, fun hs hn => absurd ⟨hs, hn⟩ hstay, budgetSet_frame b s⟩

end Sys2Proof.Machine

/-! PROOFS. The die-wide request (R135, R136, R234). -/

namespace Sys2Proof.Machine

theorem dwKeys_nothing {s : State} (h : s.staged = []) : dwKeys s = [] := by simp [dwKeys, stagedKeys, h]

theorem ackedKeys_nothing {s : State} (h : s.staged = []) : ackedKeys s = [] := by simp [ackedKeys, h]

theorem dwChanges_nothing {s : State} (h : s.staged = []) : dwChanges s = [] := by simp [dwChanges, dwKeys_nothing h]

theorem applyGait_nothing {s : State} (h : s.staged = []) (p : Nat) : applyGait p s = s := by
  simp [applyGait, ackedKeys_nothing h]

theorem applyTrace_nothing {s : State} (h : s.staged = []) : applyTrace s = s := by simp [applyTrace, ackedKeys_nothing h]

/-- With nothing staged the die-wide apply point takes the recipe alone. -/
theorem dieWideApply_nothing {s : State} (h : s.staged = []) :
    dieWideApply s = { applyRecipe s with su := { (applyRecipe s).su with dwPending := false, dwWait := 0 } } := by
  have hgait : ∀ l : List Nat, l.foldl (fun a p => applyGait p a) s = s := fun l => by
    induction l with
    | nil => rfl
    | cons p l ih => rw [List.foldl_cons, applyGait_nothing h, ih]
  simp only [dieWideApply, dwChanges_nothing h, List.foldl_nil, hgait, ackedKeys_nothing h, List.filter_nil, applyTrace_nothing h]

theorem applyRecipe_some {s : State} {r : Recipe} (h : s.flt.rcpStaged = some r) :
    applyRecipe s = { s with flt := { s.flt with
      seedpol := r.seedpol.getD s.flt.seedpol, floor := r.floor.getD s.flt.floor, target := r.target.getD s.flt.target,
      tfrac := r.tfrac.getD s.flt.tfrac, rcpStaged := none } } := by simp only [applyRecipe, h]

theorem unstages_frame (l : List Nat) (s : State) :
    l.foldl (fun a k => unstage k a) s = { s with staged := (l.foldl (fun a k => unstage k a) s).staged } := by
  induction l generalizing s with
  | nil => rfl
  | cons k l ih =>
    rw [List.foldl_cons, ih]
    rfl

/-- The words a request may hold are staged words. -/
theorem dwKeys_single {s : State} {k : Nat} {g : Staged} (h : s.staged = [(k, g)]) (hk : k ∈ dwKeys s) : dwKeys s = [k] := by
  have hkeys : stagedKeys s = [k] := by simp [stagedKeys, h]
  unfold dwKeys at hk ⊢
  rw [hkeys] at hk ⊢
  exact List.filter_eq_self.mpr fun j hj => List.mem_singleton.mp hj ▸ (List.mem_filter.mp hk).2

/-- CANCEL ends the request and drops the recipe. -/
theorem cancelDw_frame (s : State) : cancelDw s = { s with
    staged := (cancelDw s).staged, su := { s.su with dwPending := false, dwWait := 0 }, flt := { s.flt with rcpStaged := none } } := by
  unfold cancelDw
  rw [unstages_frame]

theorem cancelDw_single {s : State} {k : Nat} {g : Staged} (h : s.staged = [(k, g)]) (hk : k ∈ dwKeys s) :
    (cancelDw s).staged = [] := by
  simp [cancelDw, dwKeys_single h hk, unstage, h, Tbl.erase]

theorem cancelDw_none {s : State} (h : dwKeys s = []) : (cancelDw s).staged = s.staged := by simp [cancelDw, h]

/-! ## The obligation -/

/-- Settles O33: the apply point with nothing staged takes the recipe alone; CANCEL discards the request's own words. -/
theorem dieWideRequestAppliesOrIsCancelled : Obligations.DieWideRequestAppliesOrIsCancelled := by
  intro s k g r
  refine ⟨?_, ?_, ?_, ?_⟩
  · intro hready
    exact congrArg _ (if_neg (by simp [hready]))
  · intro hready hstaged hrcp
    refine congrArg _ ((if_pos hready).trans ?_)
    rw [dieWideApply_nothing hstaged, applyRecipe_some hrcp]
  · intro hreset
    exact congrArg _ (regWrite_reset hreset _)
  · intro hlive
    refine completes_next.mpr ?_
    rw [regWrite_live hlive]
    exact ⟨cancelDw_frame s, cancelDw_single, cancelDw_none⟩

end Sys2Proof.Machine

/-! PROOFS. Home and tally requests on their way up the tree, and the merging of signals. -/

namespace Sys2Proof.Machine

/-! ## Without an open window (R145, R158, R178) -/

section rise
variable {s : State} {r : HomeReq}

/-- Where no open window for the semaphore stands in its way a home request goes on at once. -/
theorem homeThrough_free {at_ : Place} (h : r.tok = true ∨ findWindow s at_ r.obj = none) :
    homeThrough at_ r s = homeUp at_ r s.clk.tclk s := by
  obtain h | h := h <;> simp [homeThrough, h]

theorem upArrive_barn_home {b : Nat} (ho : outOfService s (.barn b) = false) :
    upArrive (.barn b) (.home r) s = homeThrough (.barn b) r s := by
  simp [upArrive, ho]

theorem upArrive_barn_tally {b : Nat} (y : TallyReq) (ho : outOfService s (.barn b) = false) :
    upArrive (.barn b) (.tally y) s = offerUp (.barn b) (prioTally y.tally y.src) s.clk.tclk 1
      (.partialArrival (.half (halfOf b)) (.tally y)) s := by
  simp [upArrive, ho, tallyThrough, Place.parent]

/-! ## Into ECLK (R33, R140) -/

theorem le_foldl_port (l : List Crossing) (port d : Nat) :
    d ≤ l.foldl (fun a c => if homePort c.req.src = port then max a c.due else a) d := by
  induction l generalizing d with
  | nil => exact Nat.le_refl d
  | cons c l ih =>
    refine Nat.le_trans ?_ (ih _)
    dsimp only
    split
    · exact Nat.le_max_left _ _
    · exact Nat.le_refl d

/-- A crossing request is usable at the second ECLK edge at the earliest, and nothing but its entry is asked for. -/
theorem homeCross_spec (r : HomeReq) (s : State) : ∃ d, s.clk.eclk + 2 ≤ d ∧
    homeCross r s = { s with
      home := { s.home with crossing := s.home.crossing ++ [{ due := d, req := r, entry := none }] },
      agenda := s.agenda ++ [{ clk := .eclk, due := d, ev := .homeReqEntry }], free := s.free + 1 } :=
  ⟨_, Nat.le_trans (Nat.le_add_right _ _) (le_foldl_port s.home.crossing (homePort r.src) (crossDue s .tclk .eclk 2 3).1), rfl⟩

end rise

/-- Settles O10: a request that no window holds takes the link of its place; at the die root it crosses. -/
theorem requestsRiseToTheirUnits : Obligations.RequestsRiseToTheirUnits := by
  intro s r y b h hb hh hobj hpart htally hypart ho
  have hhome : upPktOk (.home r) = true := by simp [upPktOk, hobj, hpart]
  have htly : upPktOk (.tally y) = true := by simp [upPktOk, htally, hypart]
  have hbarn : (Place.barn b).ok = true := decide_eq_true hb
  have hhalf : (Place.half h).ok = true := decide_eq_true hh
  refine ⟨fun hw => answer_next.mpr ⟨by rw [hbarn, hhome]; rfl, ?_⟩, answer_next.mpr ⟨by rw [hbarn, htly]; rfl, ?_⟩,
    fun hw => answer_next.mpr ⟨by rw [hhalf, hhome]; rfl, ?_⟩, completes_answer.mpr ⟨hhome, ?_⟩⟩
  · rw [upArrive_barn_home ho, homeThrough_free hw]
    rfl
  · rw [upArrive_barn_tally y ho]
    rfl
  · exact homeThrough_free hw
  · obtain ⟨d, hd, hcross⟩ := homeCross_spec r s
    rw [show upArrive .die (.home r) s = homeCross r s from rfl, hcross]
    exact ⟨⟨_, List.mem_append_right _ (List.mem_singleton_self _), hd, rfl⟩, rfl⟩

/-! ## Merge windows (R158) -/

section merge
variable {s : State} {b : Nat} {r : HomeReq} {m : MergeRec}

theorem combineSignal_joins (h : findWindow s (.barn b) r.obj = some m) :
    combineSignal (.barn b) r s = { s with tree := { s.tree with merges := s.tree.merges.map fun x =>
      if x.node == m.node && x.idx == m.idx then
        { m with sum := m.sum + signalCount r, kids := m.kids ++ [(r.src, r.rid, r.merged, r.mrec)] }
      else x } } := by
  simp only [combineSignal, h]

theorem combineSignal_opens {i : Nat} (h : findWindow s (.barn b) r.obj = none) (hi : freeRecord s (.barn b) = some i) :
    combineSignal (.barn b) r s = afterT 4 (.mergeWindowClose (.barn b) i) { s with tree := { s.tree with merges := s.tree.merges ++
      [{ node := 126 + b, idx := i, sem := r.obj, sum := signalCount r, kids := [(r.src, r.rid, r.merged, r.mrec)], first := r,
         sent := false }] } } := by
  simp only [combineSignal, h, hi]
  rfl

theorem combineSignal_full (h : findWindow s (.barn b) r.obj = none) (hi : freeRecord s (.barn b) = none) :
    combineSignal (.barn b) r s = homeUp (.barn b) r s.clk.tclk s := by
  simp only [combineSignal, h, hi]

theorem execSignalCombining_barn (hb : b < 18) (hobj : r.obj < 8192) (ho : outOfService s (.barn b) = false) :
    execSignalCombining (.barn b) r s = .next (combineSignal (.barn b) r s) := by
  simp [execSignalCombining, answer, Place.ok, hb, hobj, ho]

/-- The merge records once a window has sent what it took in: its own is free after one SIGNAL alone, else kept for the answer. -/
def recordsAfter (s : State) (m : MergeRec) : List MergeRec :=
  let others := s.tree.merges.filter fun x => !(x.node == m.node && x.idx == m.idx)
  if m.kids.length ≤ 1 then others else others ++ [{ m with sent := true }]

/-- What a barn's window sends: its one SIGNAL, or one of the sum. -/
def windowSends (m : MergeRec) : HomeReq :=
  if m.kids.length ≤ 1 then m.first
  else { mergeSem m.first m.sum with
    merged := true, mlevel := true, mrec := m.idx, src := m.kids.foldl (fun a k => min a k.1) m.first.src, rid := 0, nohold := true }

theorem closeWindow_barn (b : Nat) (m : MergeRec) (s : State) : closeWindow (.barn b) m s =
    homeUp (.barn b) (windowSends m) s.clk.tclk { unschedule (fun e => e == .mergeWindowClose (.barn b) m.idx) s with
      tree := { s.tree with merges := recordsAfter s m } } := by
  unfold closeWindow windowSends recordsAfter
  split <;> rfl

theorem execMergeWindowClose_barn {i : Nat} (hb : b < 18)
    (h : s.tree.merges.find? (fun x => x.node == 126 + b && x.idx == i && !x.sent) = some m) :
    execMergeWindowClose (.barn b) i s = .next (closeWindow (.barn b) m s) := by
  simp [execMergeWindowClose, answer, Place.ok, Place.node, hb, h]

end merge

/-- Settles O11: a SIGNAL joins, opens or passes by a window; a window's end sends what it took in. -/
theorem signalsMergeInAWindow : Obligations.SignalsMergeInAWindow := by
  intro s b i r m hb hobj ho
  have hsignal := execSignalCombining_barn hb hobj ho
  refine ⟨fun hw hi => ?_, fun hw => ?_, fun hw hi => ?_, fun hm => ⟨_, execMergeWindowClose_barn hb hm, ?_⟩⟩
  · exact hsignal.trans (congrArg _ (combineSignal_opens hw hi))
  · exact hsignal.trans (congrArg _ (combineSignal_joins hw))
  · exact hsignal.trans (congrArg _ (combineSignal_full hw hi))
  · rw [closeWindow_barn]
    exact ⟨rfl, rfl⟩

end Sys2Proof.Machine

/-! PROOFS. The operations of a tile's request at its home: one that answers by a response, one that queues. -/

namespace Sys2Proof.Machine

/-! ## A row at the unit: the effect, then the look whether a pass follows -/

/-- The hypotheses under which a request of a tile is executed at its home. -/
structure AtHome (s : State) (r : HomeReq) : Prop where
  tile : r.src < nStirrup
  ok : reqOk r = true
  live : (part s r.part).state ≠ .resetting

/-- A home operation that leaves the objects `v`. -/
def Leaves (t s : State) (v : Tbl Obj) : Prop := HomeFrame t s ∧ t.objs = v

/-- A home operation that leaves the objects `v` and answers its request. -/
def Responds (t s : State) (r : HomeReq) (v : Tbl Obj) (status : BitVec 5) (pay : W128) : Prop :=
  t.objs = v ∧ Answers t r status pay ∧ HomeFrame t s

theorem HomeQuiet.leaves {u t s : State} {v : Tbl Obj} (h : HomeQuiet u t) (g : Leaves t s v) : Leaves u s v :=
  ⟨h.1.trans g.1, h.2.trans g.2⟩

theorem Leaves.refl (s : State) : Leaves s s s.objs := ⟨rfl, rfl⟩

theorem HomeGrows.responds {u t s : State} {r : HomeReq} {v : Tbl Obj} {status : BitVec 5} {pay : W128} (h : HomeGrows u t)
    (g : Responds t s r v status pay) : Responds u s r v status pay :=
  ⟨h.1.2.trans g.1, h.answers g.2.1, h.1.1.trans g.2.2⟩

theorem Leaves.responds {t s : State} {r : HomeReq} {v : Tbl Obj} (h : Leaves t s v) (hr : r.src < nStirrup) (status : BitVec 5)
    (pay : W128) : Responds (respond r status pay false t) s r v status pay := by
  obtain ⟨hquiet, hans⟩ := respond_tile r status pay t hr
  exact ⟨hquiet.2.trans h.2, hans, hquiet.1.trans h.1⟩

theorem afterOp_grows (r : HomeReq) (s0 s : State) : HomeGrows (afterOp r s0 s) s :=
  ⟨afterOp_quiet r s0 s, fun _ h => afterOp_mem r s0 s _ h⟩

section rows
variable {s t : State} {r : HomeReq} {op : Nat} {eff : HomeReq → State → State} {v : Tbl Obj} {status : BitVec 5} {pay : W128}

theorem AtHome.row (h : AtHome s r) (hop : r.op.toNat = op) : homeRow op eff (.unit r) s = .next (afterOp r s (eff r s)) := by
  have ha : homeAborted s r = false := by simp [homeAborted, h.live]
  exact homeRow_unit_next.mpr ⟨hop, h.ok, by rw [ha, isNull_tile r h.tile]; rfl⟩

theorem AtHome.row_leaves (h : AtHome s r) (hop : r.op.toNat = op) (he : Leaves (eff r s) s v) :
    Completes (homeRow op eff (.unit r) s) fun u => u.objs = v ∧ HomeFrame u s := by
  obtain ⟨hframe, hobjs⟩ := (afterOp_quiet r s _).leaves he
  exact ⟨_, h.row hop, hobjs, hframe⟩

theorem AtHome.row_responds (h : AtHome s r) (hop : r.op.toNat = op) (he : eff r s = respond r status pay false t)
    (ht : Leaves t s v) : Completes (homeRow op eff (.unit r) s) fun u => Responds u s r v status pay :=
  ⟨_, h.row hop, (afterOp_grows r s _).responds (he ▸ ht.responds h.tile status pay)⟩

/-- An executed operation is counted besides. -/
theorem AtHome.row_done (h : AtHome s r) (hop : r.op.toNat = op) (he : eff r s = done r status pay t)
    (ht : Leaves t s v) : Completes (homeRow op eff (.unit r) s) fun u => Responds u s r v status pay :=
  h.row_responds hop he ((countOp_quiet r t).leaves ht)

theorem AtHome.row_refused {cause : Nat} (h : AtHome s r) (hop : r.op.toNat = op) (he : eff r s = refuse r cause s) :
    Completes (homeRow op eff (.unit r) s) fun u => Responds u s r s.objs stRefused 0 :=
  h.row_responds hop he ((report_quiet _ _ _ _ _ _).leaves ((count_quiet _ _ _ _).leaves (.refl s)))

/-- While its partition is being reset a request ends in ABORTED (R163, R214). -/
theorem row_aborted (hr : r.src < nStirrup) (hok : reqOk r = true) (hp : (part s r.part).state = .resetting)
    (hop : r.op.toNat = op) : Completes (homeRow op eff (.unit r) s) fun u => Responds u s r s.objs stAborted 0 := by
  have hs : r.src ≠ srcSetup := Nat.ne_of_lt (Nat.lt_trans hr (by decide))
  have ha : homeAborted s r = true := by simp [homeAborted, hs, hp]
  exact ⟨_, homeRow_unit_next.mpr ⟨hop, hok, by rw [ha]; rfl⟩, (Leaves.refl s).responds hr stAborted 0⟩

end rows

/-! ## Semaphore values (R147, R148, R152, Table HOM-4) -/

/-- A value written after steps that leave every object. -/
theorem HomeQuiet.putVal_leaves {t s : State} (h : HomeQuiet t s) (r : HomeReq) (v : W32) :
    Leaves (putVal r v t) s (objsWith s r v) := by
  obtain ⟨hframe, hobjs⟩ := putVal_spec r v t
  refine ⟨hframe.trans h.1, hobjs.trans ?_⟩
  unfold objsWith
  rw [h.obj, h.2]

/-- A count rises by `n`, saturating; that it saturates is counted and told. -/
theorem addSat_leaves (r : HomeReq) (n : Nat) (s : State) :
    Leaves (addSat r n s) s (objsWith s r (BitVec.ofNat 32 (min ((obj s r.tok r.obj).val.toNat + n) 0xFFFF_FFFF))) := by
  simp only [addSat]
  split
  · exact ((report_quiet _ _ _ _ _ _).trans (count_quiet _ _ _ _)).putVal_leaves _ _
  · exact (HomeQuiet.refl s).putVal_leaves _ _

theorem tokPost_tagged {s : State} {r : HomeReq} (h : tagged s r.obj = true) : tokPost r s = refuse r causeKind s := by
  simp [tokPost, h]

theorem tokPost_untagged {s : State} {r : HomeReq} (h : tagged s r.obj = false) :
    tokPost r s = done r stOk (resWords (valAt (addSat r (pay0 r.pay).toNat s) r) 0 0) (addSat r (pay0 r.pay).toNat s) := by
  simp [tokPost, h]

/-- The value of an object in what an operation leaves. -/
theorem Leaves.valAt {t s : State} {v : Tbl Obj} (h : Leaves t s v) (r : HomeReq) :
    valAt t r = (Tbl.get Obj.none v (objIx r.tok r.obj)).val := by
  simp only [Machine.valAt, obj, h.2]

/-- Settles O15: each operation writes one value and answers; in reset each is aborted alike. -/
theorem semaphoreValuesFollowTheirOperation : Obligations.SemaphoreValuesFollowTheirOperation := by
  intro s r hr hok o a inReset rmw aborted sum
  have home : ¬ inReset → AtHome s r := fun h => ⟨hr, hok, h⟩
  have put := (HomeQuiet.refl s).putVal_leaves r
  refine ⟨fun hop h => ?_, fun hop h => ?_, fun hop h => ?_, fun hop h => ?_, fun hop h => ?_, fun hop h => ?_, fun hop h => ?_,
    fun hop h _ htag => ?_, fun hop h _ htag => ?_, fun h => ⟨fun hop => ?_, fun hop => ?_, fun hop => ?_⟩⟩
  · exact (home h).row_done (congrArg BitVec.toNat hop) rfl (.refl s)
  · exact (home h).row_done (congrArg BitVec.toNat hop) rfl (put _)
  · exact (home h).row_done (congrArg BitVec.toNat hop) rfl (put _)
  · exact (home h).row_done (congrArg BitVec.toNat hop) rfl (put _)
  · exact (home h).row_done (congrArg BitVec.toNat hop) rfl (put _)
  · exact (home h).row_done (congrArg BitVec.toNat hop) rfl (put _)
  · exact (home h).row_done (congrArg BitVec.toNat hop) rfl (addSat_leaves _ _ _)
  · exact (home h).row_refused (congrArg BitVec.toNat hop) (tokPost_tagged htag)
  · have hadd := addSat_leaves r a.toNat s
    obtain ⟨u, hu, hobjs, hans, hframe⟩ := (home h).row_done (congrArg BitVec.toNat hop) (tokPost_untagged htag) hadd
    rw [hadd.valAt] at hans
    exact ⟨u, hu, hobjs, hframe, hans⟩
  · exact row_aborted hr hok h (congrArg BitVec.toNat hop)
  · exact row_aborted hr hok h (congrArg BitVec.toNat hop)
  · exact row_aborted hr hok h (congrArg BitVec.toNat hop)

/-! ## Counts that need not be waited for (R147, R152, R154) -/

section counts
variable {s : State} {r : HomeReq}

theorem takes_now {n : W32} (hf : (obj s r.tok r.obj).fifo = []) (hn : n.toNat ≤ (obj s r.tok r.obj).val.toNat) :
    takes r n s = true := by
  simp [takes, valAt, hf, hn]

theorem takes_short {n : W32} (h : (obj s r.tok r.obj).fifo ≠ [] ∨ (obj s r.tok r.obj).val.toNat < n.toNat) :
    takes r n s = false := by
  obtain h | h := h <;> simp [takes, valAt, h, Nat.not_le.mpr]

/-- A count operation that need not wait: n = 0 reads the count, any other takes its own. -/
def noWait (r : HomeReq) (s : State) : State :=
  if pay0 r.pay = 0 then done r stOk (resWords (valAt s r) 0 0) s else takeNow r (pay0 r.pay) s

theorem semWait_noWait (h : pay0 r.pay = 0 ∨ takes r (pay0 r.pay) s = true) : semWait r s = noWait r s := by
  obtain h | h := h <;> simp [semWait, noWait, h]

theorem semTrywait_noWait (h : pay0 r.pay = 0 ∨ takes r (pay0 r.pay) s = true) : semTrywait r s = noWait r s := by
  obtain h | h := h <;> simp [semTrywait, noWait, h]

theorem semWaitTo_noWait (h : pay0 r.pay = 0 ∨ takes r (pay0 r.pay) s = true) : semWaitTo r s = noWait r s := by
  obtain h | h := h <;> simp [semWaitTo, noWait, h]

theorem tokAcquire_untagged (h : tagged s r.obj = false) : tokAcquire r s = semWait r s := by simp [tokAcquire, h]

theorem tokTryacquire_untagged (h : tagged s r.obj = false) : tokTryacquire r s = semTrywait r s := by simp [tokTryacquire, h]

/-- The five count operations of one request, each with its OP, its space and its outcome. -/
def countRows (r : HomeReq) (s : State) : List (BitVec 5 × Bool × Host.Outcome State Fault Refusal) :=
  [(0x01#5, false, exec (.wait (.unit r)) s), (0x02#5, false, exec (.trywait (.unit r)) s), (0x03#5, false, exec (.waitTo (.unit r)) s),
   (0x11#5, true, exec (.acquire (.unit r)) s), (0x12#5, true, exec (.tryacquire (.unit r)) s)]

/-- Where it need not wait each of them does the same. -/
theorem AtHome.countRows_noWait {t : State} {v : Tbl Obj} {pay : W128} (h : AtHome s r)
    (htag : r.tok = true → tagged s r.obj = false) (hw : pay0 r.pay = 0 ∨ takes r (pay0 r.pay) s = true)
    (hn : noWait r s = done r stOk pay t) (ht : Leaves t s v) :
    ∀ q ∈ countRows r s, r.op = q.1 → r.tok = q.2.1 → Completes q.2.2 fun u => Responds u s r v stOk pay := by
  have row : ∀ {k : BitVec 5} {op : Nat} {eff : HomeReq → State → State}, r.op = k → k.toNat = op → eff r s = noWait r s →
      Completes (homeRow op eff (.unit r) s) fun u => Responds u s r v stOk pay :=
    fun hop hk he => h.row_done (hop ▸ hk) (he.trans hn) ht
  simp only [countRows, List.forall_mem_cons]
  refine ⟨fun hop _ => ?_, fun hop _ => ?_, fun hop _ => ?_, fun hop htok => ?_, fun hop htok => ?_, fun _ hq => nomatch hq⟩
  · exact row hop rfl (semWait_noWait hw)
  · exact row hop rfl (semTrywait_noWait hw)
  · exact row hop rfl (semWaitTo_noWait hw)
  · exact row hop rfl ((tokAcquire_untagged (htag htok)).trans (semWait_noWait hw))
  · exact row hop rfl ((tokTryacquire_untagged (htag htok)).trans (semTrywait_noWait hw))

/-- A tile's result names a pool by its number. -/
theorem poolName_tile (h : r.src < nStirrup) (i : Nat) : poolName s r i = i :=
  if_neg (Nat.ne_of_lt (Nat.lt_trans h (by decide)))

theorem tokAcquirePri_takes (htag : tagged s r.obj = false) (hnext : tagged s (r.obj + 1) = false) (h0 : pay0 r.pay ≠ 0#32)
    (ht : takes r (pay0 r.pay) s = true) :
    tokAcquirePri r s = done r stOk (resWords (valAt s r - pay0 r.pay) (BitVec.ofNat 32 (poolName s r r.obj)) 0)
      (putVal r (valAt s r - pay0 r.pay) s) := by
  simp [tokAcquirePri, htag, hnext, h0, ht]

/-! ## Counts that cannot be taken (R154, R155) -/

theorem semTrywait_short (h0 : pay0 r.pay ≠ 0#32) (ht : takes r (pay0 r.pay) s = false) :
    semTrywait r s = done r stEmpty (resWords (valAt s r) 0 0) s := by
  simp [semTrywait, h0, ht]

theorem semWait_short (h0 : pay0 r.pay ≠ 0#32) (ht : takes r (pay0 r.pay) s = false) :
    semWait r s = (enqueue r (pay0 r.pay) none 0 s).1 := by
  simp [semWait, h0, ht]

/-- An entry joins the tail of an object's FIFO under the next sequence number. -/
theorem linkTail_leaves (tok : Bool) (i e : Nat) (s : State) : Leaves (linkTail tok i e s) s
    (Tbl.set Obj.none (objIx tok i)
      { obj s tok i with fifo := (obj s tok i).fifo ++ [(e, (obj s tok i).seq)], seq := (obj s tok i).seq + 1 } s.objs) :=
  (journalObj_quiet _ _ _ _ _).leaves ⟨rfl, rfl⟩

/-- The state in which a request without a deadline holds entry `e`, which no FIFO links yet. -/
def withEntry (r : HomeReq) (n : W32) (e : Nat) (s : State) : State :=
  setWaiter e { waiterNone with req := r, count := n, since := s.clk.eclk } (count r.part 6 1 (countOp r s))

theorem withEntry_quiet (r : HomeReq) (n : W32) (e : Nat) (s : State) : HomeQuiet (withEntry r n e s) s :=
  HomeQuiet.trans (t := count r.part 6 1 (countOp r s)) ⟨rfl, rfl⟩ ((count_quiet _ _ _ _).trans (countOp_quiet r s))

theorem enqueue_free {e : Nat} (n : W32) (hq : waitersOf s r.part < waiterQuota s r.part) (he : freeEntry s = some e) :
    (enqueue r n none 0 s).1 = linkTail r.tok r.obj e (withEntry r n e s) := by
  simp only [enqueue, hq, he, if_true]
  rfl

/-- A request that waits without a deadline takes a free entry, which joins the tail of its object's FIFO. -/
theorem enqueue_leaves {e : Nat} (n : W32) (hq : waitersOf s r.part < waiterQuota s r.part) (he : freeEntry s = some e) :
    Leaves (enqueue r n none 0 s).1 s (Tbl.set Obj.none (objIx r.tok r.obj)
      { obj s r.tok r.obj with fifo := (obj s r.tok r.obj).fifo ++ [(e, (obj s r.tok r.obj).seq)],
                               seq := (obj s r.tok r.obj).seq + 1 } s.objs) := by
  have hquiet := withEntry_quiet r n e s
  obtain ⟨hframe, hobjs⟩ := linkTail_leaves r.tok r.obj e (withEntry r n e s)
  rw [enqueue_free n hq he]
  refine ⟨hframe.trans hquiet.1, hobjs.trans ?_⟩
  rw [hquiet.obj, hquiet.2]

end counts

/-- Settles O16: what need not wait is one operation in five rows; what must wait joins the FIFO's tail. -/
theorem countsAreTakenOrWaitedFor : Obligations.CountsAreTakenOrWaitedFor := by
  intro s r e hr hok hlive htag o n outs short empty queued
  have home : AtHome s r := ⟨hr, hok, hlive⟩
  have waits : short → takes r n s = false := fun h => takes_short h.2
  refine ⟨fun q hq hop htok h0 hf hn => ?_, fun q hq hop htok h0 => ?_, fun hop htok hnext h0 hf hn => ?_, fun h hop _ => ?_,
    fun h hop htok => ?_, fun h hquota he => ⟨fun hop _ => ?_, fun hop htok => ?_⟩⟩
  · exact home.countRows_noWait htag (.inr (takes_now hf hn)) (if_neg h0) ((HomeQuiet.refl s).putVal_leaves r _) q hq hop htok
  · exact home.countRows_noWait htag (.inl h0) (if_pos h0) (.refl s) q hq hop htok
  · rw [← poolName_tile (s := s) hr r.obj]
    exact home.row_done (congrArg BitVec.toNat hop) (tokAcquirePri_takes (htag htok) hnext h0 (takes_now hf hn))
      ((HomeQuiet.refl s).putVal_leaves r _)
  · exact home.row_done (congrArg BitVec.toNat hop) (semTrywait_short h.1 (waits h)) (.refl s)
  · exact home.row_done (congrArg BitVec.toNat hop)
      ((tokTryacquire_untagged (htag htok)).trans (semTrywait_short h.1 (waits h))) (.refl s)
  · exact home.row_leaves (congrArg BitVec.toNat hop) (semWait_short h.1 (waits h) ▸ enqueue_leaves n hquota he)
  · exact home.row_leaves (congrArg BitVec.toNat hop)
      (((tokAcquire_untagged (htag htok)).trans (semWait_short h.1 (waits h))) ▸ enqueue_leaves n hquota he)

/-! ## Tagged pools (R153, Table HOM-5) -/

section tags
variable {s : State} {r : HomeReq}

/-- An object replaced after steps that leave every object. -/
theorem HomeQuiet.setObj_leaves {t s : State} (h : HomeQuiet t s) (tok : Bool) (i : Nat) (x : Obj) :
    Leaves (setObj tok i x t) s (Tbl.set Obj.none (objIx tok i) x s.objs) :=
  ⟨HomeFrame.trans (t := t) rfl h.1, by rw [setObj_objs, h.2]⟩

theorem tokPostTag_puts (htag : tagged s r.obj = true) (hc : (obj s true r.obj).val.toNat < tagCap s r.obj) :
    tokPostTag r s = done r stOk (resWords ((obj s true r.obj).val + 1) 0 0)
      (setObj true r.obj
        { obj s true r.obj with tags := (obj s true r.obj).tags ++ [pay0 r.pay], val := (obj s true r.obj).val + 1 }
        (journalObj r.part true r.obj [tagEntry r.part jtPUSH r.obj (pay0 r.pay)] s)) := by
  simp [tokPostTag, htag, Nat.not_le.mpr hc]

theorem tokAcquireTag_takes {tag : W32} {l : List W32} (htag : tagged s r.obj = true) (hf : (obj s true r.obj).fifo = [])
    (ht : (obj s true r.obj).tags = tag :: l) :
    tokAcquireTag r s = done r stOk (resWords tag ((obj s true r.obj).val - 1) 0)
      (setObj true r.obj { obj s true r.obj with tags := l, val := (obj s true r.obj).val - 1 }
        (journalObj r.part true r.obj [tagEntry r.part jtPOP r.obj tag] s)) := by
  simp [tokAcquireTag, htag, hf, ht]

theorem tokAcquireTag_empty (htag : tagged s r.obj = true) (ht : (obj s true r.obj).tags = [])
    (hp : bitB (pay1 r.pay) 0 = true) : tokAcquireTag r s = done r stEmpty 0 s := by
  simp [tokAcquireTag, htag, ht, hp]

theorem tokPostTag_untagged (htag : tagged s r.obj = false) : tokPostTag r s = refuse r causeKind s := by
  simp [tokPostTag, htag]

theorem tokAcquireTag_untagged (htag : tagged s r.obj = false) : tokAcquireTag r s = refuse r causeKind s := by
  simp [tokAcquireTag, htag]

end tags

/-- Settles O18: a tag enters at the tail and leaves from the head; LEVEL and the refusals leave the pool. -/
theorem taggedPoolsKeepTheirOrder : Obligations.TaggedPoolsKeepTheirOrder := by
  intro s r tag l hr htok hobj hpart hlive o put
  have home : AtHome s r := ⟨hr, by simp [reqOk, htok, hobj, hpart], hlive⟩
  refine ⟨fun hop htag hc => ?_, fun hop htag hf ht => ?_, fun hop htag ht hp => ?_, fun hop => ?_,
    fun htag => ⟨fun hop => ?_, fun hop => ?_⟩⟩
  · exact home.row_done (congrArg BitVec.toNat hop) (tokPostTag_puts htag hc) ((journalObj_quiet _ _ _ _ _).setObj_leaves _ _ _)
  · exact home.row_done (congrArg BitVec.toNat hop) (tokAcquireTag_takes htag hf ht)
      ((journalObj_quiet _ _ _ _ _).setObj_leaves _ _ _)
  · exact home.row_done (congrArg BitVec.toNat hop) (tokAcquireTag_empty htag ht hp) (.refl s)
  · obtain ⟨u, hu, hobjs, hans, hframe⟩ := home.row_done (eff := tokLevel) (congrArg BitVec.toNat hop) rfl (.refl s)
    exact ⟨u, hu, hobjs, hframe, hans⟩
  · exact home.row_refused (congrArg BitVec.toNat hop) (tokPostTag_untagged htag)
  · exact home.row_refused (congrArg BitVec.toNat hop) (tokAcquireTag_untagged htag)

end Sys2Proof.Machine

/-! PROOFS. The second step of ACQUIRE_PRI (R154): what a journal that overflows leaves of a waiter, and a waiter's leaving of one FIFO. -/

namespace Sys2Proof.Tbl

/-- A filter that keeps what a key reads as leaves the reading. -/
theorem get_filter {α : Type} {d : α} {i : Nat} {q : Nat × α → Bool} {t : Tbl α} (h : q (i, get d t i) = true) :
    get d (t.filter q) i = get d t i := by
  induction t with
  | nil => rfl
  | cons x t ih =>
    obtain ⟨k, v⟩ := x
    by_cases hk : i = k
    · subst hk
      have hv : q (i, v) = true := by simpa [get] using h
      simp [hv, get]
    · have ht : get d (t.filter q) i = get d t i := ih (by simpa [get, hk] using h)
      cases hq : q (k, v) <;> simp [hq, get, hk, ht]

end Sys2Proof.Tbl

namespace Sys2Proof.Machine

/-! ## Journals keep the waiters that still wait (R161) -/

theorem dirtyLog_waiters (p kind : Nat) (addr : W64) (s : State) : (dirtyLog p kind addr s).waiters = s.waiters := by
  unfold dirtyLog
  dsimp only
  split
  · rfl
  · split <;> rfl

theorem hostWrite_waiters (p kind : Nat) (addr : W64) (data : List W64) (s : State) :
    (hostWrite p kind addr data s).waiters = s.waiters := by
  simp only [hostWrite]
  split
  · rfl
  · split
    · rfl
    · exact dirtyLog_waiters _ _ _ _

theorem rcBefore_waiters (off : Nat) (old : W32) (s : State) : (rcBefore off old s).waiters = s.waiters := by
  rw [rcBefore_frame]

theorem raiseIrq_waiters (p vec : Nat) (s : State) : (raiseIrq p vec s).waiters = s.waiters := by
  unfold raiseIrq
  split
  · rfl
  · split <;> rfl

theorem wantWriteback_waiters (p : Nat) (s : State) : (wantWriteback p s).waiters = s.waiters := by
  simp only [wantWriteback]
  split <;> rfl

/-- A notice in the event ring leaves the waiters. -/
theorem event_waiters (p type : Nat) (d0 : W32) (d1 : W128) (s : State) : (event p type d0 d1 s).waiters = s.waiters := by
  simp only [event]
  split
  · exact rcBefore_waiters _ _ _
  · split <;> simp only [raiseIrq_waiters, wantWriteback_waiters, setPage_waiters, writeEntry, hostWrite_waiters]

section waits
variable {s : State} {e : Nat} (h : (waiter s e).kept = false)
include h

theorem waiter_freeKept (p : Nat) : waiter (freeKept p s) e = waiter s e :=
  Tbl.get_filter (by rw [show Tbl.get waiterNone s.waiters e = waiter s e from rfl, h]; rfl)

theorem waiter_closeJournal (p : Nat) : waiter (closeJournal p s) e = waiter s e := by
  unfold waiter closeJournal
  rw [event_waiters]
  exact waiter_freeKept (s := setJournal p { journal s p with closed := true, entries := [] } s) h p

theorem waiter_journalObj (p : Nat) (tok : Bool) (i : Nat) (l : List JEntry) : waiter (journalObj p tok i l s) e = waiter s e := by
  simp only [journalObj, journalAdd]
  split
  · rfl
  · split
    · rfl
    · split
      · rfl
      · exact waiter_closeJournal h p

theorem waiter_putVal (r : HomeReq) (v : W32) : waiter (putVal r v s) e = waiter s e := by
  simp only [putVal]
  split
  · rfl
  · split
    · rfl
    · exact waiter_journalObj h _ _ _ _

end waits

/-! ## Out of one FIFO -/

section leave
variable {s : State} {e i : Nat} {tok : Bool} {sq : W32}

/-- A waiter linked in one FIFO leaves it, and nothing else of the objects changes. -/
theorem leaveFifos_leaves (hl : (waiter s e).links = [(tok, i, sq)]) (hm : (obj s tok i).fifo.any (fun f => f.1 == e) = true) :
    Leaves (leaveFifos e s) s
      (Tbl.set Obj.none (objIx tok i) { obj s tok i with fifo := (obj s tok i).fifo.filter fun f => f.1 != e } s.objs) := by
  simp only [leaveFifos, unlinkAll, hl, List.foldl_cons, List.foldl_nil, unlinkFrom, hm, if_true]
  split <;> exact ⟨rfl, rfl⟩

theorem obj_set_other {t : State} {j : Nat} {x : Obj} (ht : t.objs = Tbl.set Obj.none (objIx tok j) x s.objs) (hij : i ≠ j) :
    obj t tok i = obj s tok i := by
  unfold obj
  rw [ht]
  exact Tbl.get_set_ne _ _ _ _ _ (by simpa [objIx] using hij)

end leave

/-! ## The second step -/

section second
variable {s : State} {r : HomeReq} {e : Nat}

/-- The request as it stands at TOKEN + 1. -/
def atNext (r : HomeReq) : HomeReq := { r with obj := r.obj + 1 }

theorem priSecond_gone (h : (waiter s e).req ≠ r) : priSecond r e s = s := if_pos (.inl h)

theorem priSecond_queued (hreq : (waiter s e).req = r) (hkept : (waiter s e).kept = false) (hshadow : (waiter s e).shadow = false) :
    priSecond r e s =
      if (obj s true (r.obj + 1)).fifo.isEmpty ∧ (waiter s e).count.toNat ≤ (obj s true (r.obj + 1)).val.toNat then
        respond r stOk (resWords ((obj s true (r.obj + 1)).val - (waiter s e).count) (BitVec.ofNat 32 (poolName s r (r.obj + 1))) 0)
          false (leaveFifos e (putVal (atNext r) ((obj s true (r.obj + 1)).val - (waiter s e).count) s))
      else linkTail true (r.obj + 1) e s := by
  simp [priSecond, atNext, hreq, hkept, hshadow]

/-- Without an operation and a pass nothing follows. -/
theorem afterOp_unchanged (h : hasPass s r.tok r.obj = false) : afterOp r s s = s := by
  have hp : (s.home.passes.any fun q => q.tok == r.tok && q.obj == r.obj && q.picked) = false := by
    rw [hasPass, List.any_eq_false] at h
    rw [List.any_eq_false]
    intro q hq hall
    exact h q hq (Bool.and_eq_true_iff.mp hall).1
  simp [afterOp, hp]

theorem putVal_changed {v : W32} (h : v ≠ (obj s r.tok r.obj).val) :
    (putVal r v s).objs = Tbl.set Obj.none (objIx r.tok r.obj) { obj s r.tok r.obj with val := v } s.objs :=
  (putVal_spec r v s).2.trans (if_neg h)

/-- The count taken at the higher pool, and the entry gone from the FIFO of the lower. -/
theorem takesNext {v sq : W32} (htok : r.tok = true) (hkept : (waiter s e).kept = false)
    (hl : (waiter s e).links = [(true, r.obj, sq)]) (hm : (obj s true r.obj).fifo.any (fun f => f.1 == e) = true)
    (hv : v ≠ (obj s true (r.obj + 1)).val) :
    Leaves (leaveFifos e (putVal (atNext r) v s)) s
      (Tbl.set Obj.none (objIx true r.obj) { obj s true r.obj with fifo := (obj s true r.obj).fifo.filter fun f => f.1 != e }
        (Tbl.set Obj.none (objIx true (r.obj + 1)) { obj s true (r.obj + 1) with val := v } s.objs)) := by
  have hnext : (atNext r).tok = true := htok
  have hput := putVal_changed (r := atNext r) (s := s) (v := v) (by rwa [hnext])
  rw [hnext] at hput
  have hlow : obj (putVal (atNext r) v s) true r.obj = obj s true r.obj := obj_set_other hput (Nat.ne_of_lt (Nat.lt_succ_self _))
  have hwait : waiter (putVal (atNext r) v s) e = waiter s e := waiter_putVal hkept _ _
  obtain ⟨hframe, hafter⟩ := leaveFifos_leaves (hwait ▸ hl) (hlow.symm ▸ hm)
  exact ⟨hframe.trans (putVal_spec _ _ _).1, by rw [hafter, hlow, hput]; rfl⟩

theorem execAcquirePriForward_next (htok : r.tok = true) (hobj : r.obj < 2047) (hpart : r.part < 64) (he : e < 16384) :
    execAcquirePriForward r e s = .next (if homeAborted s r then s else afterOp (atNext r) s (priSecond r e s)) := by
  have hpool : r.obj < 2048 := by omega
  exact answer_next.mpr ⟨by simp [reqOk, htok, hobj, hpool, hpart, he], rfl⟩

end second

/-- Settles O17: a waiter still queued takes its count at the higher pool and leaves the lower, or joins the higher's tail. -/
theorem acquirePriSecondStep : Obligations.AcquirePriSecondStep := by
  intro s r e sq hr htok hobj hpart he w i o o1
  have hexec := execAcquirePriForward_next (s := s) htok hobj hpart he
  have hnext : (atNext r).tok = true := htok
  have live : (part s r.part).state ≠ .resetting → homeAborted s r = false := fun h => by simp [homeAborted, h]
  refine ⟨fun hreq hp => ?_, fun hlive hreq hkept hshadow hl hm hf hn h0 => ?_, fun hlive hreq hkept hshadow hwait => ?_⟩
  · have hafter : afterOp (atNext r) s s = s := afterOp_unchanged (by rw [hnext]; exact hp)
    refine hexec.trans ?_
    rw [priSecond_gone hreq, hafter, ite_self]
  · have hv : o.val - w.count ≠ o.val := by bv_omega
    have htakes : priSecond r e s = _ := (priSecond_queued hreq hkept hshadow).trans
      (if_pos ⟨List.isEmpty_iff.mpr hf, hn⟩)
    refine ⟨_, hexec, ?_⟩
    rw [if_neg (by simp [live hlive]), htakes, poolName_tile hr]
    exact (afterOp_grows _ _ _).responds ((takesNext htok hkept hl hm hv).responds hr _ _)
  · have hcannot : ¬ (o.fifo.isEmpty ∧ w.count.toNat ≤ o.val.toNat) := fun ⟨hf, hn⟩ =>
      hwait.elim (absurd (List.isEmpty_iff.mp hf)) (Nat.not_lt.mpr hn)
    have hlinks : priSecond r e s = linkTail true i e s := (priSecond_queued hreq hkept hshadow).trans (if_neg hcannot)
    obtain ⟨hframe, hobjs⟩ := (afterOp_quiet (atNext r) s _).leaves (linkTail_leaves true i e s)
    refine ⟨_, hexec, ?_⟩
    rw [if_neg (by simp [live hlive]), hlinks]
    refine ⟨?_, hframe⟩
    unfold obj
    rw [hobjs]
    exact Tbl.get_set_self _ _ _ _ fun hnone => absurd (congrArg Obj.fifo hnone) (by simp [Obj.none])

end Sys2Proof.Machine

/-! PROOFS. The way of requests into the pipelines of the home, and of responses back to their stirrups. -/

namespace Sys2Proof.Machine

/-! ## Entry (R140) -/

theorem enterOne_live {s : State} {c : Crossing} (h : homeAborted s c.req = false) :
    enterOne s c = setInput (pipeOf (itemObj ⟨c.req, c.entry⟩))
      (inputOf s (pipeOf (itemObj ⟨c.req, c.entry⟩)) ++ [⟨c.req, c.entry⟩]) s := by
  simp [enterOne, h]

/-- One request whose crossing has come stands last in the input of its object's pipeline. -/
theorem homeEntry_single {s : State} {c : Crossing} (hc : s.home.crossing = [c]) (hd : c.due ≤ s.clk.eclk)
    (ha : homeAborted s c.req = false) :
    homeEntry s = setInput (pipeOf (itemObj ⟨c.req, c.entry⟩))
      (inputOf s (pipeOf (itemObj ⟨c.req, c.entry⟩)) ++ [⟨c.req, c.entry⟩])
      { s with home := { s.home with crossing := [] } } := by
  have hone : homeEntry s = enterOne { s with home := { s.home with crossing := [] } } c := by
    simp [homeEntry, hc, hd, insertBy]
  exact hone.trans (enterOne_live ha)

/-! ## Picking (R142, R149) -/

/-- What a turn of a pipeline leaves of the state: its own bookkeeping and the agenda alone change. -/
def PickFrame (t s : State) : Prop := t = { s with home := t.home, agenda := t.agenda }

section pick
variable {s : State} {pipe p : Nat} {it : HomeItem}

theorem markPass_home (tok : Bool) (i src : Nat) (picked : Bool) (s : State) :
    markPass tok i src picked s = { s with home := { s.home with passes := (markPass tok i src picked s).home.passes } } := by
  unfold markPass
  split <;> rfl

/-- The turn of a partition without an undo step: its item leaves the input, and takes effect 3 ECLK later. -/
theorem takeTurn_item (hu : undoReady s p pipe = false) (hi : itemFor s pipe p = some it) :
    let t := takeTurn pipe p s
    t.agenda = s.agenda ++ [{ clk := .eclk, due := s.clk.eclk + 3, ev := effectInstr it }]
      ∧ t.home.input = Tbl.set [] pipe ((inputOf s pipe).erase it) s.home.input ∧ PickFrame t s := by
  simp only [takeTurn, hu, hi, Bool.false_eq_true, if_false]
  split
  · rw [markPass_home]
    split <;> exact ⟨rfl, rfl, rfl⟩
  · split <;> exact ⟨rfl, rfl, rfl⟩

/-- The state in which a pipeline has noted its ECLK and dropped the deficits of the partitions without work. -/
def visited (pipe : Nat) (s : State) : State :=
  dropDeficits pipe (readyParts s pipe)
    { s with home := { s.home with lastPick := Tbl.set 0 pipe (s.clk.eclk + 1) s.home.lastPick } }

theorem homePick_reserved (hl : Tbl.get 0 s.home.lastPick pipe ≠ s.clk.eclk + 1) (hi : isolated s 3 pipe = false)
    (hr : partReady s pipe (s.clk.eclk % 64) = true) : homePick pipe s = takeTurn pipe (s.clk.eclk % 64) (visited pipe s) := by
  have hmem : (readyParts s pipe).contains (s.clk.eclk % 64) = true := by
    simp [readyParts, hr, Nat.mod_lt]
  simp only [homePick, hl, hi, hmem, Bool.false_eq_true, or_self, if_false, if_true]
  rfl

/-- With nothing ready at most the ECLK is noted and deficits are dropped. -/
theorem homePick_nothing (h : readyParts s pipe = []) : homePick pipe s = s ∨ homePick pipe s = visited pipe s := by
  unfold homePick
  split
  · exact .inl rfl
  · refine .inr ?_
    simp only [h, weighted, nextReady, List.contains_nil, List.find?_nil, List.head?_nil, Bool.false_eq_true, false_and, if_false]
    rw [visited, h]

end pick

/-- Settles O19: one crossing enters its pipeline's input; the reserved ECLK's partition has its turn. -/
theorem requestsEnterAndArePicked : Obligations.RequestsEnterAndArePicked := by
  intro s pipe c it hpipe p
  refine ⟨fun hc hd ha => completes_next.mpr ?_, fun hl hi hr hu hit => completes_answer.mpr ⟨decide_eq_true hpipe, ?_⟩,
    fun hr => completes_answer.mpr ⟨decide_eq_true hpipe, ?_⟩⟩
  · rw [homeEntry_single hc hd ha]
    exact ⟨rfl, rfl, rfl⟩
  · rw [homePick_reserved hl hi hr]
    obtain ⟨hagenda, hinput, hframe⟩ := takeTurn_item (s := visited pipe s) (p := p) hu hit
    exact ⟨hagenda, hinput, hframe⟩
  · obtain h | h := homePick_nothing hr
    · rw [h]
      exact ⟨rfl, rfl, rfl⟩
    · rw [h]
      exact ⟨rfl, rfl, rfl⟩

/-! ## Buckets and polls (R142, R156, R247) -/

section poll
variable {s : State} {r : HomeReq} {f : HomeFly}

theorem refill_single {p : Nat} (h : livePartitions s = [p]) : exec .bucketRefill s = .next (refillPart p s) := by
  simp only [exec, execBucketRefill, h, List.foldl_cons, List.foldl_nil]

theorem pollResend_dropped (hr : r.src < nStirrup) (h : (stir s r.src).homeFly.all (fun g => g.rid != r.rid) = true) :
    pollResend r s = s := by
  simp only [pollResend, hr, h, Bool.or_true, if_true]

/-- A tile's request still in flight rests while its partition is still, and else leaves again as a poll under its RID. -/
theorem pollResend_live (hr : r.src < nStirrup) (hz : (stir s r.src).frozen = false) (hf : f ∈ (stir s r.src).homeFly)
    (hrid : f.rid = r.rid) : pollResend r s =
      if stillPart s (stir s r.src) then afterT 1 (.pollResend r) s
      else offerUp (.stirrup r.src) (prioHome s.clk.tclk r.src) s.clk.tclk 1
        (homeArrival (.stall (stallOf r.src)) { r with poll := true, leftT := notLeft })
        (updStir r.src (fun x => { x with homeFly := x.homeFly.map fun g =>
          if g.rid = r.rid then { g with req := { r with poll := true, leftT := notLeft } } else g }) s) := by
  have hfly : (stir s r.src).homeFly.all (fun g => g.rid != r.rid) = false :=
    List.all_eq_false.mpr ⟨f, hf, by simp [hrid]⟩
  simp only [pollResend, hr, hz, hfly, Bool.or_self, Bool.false_eq_true, if_false, if_true]
  rfl

end poll

/-! ## Responses (R146) -/

/-- A stirrup whose only request in flight, a held one, has its response. -/
def withResponse (y : HomeRsp) (x : Stirrup) : Stirrup := { x with homeFly := [], res := y.pay, status := y.status }

/-- With nothing else waiting that is all a held request's response does. -/
theorem rspAtStirrup_held {s : State} {st : Nat} {y : HomeRsp} {f : HomeFly} (hfly : (stir s st).homeFly = [f])
    (hrid : f.rid = y.rid) (hheld : f.held = true) (hpoll : y.poll = false) (hz : (stir s st).frozen = false)
    (hstamp : stampIs (stir s st) y.role = true) (ha : wAssigned (stir s st).role = true) (hq : (stir s st).cmdQ = [])
    (hh : (stir s st).homeQ = []) (hn : (stir s st).newRole = none) :
    rspAtStirrup st y s = setStir st (withResponse y (stir s st)) s := by
  have hstir : stir (setStir st (withResponse y (stir s st)) s) st = withResponse y (stir s st) :=
    stir_setStir (ne_initial_of_assigned ha)
  have hrsp : rspAtStirrup st y s = tryRole st (wake st (setStir st (withResponse y (stir s st)) s)) := by
    simp [rspAtStirrup, withResponse, hfly, hrid, hheld, hpoll, hz, hstamp]
  rw [hrsp, wake_idle (by rw [hstir]; exact hq) (by rw [hstir]; exact hh), tryRole_none (by rw [hstir]; exact hn)]

theorem execHomeRsp_die {y : HomeRsp} {s : State} (h : y.dest < nStirrup) :
    execHomeRsp .die y s = .next (offer (homePortDown (y.dest / 864)) (prioHome s.clk.tclk y.dest) s.clk.tclk 1 4
      (.homeRsp (.half (y.dest / 864)) y) s) := answer_of h _

theorem execHomeRsp_stirrup {y : HomeRsp} {s : State} (h : y.dest < nStirrup) :
    execHomeRsp (.stirrup y.dest) y s = .next (rspAtStirrup y.dest y s) := by
  simp [execHomeRsp, answer, Place.ok, h, outOfService, homeRsp]

/-- Settles O21: a refill, a poll and a response each change one record and offer at most one packet. -/
theorem responsesReachTheirStirrup : Obligations.ResponsesReachTheirStirrup := by
  intro s r y f p x again ours live
  have poll : live → exec (.pollResend r) s = .next _ := fun ⟨⟨hok, hr⟩, hz, hf, hrid⟩ =>
    answer_next.mpr ⟨hok, pollResend_live hr hz hf hrid⟩
  refine ⟨fun hl h0 => ?_, fun hl h0 => ?_, fun ⟨hok, hr⟩ hgone => ?_, fun h hs => ?_, fun h hs => ?_, fun hd => ?_,
    fun hd hp ha hfly hrid hheld hz hstamp hq hh hn => ?_⟩
  · exact (refill_single hl).trans (congrArg _ (if_pos h0))
  · exact (refill_single hl).trans (congrArg _ (if_neg h0))
  · exact answer_next.mpr ⟨hok, pollResend_dropped hr hgone⟩
  · exact (poll h).trans (congrArg _ (if_pos hs))
  · exact (poll h).trans (congrArg _ (if_neg (by simp [x, hs])))
  · exact execHomeRsp_die hd
  · exact (execHomeRsp_stirrup hd).trans
      (congrArg _ (rspAtStirrup_held hfly hrid hheld hp hz hstamp ha hq hh hn))

end Sys2Proof.Machine

/-! PROOFS. Landing tallies: a report at its port, one TCLK of the tally unit, a tally command's response. -/

namespace Sys2Proof.Machine

/-! ## Reports at a landing port (R173) -/

/-- What is due at the tally unit joins its list, and the unit has a command for the TCLK in question. -/
theorem tallyAt_spec (due : Nat) (act : TallyAct) (s : State) :
    let t := tallyAt due act s
    t.tly = { s.tly with due := s.tly.due ++ [{ due := due, act := act }] }
      ∧ { clk := .tclk, due := due, ev := .tallyReqArrival } ∈ t.agenda ∧ t = { s with tly := t.tly, agenda := t.agenda } := by
  simp only [tallyAt]
  split
  case isTrue h =>
    obtain ⟨⟨clk, at_, ev⟩, hmem, heq⟩ := List.any_eq_true.mp h
    simp only [Bool.and_eq_true, beq_iff_eq] at heq
    obtain ⟨⟨rfl, rfl⟩, rfl⟩ := heq
    exact ⟨rfl, hmem, rfl⟩
  case isFalse => exact ⟨rfl, List.mem_append_right _ (List.mem_singleton_self _), rfl⟩

theorem landReport_fits {u : BitVec 7} (h : u.toNat ≤ 64) (half lane k : Nat) (s : State) :
    landReport half lane k u s = tallyAt (s.clk.tclk + 6) (.report half lane k u) s := if_neg (by omega)

theorem landReport_over {u : BitVec 7} (h : 65 ≤ u.toNat) (half lane k : Nat) (s : State) :
    landReport half lane k u s = report 0x09 10 k none [half, lane, k * 128 + u.toNat] s := if_pos h

/-- Settles O23: a report that fits is due at the tally unit; one that does not is a fault report alone. -/
theorem landReportsReachTheTallyUnit : Obligations.LandReportsReachTheTallyUnit := by
  intro s half lane k u hhalf hlane hk
  refine ⟨fun h => completes_answer.mpr ⟨decide_eq_true ⟨hhalf, hlane, hk⟩, ?_⟩,
    fun h => completes_answer.mpr ⟨decide_eq_true ⟨hhalf, hlane, hk⟩, ?_⟩⟩
  · rw [landReport_fits h]
    exact tallyAt_spec _ _ s
  · rw [landReport_over h]
    exact ⟨⟨_, _, _, report_told _ _ _ _ _ s⟩, rfl⟩

/-! ## What concerns the tally unit alone -/

/-- Nothing but the tallies' unit differs. -/
def TlyOnly (t s : State) : Prop := t = { s with tly := t.tly }

theorem TlyOnly.trans {u t s : State} (h : TlyOnly u t) (g : TlyOnly t s) : TlyOnly u s := by
  unfold TlyOnly at *
  rw [h, g]

theorem tally_congr {t s : State} (h : t.tly = s.tly) (k : Nat) : tally t k = tally s k := by rw [tally, tally, h]

theorem setTally_tlyOnly (k : Nat) (x : Tally) (s : State) : TlyOnly (setTally k x s) s := rfl

theorem strobe_tlyOnly (k : Nat) (drop : Bool) (s : State) : TlyOnly (strobe k drop s) s := rfl

/-! ## One tally (R174, R175) -/

section tally
variable {s : State} {k n : Nat}

theorem tally_setTally {x : Tally} (h : x ≠ Tally.none) : tally (setTally k x s) k = x := Tbl.get_set_self _ _ _ _ h

theorem tally_setTally_ne {x : Tally} {t : Nat} (h : k ≠ t) : tally (setTally t x s) k = tally s k := Tbl.get_set_ne _ _ _ _ _ h

theorem tally_strobe (t : Nat) (drop : Bool) (s : State) (k : Nat) : tally (strobe t drop s) k = tally s k := rfl

theorem Tally.ne_none_of_done {x : Tally} (h : x.done = true) : x ≠ Tally.none := by
  rintro rfl
  exact absurd h (by decide)

theorem Tally.ne_none_of_armed {x : Tally} (h : x.armed = true) : x ≠ Tally.none := by
  rintro rfl
  exact absurd h (by decide)

/-- A tally with the units of a report added. -/
def withUnits (u : BitVec 7) (x : Tally) : Tally := { x with count := x.count + u.setWidth 32 }

/-- A tally armed for `v` units. -/
def armedFor (v : W32) (x : Tally) : Tally := { x with expect := v, armed := true, done := false }

/-- A tally whose round is complete. -/
def roundDone (x : Tally) : Tally :=
  { x with count := x.count - x.expect, armed := false, done := true, compl := x.compl + 1 }

theorem withUnits_count {u : BitVec 7} {x : Tally} (h : x.count.toNat + u.toNat ≤ 0xFFFF_FFFF) :
    (withUnits u x).count.toNat = x.count.toNat + u.toNat := by
  rw [withUnits, BitVec.toNat_add, BitVec.toNat_setWidth_of_le (by decide)]
  exact Nat.mod_eq_of_lt (by omega)

theorem withUnits_ne_none {u : BitVec 7} {x : Tally} (hu : u ≠ 0) (h : x.count.toNat + u.toNat ≤ 0xFFFF_FFFF) :
    withUnits u x ≠ Tally.none := by
  intro hnone
  have hcount : x.count.toNat + u.toNat = 0 := by rw [← withUnits_count h, hnone]; rfl
  exact hu (BitVec.eq_of_toNat_eq (Nat.eq_zero_of_add_eq_zero_left hcount))

/-- Units join a count that has room for them. -/
theorem addUnits_fits (op : Nat) {u : BitVec 7} (h : (tally s k).count.toNat + u.toNat ≤ 0xFFFF_FFFF) :
    addUnits k u.toNat op s = setTally k (withUnits u (tally s k)) s := by
  have hsum : BitVec.ofNat 32 ((tally s k).count.toNat + u.toNat) = (tally s k).count + u.setWidth 32 := by
    rw [BitVec.ofNat_add, BitVec.ofNat_toNat, BitVec.setWidth_eq, BitVec.ofNat_toNat]
  simp only [addUnits, if_neg (Nat.not_lt.mpr h), Nat.min_eq_left h, hsum, withUnits]

/-- An ARM of a tally that is not armed logs nothing. -/
theorem armTally_unarmed (v : W32) (h : (tally s k).armed = false) :
    armTally k v s = setTally k (armedFor v (tally s k)) s := by
  simp [armTally, armedFor, h]

theorem completeRound_unarmed (h : (tally s k).armed = false) : completeRound k s = s :=
  if_neg fun ⟨harmed, _⟩ => absurd (h.symm.trans harmed) (by decide)

theorem completeRound_short (h : (tally s k).count.toNat < (tally s k).expect.toNat) : completeRound k s = s :=
  if_neg fun ⟨_, hle⟩ => absurd h (Nat.not_lt.mpr hle)

theorem completeRound_full (ha : (tally s k).armed = true) (hle : (tally s k).expect.toNat ≤ (tally s k).count.toNat) :
    completeRound k s = strobe k false (setTally k (roundDone (tally s k)) s) := if_pos ⟨ha, hle⟩

/-! ## One TCLK of the tally unit (R175) -/

/-- The state in which the tally unit has taken all that was due. -/
def duesTaken (s : State) : State := { s with tly := { s.tly with due := [] } }

theorem duesTaken_tlyOnly (s : State) : TlyOnly (duesTaken s) s := rfl

theorem tally_duesTaken (s : State) (k : Nat) : tally (duesTaken s) k = tally s k := rfl

/-- Of all tallies the unit's work is at the one that is named. -/
theorem foldl_range_single (f : Nat → State → State) (hk : k < n) (s : State) :
    (List.range n).foldl (fun a t => if [k].contains t then f t a else a) s = f k s := by
  have hone : (List.range n).filter [k].contains = [k] := by
    have hbeq : [k].contains = (· == k) := by
      funext t
      simp [Bool.beq_eq_decide_eq]
    rw [hbeq, List.filter_beq, List.count_range, if_pos hk]
    rfl
  rw [← List.foldl_filter (f := fun a t => f t a), hone]
  rfl

/-- A report of an owned tally, due alone, is that tally's work of this TCLK. -/
theorem tallyUnit_report {half lane p due : Nat} {u : BitVec 7} (hk : k < 1024)
    (hd : s.tly.due = [{ due := due, act := .report half lane k u }]) (hdue : due ≤ s.clk.tclk) (ho : tallyOwner s k = some p) :
    tallyUnit s = tallyCycle [(k, half * 4 + lane, u)] [] k (duesTaken s) := by
  have hkeys : [k].eraseDups = [k] := rfl
  simp only [tallyUnit, hd, hdue, ho, decide_true, List.filter_cons, List.filter_nil, List.filterMap_cons, List.filterMap_nil,
    Option.isNone_some, Option.isSome_some, Bool.not_true, Bool.false_eq_true, if_true, if_false, List.foldl_nil, List.map_cons,
    List.map_nil, List.append_nil, hkeys]
  exact foldl_range_single _ hk _

/-- So is a command. -/
theorem tallyUnit_command {due : Nat} {r : TallyReq} (hk : r.tally < 1024)
    (hd : s.tly.due = [{ due := due, act := .cmd r }]) (hdue : due ≤ s.clk.tclk) :
    tallyUnit s = tallyCycle [] [r] r.tally (duesTaken s) := by
  have hkeys : [r.tally].eraseDups = [r.tally] := rfl
  simp only [tallyUnit, hd, hdue, decide_true, List.filter_cons, List.filter_nil, List.filterMap_cons, List.filterMap_nil,
    Bool.not_true, Bool.false_eq_true, if_true, if_false, List.foldl_cons, List.foldl_nil, List.map_cons,
    List.map_nil, List.nil_append, insertReq, hkeys]
  exact foldl_range_single _ hk _

/-- A report of units adds them, and the round may complete. -/
theorem tallyCycle_report {u : BitVec 7} (hu : u ≠ 0) (l : Nat) (s : State) :
    tallyCycle [(k, l, u)] [] k s = completeRound k (addUnits k u.toNat 0 s) := by
  have hu' : u ≠ 0#7 := hu
  simp [tallyCycle, hu']

/-- An ARM of a partition that is not in reset sets the round, which may complete, and is answered. -/
theorem tallyCycle_arm {r : TallyReq} (hop : r.op = 0x18#5) (hp : (part s r.part).state ≠ .resetting) :
    tallyCycle [] [r] r.tally s =
      let t := completeRound r.tally (armTally r.tally (pay0 r.pay) s)
      tallyAnswer r stOk (tallyResult (tally t r.tally)) t := by
  simp [tallyCycle, tallyAborted, hop, hp]

/-- The answer to a tile is a packet on a tree link. -/
theorem tallyAnswer_tile {r : TallyReq} (h : r.src < nStirrup) (status : BitVec 5) (pay : W128) (s : State) :
    tallyAnswer r status pay s = { s with tree := (tallyAnswer r status pay s).tree } := by
  have hsrc : r.src ≠ srcHost := by
    simp only [nStirrup, srcHost] at *
    omega
  simp only [tallyAnswer, hsrc, if_false]
  rfl

theorem exec_tallyReqArrival (s : State) : exec .tallyReqArrival s = .next (tallyUnit s) := rfl

/-- What a report that is due alone leaves of an owned tally, up to the look whether the round is complete. -/
theorem tallyUnit_adds {half lane p due : Nat} {u : BitVec 7} (hk : k < 1024) (ho : tallyOwner s k = some p)
    (hd : s.tly.due = [{ due := due, act := .report half lane k u }]) (hdue : due ≤ s.clk.tclk) (hu : u ≠ 0)
    (hfit : (tally s k).count.toNat + u.toNat ≤ 0xFFFF_FFFF) :
    tallyUnit s = completeRound k (setTally k (withUnits u (tally s k)) (duesTaken s)) := by
  rw [tallyUnit_report hk hd hdue ho, tallyCycle_report hu, addUnits_fits (s := duesTaken s) 0 hfit, tally_duesTaken]

/-- What an ARM that is due alone, and whose round is not complete at once, leaves. -/
theorem tallyUnit_arms {due : Nat} {r : TallyReq} (hk : r.tally < 1024) (hd : s.tly.due = [{ due := due, act := .cmd r }])
    (hdue : due ≤ s.clk.tclk) (hop : r.op = 0x18#5) (hp : (part s r.part).state ≠ .resetting)
    (ha : (tally s r.tally).armed = false) (hlt : (tally s r.tally).count.toNat < (pay0 r.pay).toNat) :
    ∃ res, tallyUnit s =
      tallyAnswer r stOk res (setTally r.tally (armedFor (pay0 r.pay) (tally s r.tally)) (duesTaken s)) := by
  have hshort : completeRound r.tally (setTally r.tally (armedFor (pay0 r.pay) (tally s r.tally)) (duesTaken s))
      = setTally r.tally (armedFor (pay0 r.pay) (tally s r.tally)) (duesTaken s) :=
    completeRound_short (by rw [tally_setTally (Tally.ne_none_of_armed rfl)]; exact hlt)
  rw [tallyUnit_command hk hd hdue, tallyCycle_arm (s := duesTaken s) hop hp, armTally_unarmed (s := duesTaken s) _ ha,
    tally_duesTaken, hshort]
  exact ⟨_, rfl⟩

end tally

/-! ## Responses (R178) -/

/-- A stirrup whose only exact-class command in flight, a held tally command, has its response. -/
def withTallyResponse (y : TallyRsp) (x : Stirrup) : Stirrup := { x with exactFly := [], res := y.pay, status := y.status }

/-- With nothing else waiting that is all a held command's response does. -/
theorem tallyRspAt_held {s : State} {st : Nat} {y : TallyRsp} {f : ExactFly} (hfly : (stir s st).exactFly = [f])
    (htally : f.tally = true) (hheld : f.held = true) (hid : cId f.cmd.word = y.tally) (hop : cOp f.cmd.word = y.op)
    (hz : (stir s st).frozen = false) (hstamp : stampIs (stir s st) y.role = true) (ha : wAssigned (stir s st).role = true)
    (hq : (stir s st).cmdQ = []) (hh : (stir s st).homeQ = []) (hn : (stir s st).newRole = none) :
    tallyRspAt st y s = setStir st (withTallyResponse y (stir s st)) s := by
  have hstir : stir (setStir st (withTallyResponse y (stir s st)) s) st = withTallyResponse y (stir s st) :=
    stir_setStir (ne_initial_of_assigned ha)
  have hrsp : tallyRspAt st y s = tryRole st (wake st (setStir st (withTallyResponse y (stir s st)) s)) := by
    simp [tallyRspAt, withTallyResponse, hfly, htally, hid, hop, hheld, hz, hstamp]
  rw [hrsp, wake_idle (by rw [hstir]; exact hq) (by rw [hstir]; exact hh), tryRole_none (by rw [hstir]; exact hn)]

theorem offerDown_barn (b prio ready : Nat) (ev : Instr) (s : State) :
    offerDown (.barn b) prio ready ev s = offer (4000 + 2200 + b) prio ready 1 7 ev s := by
  rw [Nat.add_assoc]
  rfl

theorem execTallyResponse_half {y : TallyRsp} {s : State} (h : y.dest < nStirrup) :
    execTallyResponse (.half (y.dest / 864)) y s =
      .next (offerDown (.barn (barnOfStirrup y.dest)) (prioTally y.tally y.dest) s.clk.tclk
        (.tallyResponse (.barn (barnOfStirrup y.dest)) y) s) := by
  have hhalf : y.dest / 864 < 2 := by
    simp only [nStirrup] at h
    omega
  simp [execTallyResponse, answer, Place.ok, h, hhalf, outOfService, tallyResponse]

theorem execTallyResponse_stirrup {y : TallyRsp} {s : State} (h : y.dest < nStirrup) :
    execTallyResponse (.stirrup y.dest) y s = .next (tallyRspAt y.dest y s) := by
  simp [execTallyResponse, answer, Place.ok, h, outOfService, tallyResponse]

/-! ## The obligation -/

/-- Settles O24: what is due concerns one tally, whose record decides whether its round is complete; a response takes one link or
ends the held command. -/
theorem tallyCountsAndCompletes : Obligations.TallyCountsAndCompletes := by
  intro s half lane k p due u r y f hk hdest x d reported
  refine ⟨fun ⟨ho, hd, hdue, hu, hfit⟩ ha => (exec_tallyReqArrival s).trans (congrArg _ ?_),
    fun ⟨ho, hd, hdue, hu, hfit⟩ ha hfull => completes_next.mpr ?_,
    fun hd hdue ht hop hsrc hp ha hlt => completes_next.mpr ?_, ?_,
    fun hfly htally hheld hid hop hz hstamp hassigned hq hh hn => ?_⟩
  · have hx := tally_setTally (s := duesTaken s) (k := k) (withUnits_ne_none hu hfit)
    rw [tallyUnit_adds hk ho hd hdue hu hfit, completeRound_unarmed (by rw [hx]; exact ha)]
    rfl
  · have hx := tally_setTally (s := duesTaken s) (k := k) (withUnits_ne_none hu hfit)
    have hle : (withUnits u x).expect.toNat ≤ (withUnits u x).count.toNat := by
      rw [withUnits_count hfit]
      exact hfull
    rw [tallyUnit_adds hk ho hd hdue hu hfit, completeRound_full (by rw [hx]; exact ha) (by rw [hx]; exact hle), hx]
    exact ⟨by rw [tally_strobe, tally_setTally (Tally.ne_none_of_done rfl), roundDone, withUnits], rfl,
      (strobe_tlyOnly _ _ _).trans ((setTally_tlyOnly _ _ _).trans ((setTally_tlyOnly _ _ _).trans (duesTaken_tlyOnly s)))⟩
  · subst ht
    obtain ⟨res, hunit⟩ := tallyUnit_arms hk hd hdue hop hp ha hlt
    rw [hunit, tallyAnswer_tile hsrc]
    exact ⟨tally_setTally (Tally.ne_none_of_armed rfl), rfl⟩
  · exact (execTallyResponse_half hdest).trans (congrArg _ (offerDown_barn _ _ _ _ s))
  · exact (execTallyResponse_stirrup hdest).trans
      (congrArg _ (tallyRspAt_held hfly htally hheld hid hop hz hstamp hassigned hq hh hn))

end Sys2Proof.Machine

/-! PROOFS. What a completion leaves of the rings, and the end of an undo: the tallies restored and its cue held. -/

namespace Sys2Proof.Machine

/-! ## Host memory writes and interrupts leave what waits for a completion (R249, R257, R267) -/

/-- The register pages, the fetched descriptors and the calls of host members are as they were. -/
structure RingsStay (t s : State) : Prop where
  page : t.page = s.page
  descs : t.hq.descs = s.hq.descs
  hostCall : t.hq.hostCall = s.hq.hostCall

theorem RingsStay.refl (s : State) : RingsStay s s := ⟨rfl, rfl, rfl⟩

theorem RingsStay.trans {u t s : State} (h : RingsStay u t) (g : RingsStay t s) : RingsStay u s :=
  ⟨h.page.trans g.page, h.descs.trans g.descs, h.hostCall.trans g.hostCall⟩

theorem dirtyLog_ringsStay (p kind : Nat) (addr : W64) (s : State) : RingsStay (dirtyLog p kind addr s) s := by
  simp only [dirtyLog]
  split
  · exact .refl s
  · split <;> exact ⟨rfl, rfl, rfl⟩

theorem issueWrite_ringsStay (w : DmaWrite) (s : State) : RingsStay (issueWrite w s) s :=
  RingsStay.trans (t := dirtyLog w.part w.kind w.addr s) ⟨rfl, rfl, rfl⟩ (dirtyLog_ringsStay _ _ _ _)

theorem hostWrite_ringsStay (p kind : Nat) (addr : W64) (data : List W64) (s : State) :
    RingsStay (hostWrite p kind addr data s) s := by
  simp only [hostWrite]
  split
  · exact .refl s
  · split
    · exact ⟨rfl, rfl, rfl⟩
    · exact issueWrite_ringsStay _ _

theorem writeEntry_ringsStay (p kind : Nat) (base : W64) (i : W32) (log2 : Nat) (w0 w1 w2 w3 : W64) (s : State) :
    RingsStay (writeEntry p kind base i log2 w0 w1 w2 w3 s) s :=
  (hostWrite_ringsStay _ _ _ _ _).trans (hostWrite_ringsStay _ _ _ _ _)

theorem wantWriteback_ringsStay (p : Nat) (s : State) : RingsStay (wantWriteback p s) s := by
  simp only [wantWriteback]
  split <;> exact ⟨rfl, rfl, rfl⟩

theorem raiseIrq_ringsStay (p vec : Nat) (s : State) : RingsStay (raiseIrq p vec s) s := by
  unfold raiseIrq
  split
  · exact ⟨rfl, rfl, rfl⟩
  · split <;> exact ⟨rfl, rfl, rfl⟩

theorem irqCheck_ringsStay (p : Nat) (s : State) : RingsStay (irqCheck p s) s := by
  unfold irqCheck
  split
  · exact (raiseIrq_ringsStay _ _ _).trans ⟨rfl, rfl, rfl⟩
  · exact .refl s

theorem irqArm_ringsStay (p : Nat) (s : State) : RingsStay (irqArm p s) s := by
  simp only [irqArm]
  split <;> exact ⟨rfl, rfl, rfl⟩

theorem moderate_ringsStay (p : Nat) (irq : Bool) (s : State) : RingsStay (moderate p irq s) s := by
  simp only [moderate]
  refine (irqCheck_ringsStay _ _).trans ?_
  split
  · exact (irqArm_ringsStay _ _).trans ⟨rfl, rfl, rfl⟩
  · exact ⟨rfl, rfl, rfl⟩

/-! ## Completions (R257, R263, R264) -/

theorem RingsStay.setPage {t s : State} (h : RingsStay t s) (p o : Nat) (v : W32) :
    RingsStay (setPage p o v t) (setPage p o v s) :=
  ⟨congrArg (Tbl.set _ _ v) h.page, h.descs, h.hostCall⟩

/-- The state in which a descriptor is fetched no longer. -/
def descDone (x : Desc) (s : State) : State := { s with hq := { s.hq with descs := s.hq.descs.filter fun d => !sameDesc d.x x } }

/-- A completion that is written takes one entry of the completion ring. -/
theorem complete_written {x : Desc} {r : Done} {s : State} (hq : (bitB (descWord x 0) 8 && r.status == stOk) = false)
    (hen : bitB (pageReg s x.part 0x88) 31 = true) (hst : bitB (pageReg s x.part 0x88) 30 = false) :
    RingsStay (complete x r false s) (setPage x.part 0x8C (pageReg s x.part 0x8C + 1) (descDone x s)) := by
  simp only [complete, hq, hen, hst, Bool.not_true, Bool.false_and, Bool.or_self, Bool.false_eq_true, if_false]
  exact (moderate_ringsStay _ _ _).trans ((wantWriteback_ringsStay _ _).trans
    ((writeEntry_ringsStay _ _ _ _ _ _ _ _ _ _).setPage _ _ _))

/-- A completion takes its descriptor off the list and, unless it is silent, one entry of the completion ring. -/
theorem complete_spec (x : Desc) (r : Done) (s : State) :
    (complete x r false s).hq.hostCall = s.hq.hostCall ∧ Completed (complete x r false s) s x r.status := by
  cases hs : (bitB (descWord x 0) 8 && r.status == stOk) || !bitB (pageReg s x.part 0x88) 31 || bitB (pageReg s x.part 0x88) 30 with
  | true =>
    have hcomplete : complete x r false s = descDone x s := by
      refine if_pos ?_
      rw [← hs, Bool.not_false, Bool.and_true]
    rw [hcomplete]
    exact ⟨rfl, rfl, (if_pos hs).symm⟩
  | false =>
    obtain ⟨⟨hq, hen⟩, hst⟩ := by simpa only [Bool.or_eq_false_iff, Bool.not_eq_false'] using hs
    obtain ⟨hpage, hdescs, hcall⟩ := complete_written hq hen hst
    exact ⟨hcall, hdescs, hpage.trans (if_neg (by simp [hs])).symm⟩

/-! ## Tallies at the end of an undo (R180, R221) -/

/-- What a replay restores of a tally: its step-start value, with FLAGSEEN clear. -/
def stepStart (s : State) (k : Nat) : Tally := { Tbl.get Tally.none s.tly.start k with flagseen := false }

/-- One tally restored, with DROP where it was FLAGSEEN. -/
def restoreTally (a : State) (t : Nat) : State :=
  setTally t (stepStart a t) (if (tally a t).flagseen then strobe t true a else a)

theorem restoreTallies_eq (p : Nat) (s : State) : restoreTallies p s = (liveTallies s p).foldl restoreTally s := rfl

/-- One tally's step-start copy taken, and its FLAGSEEN cleared. -/
def copyTally (a : State) (t : Nat) : State :=
  let y := { tally a t with flagseen := false }
  setTally t y { a with tly := { a.tly with start := Tbl.set Tally.none t y a.tly.start } }

theorem copyStart_eq (p : Nat) (s : State) : copyStart p s = (liveTallies s p).foldl copyTally s := rfl

section one
variable {a : State} {k t : Nat}

theorem restoreTally_tlyOnly (a : State) (t : Nat) : TlyOnly (restoreTally a t) a := by
  unfold restoreTally
  split <;> rfl

theorem stepStart_restoreTally (a : State) (t k : Nat) : stepStart (restoreTally a t) k = stepStart a k := by
  unfold restoreTally
  split <;> rfl

theorem tally_restoreTally (h : stepStart a k ≠ Tally.none) : tally (restoreTally a k) k = stepStart a k := tally_setTally h

theorem tally_restoreTally_ne (h : k ≠ t) : tally (restoreTally a t) k = tally a k := by
  rw [restoreTally, tally_setTally_ne h]
  split <;> rfl

theorem tally_copyTally (hf : (tally a k).flagseen = false) (h : tally a k ≠ Tally.none) : tally (copyTally a t) k = tally a k := by
  by_cases hk : k = t
  · subst hk
    have hclear : { tally a k with flagseen := false } = tally a k := by rw [← hf]
    rw [copyTally, hclear]
    exact tally_setTally h
  · exact tally_setTally_ne hk

end one

section live
variable {s : State} {p k : Nat}

theorem restoreTallies_tlyOnly (p : Nat) (s : State) : TlyOnly (restoreTallies p s) s := by
  rw [restoreTallies_eq]
  exact List.foldlRecOn (motive := fun a => TlyOnly a s) _ _ rfl fun a ha t _ => (restoreTally_tlyOnly a t).trans ha

theorem copyStart_tlyOnly (p : Nat) (s : State) : TlyOnly (copyStart p s) s := by
  rw [copyStart_eq]
  exact List.foldlRecOn (motive := fun a => TlyOnly a s) _ _ rfl fun a ha t _ => TlyOnly.trans (t := a) rfl ha

/-- Whatever else is restored before and after it, a live tally of the partition takes its step-start value. -/
theorem tally_restoreTallies (hk : k ∈ liveTallies s p) (h : stepStart s k ≠ Tally.none) :
    tally (restoreTallies p s) k = stepStart s k := by
  obtain ⟨l, m, hlm⟩ := List.append_of_mem hk
  rw [restoreTallies_eq, hlm, List.foldl_append, List.foldl_cons]
  have hbefore : stepStart (l.foldl restoreTally s) k = stepStart s k :=
    List.foldlRecOn (motive := fun a => stepStart a k = stepStart s k) _ _ rfl
      fun a ha t _ => (stepStart_restoreTally a t k).trans ha
  refine (List.foldlRecOn (motive := fun a => stepStart a k = stepStart s k ∧ tally a k = stepStart s k) m restoreTally
    ⟨(stepStart_restoreTally _ _ _).trans hbefore, (tally_restoreTally (hbefore ▸ h)).trans hbefore⟩
    fun a ⟨hstart, htally⟩ t _ => ⟨(stepStart_restoreTally a t k).trans hstart, ?_⟩).2
  by_cases hkt : k = t
  · subst hkt
    exact (tally_restoreTally (hstart ▸ h)).trans hstart
  · exact (tally_restoreTally_ne hkt).trans htally

/-- The new step-start copy leaves a tally whose FLAGSEEN is clear. -/
theorem tally_copyStart (hf : (tally s k).flagseen = false) (h : tally s k ≠ Tally.none) : tally (copyStart p s) k = tally s k := by
  rw [copyStart_eq]
  exact List.foldlRecOn (motive := fun a => tally a k = tally s k) _ _ rfl
    fun a ha t _ => (tally_copyTally (ha ▸ hf) (ha ▸ h)).trans ha

end live

/-! ## The end of an undo under RED (R131, R217, R221) -/

/-- The state at the end of an undo, the tallies restored and copied and its cue still to leave. -/
def undoEnded (p : Nat) (u : UndoRun) (s : State) : State :=
  copyStart p (restoreTallies p { s with tree := { s.tree with undos := s.tree.undos.filter fun v => v != u } })

theorem undoEnded_frame (p : Nat) (u : UndoRun) (s : State) : undoEnded p u s =
    { s with tree := { s.tree with undos := s.tree.undos.filter fun v => v != u }, tly := (undoEnded p u s).tly } :=
  (copyStart_tlyOnly _ _).trans (restoreTallies_tlyOnly _ _)

theorem tally_undoEnded {s : State} {p k : Nat} (u : UndoRun) (hk : k ∈ liveTallies s p) (h : stepStart s k ≠ Tally.none) :
    tally (undoEnded p u s) k = stepStart s k := by
  have hrestored : tally (restoreTallies p { s with tree := { s.tree with undos := s.tree.undos.filter fun v => v != u } }) k
      = stepStart s k := tally_restoreTallies hk h
  rw [undoEnded, tally_copyStart (by rw [hrestored]; rfl) (by rw [hrestored]; exact h), hrestored]

/-- With no span cue scheduled and nothing waiting for it, the cue of an undo is held or leaves. -/
theorem undoComplete_alone {s : State} {p : Nat} {u : UndoRun} (hfind : s.tree.undos.find? (fun v => v.part == p) = some u)
    (hw : u.waiting = []) (hl : u.later = []) (hsched : s.fab.sched = []) :
    undoComplete p s =
      holdOrRelease u.at_ { u.cue with profile := pickProfile s u.cue.slot } u.decT (undoEnded p u s) := by
  have hprofile : pickProfile (undoEnded p u s) u.cue.slot = pickProfile s u.cue.slot := by
    rw [undoEnded_frame]
    rfl
  have hnone : (undoEnded p u s).fab.sched = [] := by
    rw [undoEnded_frame]
    exact hsched
  simp only [undoEnded] at hprofile hnone
  simp only [undoComplete, undoEnded, hfind, hw, hl, List.foldl_nil, hprofile, hnone, List.find?_nil]

/-- A cue that must be held joins the list of held cues, counted. -/
theorem holdOrRelease_held {s : State} {at_ : Place} {c : Cue} {t : Nat} (h : mustHold s c = true) :
    ∃ pw cy, holdOrRelease at_ c t s = { s with
      tree := { s.tree with held := s.tree.held ++
        [{ at_ := at_, cue := c, since := (houseNow s).toNat, decT := t, placed := false, due := false }] }, pwr := pw, cyc := cy } := by
  rw [holdOrRelease, if_pos h, rcBefore_frame]
  exact ⟨_, _, rfl⟩

/-- Where that cue must be held, nothing else of the tree changes than the undos and the held cues. -/
theorem undoComplete_held {s : State} {p : Nat} {u : UndoRun} (hfind : s.tree.undos.find? (fun v => v.part == p) = some u)
    (hw : u.waiting = []) (hl : u.later = []) (hsched : s.fab.sched = []) (hmust : mustHold s u.cue = true) :
    let t := undoComplete p s
    t.tree = { s.tree with
        undos := s.tree.undos.filter fun v => v != u
        held := s.tree.held ++ [{ at_ := u.at_, cue := { u.cue with profile := pickProfile s u.cue.slot },
                                  since := (houseNow s).toNat, decT := u.decT, placed := false, due := false }] }
      ∧ t.tly = (undoEnded p u s).tly ∧ t = { s with tree := t.tree, tly := t.tly, pwr := t.pwr, cyc := t.cyc } := by
  have hhold : mustHold (undoEnded p u s) { u.cue with profile := pickProfile s u.cue.slot } = true := by
    rw [undoEnded_frame]
    exact hmust
  obtain ⟨pw, cy, hheld⟩ := holdOrRelease_held (at_ := u.at_) (t := u.decT) hhold
  rw [undoComplete_alone hfind hw hl hsched, hheld, undoEnded_frame]
  exact ⟨rfl, rfl, rfl⟩

/-! ## The obligation -/

/-- Settles O31: the host member's completion is that of a descriptor; an undo that nothing waits for ends in the holding of its cue. -/
theorem cueEndsHostCallAndUndo : Obligations.CueEndsHostCallAndUndo := by
  intro s c x p k u hslot hp
  refine ⟨fun hfind => completes_answer.mpr ⟨decide_eq_true hslot, ?_⟩,
    fun hfind hw hl hmust hsched => completes_answer.mpr ⟨decide_eq_true hp, ?_⟩⟩
  · simp only [hostCallCompletion, hfind]
    exact complete_spec x _ _
  · obtain ⟨htree, htly, hframe⟩ := undoComplete_held hfind hw hl hsched hmust
    exact ⟨by rw [htree], by rw [htree], fun hk h => (tally_congr htly k).trans (tally_undoEnded u hk h), hframe⟩

end Sys2Proof.Machine

/-! PROOFS. The undo of a step: a pipeline's last journal entry taken back, and the end of the last pipeline. -/

namespace Sys2Proof.Machine

/-! ## Journals -/

theorem journal_setJournal {p : Nat} {x : Journal} {s : State} (h : x ≠ noJournal) : journal (setJournal p x s) p = x :=
  Tbl.get_set_self _ _ _ _ h

theorem lastOf_nil (pipe : Nat) : lastOf pipe [] = none := rfl

section pair
variable {pipe : Nat} {k j : JEntry} (hk : pipeOf k.obj = pipe) (hj : pipeOf j.obj = pipe)
include hk hj

theorem lastOf_pair : lastOf pipe [k, j] = some j := by simp [lastOf, hk, hj]

theorem eraseLast_pair : eraseLast pipe [k, j] = [k] := by simp [eraseLast, hk, hj]

end pair

/-- While an entry of the pipeline stands first in the journal the pipeline has something left to undo. -/
theorem undoLeft_ne_zero {s : State} {p pipe : Nat} {k : JEntry} {l : List JEntry} (h : (journal s p).entries = k :: l)
    (hk : pipeOf k.obj = pipe) : undoLeft s p pipe ≠ 0 := by
  simp [undoLeft, h, hk]

/-! ## One entry taken back (R219, Table FLT-4) -/

theorem undoEntry_value {j : JEntry} (h : j.type = jtVALUE) (s : State) :
    undoEntry j s = setObj j.tok j.obj { obj s j.tok j.obj with val := j.data } s := if_pos (.inl h)

/-- What an undo has changed is noted among the home's own lists alone. -/
theorem noteChanged_frame (pipe : Nat) (j : JEntry) (s : State) :
    noteChanged pipe j s = { s with home := { s.home with changed := (noteChanged pipe j s).home.changed } } := by
  unfold noteChanged
  split <;> rfl

section step
variable {s : State} {p pipe : Nat} (hrun : (p, pipe) ∈ s.home.undoing) (hstate : (part s p).state ≠ .resetting)
include hrun hstate

/-- A step of an undo under way with an entry left. -/
theorem undoStep_entry {j : JEntry} (hlast : lastOf pipe (journal s p).entries = some j) :
    undoStep p pipe s =
      let s1 := noteChanged pipe j
        (undoEntry j (setJournal p { journal s p with entries := eraseLast pipe (journal s p).entries } s))
      if undoLeft s1 p pipe = 0 then undoPipeEnd p pipe s1 else s1 := by
  simp [undoStep, hstate, hrun, hlast]

/-- A step of an undo under way with no entry left. -/
theorem undoStep_empty (hlast : lastOf pipe (journal s p).entries = none) : undoStep p pipe s = undoPipeEnd p pipe s := by
  simp [undoStep, hstate, hrun, hlast]

/-- The later of a pipeline's two entries, of a value, is taken back; the pipeline's undo goes on. -/
theorem undoStep_value {k j : JEntry} (hentries : (journal s p).entries = [k, j]) (hj : pipeOf j.obj = pipe)
    (hk : pipeOf k.obj = pipe) (htype : j.type = jtVALUE) :
    undoStep p pipe s = noteChanged pipe j (setObj j.tok j.obj { obj s j.tok j.obj with val := j.data }
      (setJournal p { journal s p with entries := [k] } s)) := by
  have hlast : lastOf pipe (journal s p).entries = some j := by rw [hentries, lastOf_pair hk hj]
  rw [undoStep_entry hrun hstate hlast, hentries, eraseLast_pair hk hj, undoEntry_value htype]
  refine if_neg (undoLeft_ne_zero (k := k) (l := []) ?_ hk)
  rw [noteChanged_frame]
  exact congrArg Journal.entries (journal_setJournal (by simp [noJournal]))

end step

/-! ## The end of an undo (R219, R221) -/

theorem passNext_agendaOnly (tok : Bool) (i : Nat) (s : State) : AgendaOnly (passNext tok i s) s := by
  unfold passNext
  split <;> rfl

/-- What a curtain or an undo held back is only asked for again. -/
theorem homeResume_agendaOnly (p : Nat) (s : State) : AgendaOnly (homeResume p s) s := by
  refine AgendaOnly.trans (List.foldlRecOn (motive := fun a => AgendaOnly a _) _ _ rfl fun a ha w _ => AgendaOnly.trans (t := a) rfl ha)
    (List.foldlRecOn (motive := fun a => AgendaOnly a s) _ _ rfl fun a ha q _ => (passNext_agendaOnly _ _ a).trans ha)

/-- The end of a partition's undo opens its journal and crosses to the root. -/
theorem undoEnd_spec (p : Nat) (s : State) :
    journal (undoEnd p s) p = { journal s p with opened := true }
      ∧ (∃ a ∈ (undoEnd p s).agenda, a.clk = .tclk ∧ a.ev = .undoComplete p)
      ∧ undoEnd p s = { s with journals := (undoEnd p s).journals, agenda := (undoEnd p s).agenda, free := (undoEnd p s).free } := by
  refine ⟨?_, ⟨_, List.mem_append_right _ (List.mem_singleton_self _), rfl, rfl⟩, rfl⟩
  exact journal_setJournal (x := { journal s p with opened := true }) (by simp [noJournal])

/-- Where one pipeline alone still undid, and nothing it changed is noted, its end is the end of the undo. -/
theorem undoPipeEnd_last {s : State} {p pipe : Nat} (hone : s.home.undoing = [(p, pipe)]) (hchanged : s.home.changed = []) :
    undoPipeEnd p pipe s = undoEnd p (homeResume p { s with home := { s.home with undoing := [], changed := [] } }) := by
  have hruns : undoRuns (homeResume p { s with home := { s.home with undoing := [], changed := [] } }) p = false := by
    rw [undoRuns, homeResume_agendaOnly]
    rfl
  simp only [undoPipeEnd, hone, hchanged, List.filter_cons, List.filter_nil, bne_self_eq_false, Bool.false_eq_true, if_false,
    List.foldl_nil, hruns]

/-! ## The obligation -/

/-- Settles O22: the later of two entries leaves the journal with its value put back; without entries the pipeline's end is the
undo's. -/
theorem undoRestoresTheLastEntry : Obligations.UndoRestoresTheLastEntry := by
  intro s p pipe j k hp hpipe hone hstate
  have hrun : (p, pipe) ∈ s.home.undoing := by simp [hone]
  have hok : decide (p < 64 ∧ pipe < 4) = true := decide_eq_true ⟨hp, hpipe⟩
  refine ⟨fun hentries hj hk htype => completes_answer.mpr ⟨hok, ?_⟩, fun hentries hchanged => completes_answer.mpr ⟨hok, ?_⟩,
    fun hnone => ?_⟩
  · rw [undoStep_value hrun hstate hentries hj hk htype, noteChanged_frame]
    exact ⟨rfl, congrArg Journal.entries (journal_setJournal (by simp [noJournal])), rfl, rfl, rfl, rfl⟩
  · rw [undoStep_empty hrun hstate (by rw [hentries, lastOf_nil]), undoPipeEnd_last hone hchanged]
    obtain ⟨hjournal, hcross, hframe⟩ := undoEnd_spec p (homeResume p { s with home := { s.home with undoing := [], changed := [] } })
    refine ⟨?_, hjournal.trans ?_, hcross, ?_, ?_, ?_⟩
    · rw [hframe, homeResume_agendaOnly]
    · rw [journal, homeResume_agendaOnly]
      rfl
    all_goals rw [hframe, homeResume_agendaOnly]
  · refine (answer_of hp _).trans (congrArg _ ?_)
    simp only [undoComplete, hnone]

end Sys2Proof.Machine

/-! PROOFS. The audit draw pushed to the stirrups of a partition (R224). -/

namespace Sys2Proof.Machine

/-- The word a stirrup's stall makes of a draw: FRAC, raised to the recipe's floor and, for one of its targets, to its fraction. -/
def drawWord (f : Faults) (frac : Nat) (d : BitVec 29) (st : Nat) : W32 :=
  BitVec.ofNat 32 (max frac (max f.floor (if f.target.getLsbD st then f.tfrac else 0)) % 8 * 2 ^ 29 + d.toNat)

/-- One stirrup takes the draw. -/
def takeDraw (frac : Nat) (d : BitVec 29) (a : State) (st : Nat) : State :=
  updStir st (fun x => { x with pushed := drawWord a.flt frac d st }) a

theorem auditPush_eq (p : Nat) (d : BitVec 29) (s : State) :
    auditPush p d s = (assignedOf s p).foldl (takeDraw (fld s (verdKey p) 6 4) d) s := rfl

section take
variable {frac : Nat} {d : BitVec 29} {l : List Nat} {s : State} {st : Nat}

theorem takeDraw_frame (frac : Nat) (d : BitVec 29) (s : State) (st : Nat) :
    takeDraw frac d s st = { s with stirs := (takeDraw frac d s st).stirs } := rfl

theorem stir_takeDraw_ne {u : Nat} (h : st ≠ u) : stir (takeDraw frac d s u) st = stir s st := Tbl.get_set_ne _ _ _ _ _ h

/-- A stirrup with a role holds what it takes. -/
theorem stir_takeDraw (h : wAssigned (stir s st).role = true) :
    stir (takeDraw frac d s st) st = { stir s st with pushed := drawWord s.flt frac d st } :=
  stir_setStir (ne_initial_of_assigned (x := { stir s st with pushed := drawWord s.flt frac d st }) h)

theorem takeDraws_frame (frac : Nat) (d : BitVec 29) (l : List Nat) (s : State) :
    l.foldl (takeDraw frac d) s = { s with stirs := (l.foldl (takeDraw frac d) s).stirs } :=
  List.foldlRecOn (motive := fun (a : State) => a = { s with stirs := a.stirs }) l _ rfl fun a ha st _ => by
    rw [takeDraw_frame, ha]

theorem stir_takeDraws_other (h : st ∉ l) : stir (l.foldl (takeDraw frac d) s) st = stir s st :=
  List.foldlRecOn (motive := fun a => stir a st = stir s st) l _ rfl
    fun _ ha _ hu => (stir_takeDraw_ne (ne_of_mem_of_not_mem hu h).symm).trans ha

/-- A stirrup listed once takes the draw in its turn, and keeps it. -/
theorem stir_takeDraws (hl : l.Nodup) (h : st ∈ l) (hrole : wAssigned (stir s st).role = true) :
    stir (l.foldl (takeDraw frac d) s) st = { stir s st with pushed := drawWord s.flt frac d st } := by
  obtain ⟨before, after, rfl⟩ := List.append_of_mem h
  obtain ⟨-, hafter, hdisjoint⟩ := List.nodup_append.mp hl
  have hbefore : st ∉ before := fun hm => hdisjoint st hm st (List.mem_cons_self) rfl
  have hstir : stir (before.foldl (takeDraw frac d) s) st = stir s st := stir_takeDraws_other hbefore
  rw [List.foldl_append, List.foldl_cons, stir_takeDraws_other (List.nodup_cons.mp hafter).1,
    stir_takeDraw (hstir.symm ▸ hrole), hstir, takeDraws_frame]

end take

theorem assignedOf_nodup (s : State) (p : Nat) : (assignedOf s p).Nodup := List.nodup_range.filter _

/-! ## The obligation -/

/-- Settles O30: the push is one taking of the draw for each assigned stirrup. -/
theorem auditDrawReachesAssignedStirrups : Obligations.AuditDrawReachesAssignedStirrups := by
  intro s p d hp
  refine completes_answer.mpr ⟨decide_eq_true hp, ?_⟩
  rw [auditPush_eq]
  refine ⟨fun st hst hrole => ?_, fun st hst => stir_takeDraws_other hst, takeDraws_frame _ _ _ _⟩
  rw [stir_takeDraws (assignedOf_nodup s p) hst hrole]
  rfl

end Sys2Proof.Machine

/-! PROOFS. Records of the fault manager: counted, logged or lost, signed, and attributed to their parts. -/

namespace Sys2Proof.Machine

/-! ## RC counters of a cycle (R17) -/

/-- What a cycle keeps of an RC register does not hang on the fault manager's state. -/
theorem rcBefore_flt (off : Nat) (old : W32) (f : Faults) (s : State) :
    rcBefore off old { s with flt := f } = { s with flt := f, cyc := (rcBefore off old s).cyc } := by
  unfold rcBefore
  split <;> rfl

/-! ## The parts of the fault manager's state a record changes (R230 to R232) -/

/-- A record of type `t` counted. -/
def Faults.counted (f : Faults) (t : Nat) : Faults := { f with cnt := Tbl.set 0 t (Tbl.get 0 f.cnt t + 1) f.cnt }

/-- The record made of a report. -/
def Faults.recordOf (f : Faults) (r : Report) : FaultRec := { rep := r, seq := f.seq, sev := sevOf r.type }

/-- Its sequence number taken, and a last-gasp register filled where it is of SEV 3 and one is free. -/
def Faults.taken (f : Faults) (r : Report) : Faults :=
  { f with seq := f.seq + 1, gasp := if sevOf r.type = 3 ∧ f.gasp.length < 4 then f.gasp ++ [f.recordOf r] else f.gasp }

/-- The record in the log at HEAD. -/
def Faults.logged (f : Faults) (r : Report) : Faults :=
  { f.taken r with log := Tbl.insert (f.head.toNat % 2048) (f.recordOf r) f.log, head := f.head + 1 }

theorem gasp_eq (x : FaultRec) (s : State) :
    gasp x s = { s with flt := { s.flt with gasp := if x.sev = 3 ∧ s.flt.gasp.length < 4 then s.flt.gasp ++ [x] else s.flt.gasp } } := by
  unfold gasp
  split <;> rfl

/-- A record enters the log, or is lost where there is no room. -/
theorem writeRecord_eq (r : Report) (s : State) : writeRecord r s =
    if s.flt.logMem || logFull s then rcBefore 0x4810 s.flt.lost { s with flt := { s.flt.taken r with lost := s.flt.lost + 1 } }
    else { s with flt := s.flt.logged r } := by
  simp only [writeRecord, gasp_eq]
  rfl

theorem countType_eq (t : Nat) (s : State) : countType t s =
    { s with flt := s.flt.counted t, cyc := (rcBefore (0x4A00 + 4 * t) (Tbl.get 0 s.flt.cnt t) s).cyc } := rcBefore_flt _ _ _ _

/-! ## What a record leaves -/

/-- Nothing but the fault manager's state and its cycle's counters has changed, and of it neither the attribution records nor STEPS. -/
structure OnlyRecords (t s : State) : Prop where
  frame : t = { s with flt := t.flt, cyc := t.cyc }
  attr : t.flt.attr = s.flt.attr
  steps : t.flt.steps = s.flt.steps

theorem OnlyRecords.refl (s : State) : OnlyRecords s s := ⟨rfl, rfl, rfl⟩

theorem OnlyRecords.trans {u t s : State} (h : OnlyRecords u t) (g : OnlyRecords t s) : OnlyRecords u s :=
  ⟨by rw [h.frame, g.frame], h.attr.trans g.attr, h.steps.trans g.steps⟩

theorem countType_onlyRecords (t : Nat) (s : State) : OnlyRecords (countType t s) s := by
  rw [countType_eq]
  exact ⟨rfl, rfl, rfl⟩

theorem writeRecord_onlyRecords (r : Report) (s : State) : OnlyRecords (writeRecord r s) s := by
  rw [writeRecord_eq, rcBefore_flt]
  split <;> exact ⟨rfl, rfl, rfl⟩

theorem pushSignature_onlyRecords (r : Report) (s : State) : OnlyRecords (pushSignature r s) s := by
  simp only [pushSignature, rcBefore_flt]
  split <;> exact ⟨rfl, rfl, rfl⟩

theorem produce_onlyRecords (r : Report) (s : State) : OnlyRecords (produce r s) s := by
  have hcount := countType_onlyRecords r.type s
  have hwrite (t : State) (h : OnlyRecords t s) : OnlyRecords (if signs r then pushSignature r (writeRecord r t) else writeRecord r t) s := by
    split
    · exact (pushSignature_onlyRecords _ _).trans ((writeRecord_onlyRecords _ _).trans h)
    · exact (writeRecord_onlyRecords _ _).trans h
  simp only [produce]
  split
  · exact hcount
  · refine hwrite _ ?_
    split
    · exact OnlyRecords.trans (t := countType r.type s) ⟨rfl, rfl, rfl⟩ hcount
    · exact hcount

/-! ## Records that are written (R230, R233) -/

/-- A record may enter the log. -/
def LogRoom (s : State) : Prop := s.flt.logMem = false ∧ logFull s = false

/-- None may: the log is full, or its memory has failed. -/
def LogShut (s : State) : Prop := s.flt.logMem = true ∨ logFull s = true

/-- A record is counted and enters the log. -/
def recorded (r : Report) (s : State) : State :=
  { s with flt := (s.flt.counted r.type).logged r, cyc := (rcBefore (0x4A00 + 4 * r.type) (Tbl.get 0 s.flt.cnt r.type) s).cyc }

theorem writeRecord_room {s : State} (h : LogRoom s) (r : Report) : writeRecord r s = { s with flt := s.flt.logged r } := by
  obtain ⟨hmem, hfull⟩ := h
  rw [writeRecord_eq, if_neg (by simp [hmem, hfull])]

theorem writeRecord_shut {s : State} (h : LogShut s) (r : Report) : writeRecord r s =
    { s with flt := { s.flt.taken r with lost := s.flt.lost + 1 }, cyc := (rcBefore 0x4810 s.flt.lost s).cyc } := by
  rw [writeRecord_eq, if_pos (by simpa [LogShut] using h), rcBefore_flt]

theorem LogRoom.recorded {s : State} (h : LogRoom s) (r : Report) : writeRecord r (countType r.type s) = recorded r s := by
  rw [countType_eq]
  exact writeRecord_room (s := { s with flt := s.flt.counted r.type, cyc := (rcBefore (0x4A00 + 4 * r.type) _ s).cyc }) h r

theorem LogShut.countType {s : State} (h : LogShut s) (t : Nat) : LogShut (countType t s) := by
  rw [countType_eq]
  exact h

section produce
variable {r : Report} {s : State}

theorem tooSoon_countType (r : Report) (s : State) : tooSoon (countType r.type s) r = tooSoon s r := by
  rw [countType_eq]
  rfl

/-- A type that is always written. -/
theorem produce_written (h : r.type ≠ 0x10) : produce r s =
    if signs r then pushSignature r (writeRecord r (countType r.type s)) else writeRecord r (countType r.type s) := by
  have hsoon : tooSoon (countType r.type s) r = false := by simp [tooSoon, h]
  simp only [produce, hsoon, h, Bool.false_eq_true, if_false]

/-- A corrected error within a millisecond of its source's last is counted only. -/
theorem produce_tooSoon (h : tooSoon s r = true) : produce r s = countType r.type s := if_pos (tooSoon_countType r s ▸ h)

/-- A later one enters the log, and its time is kept for its source. -/
theorem produce_corrected (htype : r.type = 0x10) (hsoon : tooSoon s r = false) (hroom : LogRoom s) :
    produce r s = { recorded r s with
      flt := { (recorded r s).flt with corrAt := Tbl.insert (r.unit * 4096 + r.index) r.house.toNat s.flt.corrAt } } := by
  have hsigns : signs r = false := by simp [signs, htype]
  have hnot : tooSoon (countType r.type s) r = false := tooSoon_countType r s ▸ hsoon
  simp only [produce, hnot, hsigns, if_pos htype, Bool.false_eq_true, if_false]
  rw [countType_eq, writeRecord_room]
  · rfl
  · exact hroom

theorem pushSignature_room {t : State} (h : t.flt.exports.length < 32) (r : Report) : pushSignature r t =
    { t with
      flt := { t.flt with exports := t.flt.exports ++ [{
        dieId := dieId t, serial := t.boot.fuses.serial, house := r.house, type := r.type, unit := r.unit, index := r.index,
        steps := t.flt.steps.toNat, stamps := signStamps t r, n := t.house.n, budget := t.pwr.budget.toNat }] }
      cyc := { t.cyc with exports := t.cyc.exports + 1 } } := if_neg (by omega)

theorem pushSignature_full {t : State} (h : 32 ≤ t.flt.exports.length) (r : Report) : pushSignature r t =
    { t with flt := { t.flt with expLost := t.flt.expLost + 1 }, cyc := (rcBefore 0x1_0014 t.flt.expLost t).cyc } := by
  rw [pushSignature, if_pos h, rcBefore_flt]

end produce

/-! ## Attribution (R226, R227) -/

theorem attr_setAttr {i : Nat} {x : Attr} {s : State} (h : x ≠ Attr.none) : attr (setAttr i x s) i = x := Tbl.get_set_self _ _ _ _ h

theorem attrRecord_onlyRecords (type i n : Nat) (s : State) : OnlyRecords (attrRecord type i n s) s := produce_onlyRecords _ _

/-- The thresholds mark the record, keep its stamps, and tell of it by records. -/
theorem judgeAttr_marks (i : Nat) (was : Bool × Bool) (s : State) :
    ∃ x : Attr, x.stamps = (attr s i).stamps ∧ OnlyRecords (judgeAttr i was s) (setAttr i x s) := by
  refine ⟨{ attr s i with
    margined := (attr s i).margined || (!was.1 && (overs s (attr s i)).1)
    retire := (attr s i).retire || (!was.2 && (overs s (attr s i)).2) }, rfl, ?_⟩
  simp only [judgeAttr]
  split <;> split
  · exact (attrRecord_onlyRecords _ _ _ _).trans ((attrRecord_onlyRecords _ _ _ _).trans ⟨rfl, rfl, rfl⟩)
  · exact attrRecord_onlyRecords _ _ _ _
  · exact (attrRecord_onlyRecords _ _ _ _).trans ⟨rfl, rfl, rfl⟩
  · exact .refl _

/-- A part's record with the present step count before its latest stamps. -/
def stamped (i : Nat) (s : State) : Attr := { attr s i with stamps := (s.flt.steps.toNat :: (attr s i).stamps).take 8 }

theorem stamped_stamps_ne_nil (i : Nat) (s : State) : (stamped i s).stamps ≠ [] := by simp [stamped]

theorem ne_none_of_stamps {x : Attr} (h : x.stamps ≠ []) : x ≠ Attr.none := fun hx => h (congrArg Attr.stamps hx)

/-- A stamp is kept whatever the thresholds then mark. -/
theorem stamp_spec (i : Nat) (s : State) :
    (attr (stamp i s) i).stamps = (stamped i s).stamps ∧ stamp i s = { s with flt := (stamp i s).flt, cyc := (stamp i s).cyc } := by
  have hne := stamped_stamps_ne_nil i s
  obtain ⟨y, hstamps, honly⟩ := judgeAttr_marks i (overs s (attr s i)) (setAttr i (stamped i s) s)
  rw [attr_setAttr (ne_none_of_stamps hne)] at hstamps
  have hattr : attr (stamp i s) i = attr (setAttr i y (setAttr i (stamped i s) s)) i := congrArg (Tbl.get Attr.none · i) honly.attr
  rw [hattr, attr_setAttr (ne_none_of_stamps (hstamps ▸ hne))]
  exact ⟨hstamps, honly.frame⟩

/-! ## Reports (R226, R230) -/

section report
variable {r : Report} {s : State}

/-- A report of a type that is not attributed is a record. -/
theorem faultReport_record (hv : r.type ≠ votesType) (h : ¬(r.type = 0x11 ∨ r.type = 0x14)) : faultReport r s = produce r s := by
  simp only [faultReport, hv, h, if_false]

/-- A slot error is a record, and stamps its node. -/
theorem faultReport_slot (h : r.type = 0x11) :
    (attr (faultReport r s) (2048 + r.index)).stamps = (stamped (2048 + r.index) s).stamps
      ∧ faultReport r s = { s with flt := (faultReport r s).flt, cyc := (faultReport r s).cyc } := by
  have hslot : faultReport r s = stamp (2048 + r.index) (produce r s) := by simp [faultReport, h, votesType]
  obtain ⟨hframe, hattr, hsteps⟩ := produce_onlyRecords r s
  have hstamped : stamped (2048 + r.index) (produce r s) = stamped (2048 + r.index) s := by simp only [stamped, attr, hattr, hsteps]
  obtain ⟨hstamps, hstamp⟩ := stamp_spec (2048 + r.index) (produce r s)
  rw [hslot, ← hstamped]
  exact ⟨hstamps, hstamp.trans (by rw [hframe])⟩

/-- A vote report that names the host as DETECTED alone stamps the host member. -/
theorem faultReport_hostVote (htype : r.type = votesType) (hindex : r.index = 147) (hdetail : r.detail = [1, 0]) :
    faultReport r s = stamp 2195 s := by
  simp [faultReport, htype, attributeVotes, hindex, hdetail, votedParts]

end report

/-! ## What each kind of report leaves -/

/-- A report whose record is counted and written, and no more (Table FLT-11, R233). -/
def Plain (r : Report) : Prop := reportOk r = true ∧ r.type < 32 ∧ r.type ≠ 0x10 ∧ signs r = false

section kinds
variable {r : Report} {s : State}

theorem Plain.faultReport (h : Plain r) (s : State) : faultReport r s = writeRecord r (countType r.type s) := by
  obtain ⟨-, hlt, hcorr, hsigns⟩ := h
  have hslot : ¬(r.type = 0x11 ∨ r.type = 0x14) := by
    simp only [signs, List.contains_eq_mem, Bool.or_eq_false_iff, decide_eq_false_iff_not] at hsigns
    rintro (h | h) <;> exact hsigns.1 (by simp [h])
  rw [faultReport_record (by simp only [votesType]; omega) hslot, produce_written hcorr, hsigns, if_neg Bool.false_ne_true]

/-- The thresholds' own records are signed. -/
theorem faultReport_threshold (h : r.type = 0x16 ∨ r.type = 0x17) (s : State) :
    faultReport r s = pushSignature r (writeRecord r (countType r.type s)) := by
  have hsigns : signs r = true := by rcases h with h | h <;> simp [signs, h]
  rw [faultReport_record (by simp only [votesType]; omega) (by omega), produce_written (by omega), if_pos hsigns]

theorem signStamps_threshold (h : r.type = 0x16 ∨ r.type = 0x17) (s : State) : signStamps s r = r.detail.getD 0 0 := by
  rcases h with h | h <;> simp [signStamps, h]

theorem faultReport_corrected (h : r.type = 0x10) (s : State) : faultReport r s = produce r s :=
  faultReport_record (by simp [h, votesType]) (by simp [h])

end kinds

/-! ## Registers of the log (R230, R232, R233, R327) -/

theorem fltTailWrite_within {s : State} {v : W32} (h : (s.flt.head - v.setWidth 12).toNat ≤ (s.flt.head - s.flt.tail).toNat) :
    fltTailWrite v s = { s with flt := { s.flt with tail := v.setWidth 12 } } := if_pos h

theorem fltTailWrite_beyond {s : State} {v : W32} (h : (s.flt.head - s.flt.tail).toNat < (s.flt.head - v.setWidth 12).toNat) :
    fltTailWrite v s = mgrAccess 0x480C v.toNat 0x230 s := if_neg (by omega)

theorem attrClear_ok {index : Nat} (h : attrOk index = true) (s : State) : attrClear index s = setAttr index Attr.none s := if_pos h

theorem attrClear_bad {index : Nat} (h : attrOk index = false) (s : State) :
    attrClear index s = mgrAccess 0x484C (2 ^ 31 + index) 14 s := if_neg (by simp [h])

theorem exportPop_old {s : State} (h : s.cyc.exports < s.flt.exports.length) :
    exportPop s = { s with flt := { s.flt with exports := s.flt.exports.drop 1 } } := if_neg (by omega)

theorem exportPop_new {s : State} (h : s.flt.exports.length ≤ s.cyc.exports) : exportPop s = s := if_pos h

/-! ## The obligation -/

/-- Settles O43: a report is a record counted, written and signed by its type; a write of a port answers the state of its rule. -/
theorem recordsEnterTheLog : Obligations.RecordsEnterTheLog := by
  intro s r v index
  refine ⟨?_, ?_, ?_, ?_, ?_, ?_, ?_, ?_, ?_, ?_, ?_, ?_, ?_, ?_, ?_, ?_⟩
  · intro hplain hroom
    exact answer_next.mpr ⟨hplain.1, (Plain.faultReport hplain s).trans (LogRoom.recorded hroom r)⟩
  · intro hplain hshut
    refine completes_answer.mpr ⟨hplain.1, ?_⟩
    rw [Plain.faultReport hplain, writeRecord_shut (LogShut.countType hshut r.type), countType_eq]
    exact ⟨rfl, rfl⟩
  · intro hok hroom htype hlen
    refine completes_answer.mpr ⟨hok, ?_⟩
    rw [faultReport_threshold htype, LogRoom.recorded hroom, pushSignature_room (t := recorded r s) hlen, signStamps_threshold htype]
    exact ⟨rfl, rfl⟩
  · intro hok hroom htype hlen
    refine completes_answer.mpr ⟨hok, ?_⟩
    rw [faultReport_threshold htype, LogRoom.recorded hroom, pushSignature_full (t := recorded r s) hlen]
    exact ⟨rfl, rfl⟩
  · intro hok htype hsoon
    refine answer_next.mpr ⟨hok, ?_⟩
    rw [faultReport_corrected htype, produce_tooSoon hsoon, countType_eq]
    rfl
  · intro hok htype hsoon hroom
    exact answer_next.mpr ⟨hok, (faultReport_corrected htype s).trans (produce_corrected htype hsoon hroom)⟩
  · intro hok htype
    exact completes_answer.mpr ⟨hok, faultReport_slot htype⟩
  · intro hok htype hindex hdetail
    refine completes_answer.mpr ⟨hok, ?_⟩
    rw [faultReport_hostVote htype hindex hdetail]
    exact stamp_spec 2195 s
  · intro hreset hindex
    exact ⟨congrArg _ (regWrite_reset hreset _), congrArg _ (regWrite_reset hreset _), congrArg _ (regWrite_reset hreset _),
      (answer_of hindex _).trans (congrArg _ (regWrite_reset hreset _))⟩
  · intro hlive h
    exact congrArg _ ((regWrite_live hlive _).trans (fltTailWrite_within h))
  · intro hlive h
    refine completes_regWrite hlive ?_
    rw [fltTailWrite_beyond h]
    exact mgrAccess_told _ _ _ _
  · intro hlive
    exact congrArg _ (regWrite_live hlive _)
  · intro hlive hindex h
    exact (answer_of hindex _).trans (congrArg _ ((regWrite_live hlive _).trans (attrClear_ok h s)))
  · intro hlive hindex h
    refine completes_answer.mpr ⟨decide_eq_true hindex, ?_⟩
    rw [regWrite_live hlive, attrClear_bad h]
    exact mgrAccess_told _ _ _ _
  · intro hlive h
    exact congrArg _ ((regWrite_live hlive _).trans (exportPop_old h))
  · intro hlive h
    exact congrArg _ ((regWrite_live hlive _).trans (exportPop_new h))

end Sys2Proof.Machine

/-! PROOFS. Recipes and debug tokens as they are judged, and the ends of an authorisation. -/

namespace Sys2Proof.Machine

/-! ## What a recipe's acceptance changes (R227, R234) -/

/-- Only registers in force, the fault manager's state, its cycle's counters and the set-up ports have changed. -/
def RecipeFrame (t s : State) : Prop := t = { s with force := t.force, flt := t.flt, cyc := t.cyc, su := t.su }

theorem RecipeFrame.trans {u t s : State} (h : RecipeFrame u t) (g : RecipeFrame t s) : RecipeFrame u s := by
  unfold RecipeFrame at *
  rw [h, g]

theorem RecipeFrame.houseNow {t s : State} (h : RecipeFrame t s) : houseNow t = houseNow s := by
  rw [h]
  rfl

theorem judgeAttr_frame (i : Nat) (was : Bool × Bool) (s : State) : RecipeFrame (judgeAttr i was s) s := by
  obtain ⟨x, -, honly⟩ := judgeAttr_marks i was s
  rw [honly.frame]
  rfl

/-- New thresholds are judged on every record. -/
theorem rejudge_frame {f : State → State} {s : State} (hf : RecipeFrame (f s) s) : RecipeFrame (rejudge f s) s :=
  List.foldlRecOn (motive := fun a => RecipeFrame a s) _ _ hf fun a ha i _ => (judgeAttr_frame i _ a).trans ha

/-- An accepted recipe: its sequence kept, its values staged, the die-wide request pending. -/
theorem acceptRecipe_spec (sq : Nat) (r : Recipe) (mn rn wd : Option Nat) (s : State) :
    let t := acceptRecipe sq r mn rn wd s
    t.flt.rcpSeq = BitVec.ofNat 32 sq ∧ t.flt.rcpStaged.isSome = true ∧ t.su.dwPending = true ∧ RecipeFrame t s := by
  refine ⟨rfl, rfl, rfl, RecipeFrame.trans (t := rejudge _ s) rfl (rejudge_frame ?_)⟩
  split <;> rfl

/-! ## The judgement of a recipe (R234) -/

theorem cborUint_range {m : List (Nat × CborVal)} {k lo hi n : Nat} (h : cborUint m k lo hi = some (some n)) : lo ≤ n ∧ n ≤ hi := by
  unfold cborUint at h
  split at h
  · simp at h
  · split at h
    · next hn =>
      simp only [Option.some.injEq] at h
      exact h ▸ hn
    · cases h
  · cases h

/-- A recipe is accepted with a sequence above the last, or changes nothing. -/
theorem judgeRecipe_spec (msg : List (BitVec 8)) (s : State) :
    (∃ sq r mn rn wd, s.flt.rcpSeq.toNat < sq ∧ sq < 2 ^ 32 ∧ judgeRecipe msg s = (1, acceptRecipe sq r mn rn wd s))
      ∨ ∃ code, code ≠ 1 ∧ judgeRecipe msg s = (code, s) := by
  unfold judgeRecipe
  split
  · exact .inr ⟨6, by decide, rfl⟩
  split
  · exact .inr ⟨4, by decide, rfl⟩
  split
  · exact .inr ⟨4, by decide, rfl⟩
  split
  · exact .inr ⟨2, by decide, rfl⟩
  split
  · next sq sp fl tg tf mn rn wd mine hsq _ _ _ _ _ _ _ _ =>
    split
    · exact .inr ⟨3, by decide, rfl⟩
    · next hlast =>
      split
      · exact .inr ⟨5, by decide, rfl⟩
      · have hrange := (cborUint_range hsq).2
        exact .inl ⟨sq, _, mn, rn, wd, by omega, by omega, rfl⟩
  · exact .inr ⟨4, by decide, rfl⟩

/-- The mailbox's end of a recipe: its result, its record, and what its judgement left. -/
theorem recipe_eq (msg : List (BitVec 8)) (s : State) : recipe msg s =
    mbFinish (if (judgeRecipe msg s).1 = 1 then 1 else 2) (report 0x1A 20 0 none [recipeSeq msg, (judgeRecipe msg s).1]
      { (judgeRecipe msg s).2 with flt := { (judgeRecipe msg s).2.flt with rcpResult := BitVec.ofNat 4 (judgeRecipe msg s).1 } }) := rfl

/-- MB_RESULT is 1 on acceptance and 2 elsewhere. -/
theorem ofNat_result (c : Prop) [Decidable c] : BitVec.ofNat 4 (if c then 1 else 2) = if c then 1#4 else 2#4 := apply_ite _ _ _ _

/-- A record told of in a state of the same house time. -/
theorem Told.of_houseNow {t u s : State} {type unit index : Nat} {p : Option Nat} {d : List Nat} (h : Told t u type unit index p d)
    (hn : houseNow u = houseNow s) : Told t s type unit index p d := by
  unfold Told at *
  rwa [← hn]

/-! ## The judgement of a token (R251) -/

theorem debugToken_told (msg : List (BitVec 8)) (s : State) :
    Told (debugToken msg s) s 0x1A 20 0 none [0, (judgeToken msg s).1] := by
  unfold debugToken
  exact report_told _ _ _ _ _ _

/-- With the debug fuse blown, and in reduced service, no token is accepted. -/
theorem judgeToken_shut {s : State} (h : s.dbg.disabled = true ∨ s.boot.reduced = true) (msg : List (BitVec 8)) :
    (judgeToken msg s).1 ≠ 1 ∧ BitVec.ofNat 4 (judgeToken msg s).1 ≠ 1#4 := by
  unfold judgeToken
  split
  · decide
  · next hfull =>
    rw [if_pos (h.resolve_right hfull)]
    decide

/-! ## The obligation -/

/-- Settles O45: a recipe and a token end by what their judgement answers; the other commands by one write each. -/
theorem recipesAndTokensAreJudged : Obligations.RecipesAndTokensAreJudged := by
  intro s msg
  refine ⟨fun hlive => completes_regWrite hlive ?_, fun hlive => completes_regWrite hlive ?_, fun hlive => ?_,
    fun hlive => congrArg _ (regWrite_live hlive _), fun h => ?_, fun h => ?_, fun hreset => ?_⟩
  · rw [recipe_eq]
    rcases judgeRecipe_spec msg s with ⟨sq, r, mn, rn, wd, hlast, hsq, hj⟩ | ⟨code, hcode, hj⟩
    · obtain ⟨hseq, hstaged, hpending, hframe⟩ := acceptRecipe_spec sq r mn rn wd s
      rw [hj]
      refine ⟨rfl, rfl, rfl, (report_told _ _ _ _ _ _).of_houseNow hframe.houseNow, fun _ => ⟨?_, hstaged, hpending⟩,
        fun hn => absurd rfl hn⟩
      have hnat : (acceptRecipe sq r mn rn wd s).flt.rcpSeq.toNat = sq := by
        rw [hseq, BitVec.toNat_ofNat, Nat.mod_eq_of_lt hsq]
      exact Nat.lt_of_lt_of_eq hlast hnat.symm
    · rw [hj]
      refine ⟨rfl, ?_, rfl, report_told _ _ _ _ _ _, fun h1 => absurd h1 hcode, fun _ => ?_⟩
      · simp only [hcode, if_false]
        rfl
      · simp only [hcode, if_false]
        rfl
  · refine ⟨?_, debugToken_told msg s, fun h1 => ⟨if_pos h1, if_pos h1⟩, fun h1 => ⟨if_neg h1, if_neg h1⟩, fun hshut => ?_, rfl⟩
    · exact congrArg (fun x => { s.su with mbBusy := false, mbResult := x }) (ofNat_result ((judgeToken msg s).1 = 1))
    · obtain ⟨hcode, hresult⟩ := judgeToken_shut hshut msg
      have hdbg : (debugToken msg s).dbg = { s.dbg with
          result := BitVec.ofNat 4 (judgeToken msg s).1, nonceOk := s.dbg.nonceOk && !namesNonce msg s } := if_neg hcode
      rw [hdbg]
      exact ⟨rfl, hresult⟩
  · exact ⟨nonceRead s, congrArg _ (if_neg (by simp [hlive])), rfl, rfl, rfl⟩
  · exact congrArg _ (if_neg (by simp [h]))
  · exact congrArg _ (if_pos h)
  · exact ⟨congrArg _ (regWrite_reset hreset _), congrArg _ (regWrite_reset hreset _), congrArg _ (regWrite_reset hreset _),
      congrArg _ (if_pos hreset)⟩

end Sys2Proof.Machine

/-! PROOFS. A CURTAIN packet at a store of partitions that lists one key twice: what the packet's bytes are counted on is not what its
curtain is raised on. -/

namespace Sys2Proof.Machine

/-- Partition 0 FREE, its count of link bytes 24 below its end; a second record of the same key stands behind, with a tile's cause set. -/
def twiceListed : Tbl Part :=
  [(0, { partFree with counters := [(15, 0xFFFF_FFFF_FFFF_FFE8#64)] }), (0, { partFree with causes := 4 })]

/-- In reduced service slot 0 is partition 0's in every state of it; span entry 0 names slot 0, and tug N is in use. -/
def twiceListedDie : State :=
  { State.reset with
    boot := { State.reset.boot with inReset := false }
    parts := twiceListed
    force := [(spanKey 0 0, 0x8000_0000#32)]
    fab := { State.reset.fab with ports := [(0, { FabPort.none with up := true })] } }

/-- Die 1 raises the curtain of span entry 0's partition by a verdict. -/
def verdictRaise : SpanPkt :=
  { fkind := 8, span := 0, gen := 0, opst := 0, vote := 0, beat := 0, count := 0, data := curtainBeat 0 1 0 0 1 false, empty := false }

/-- Counting the packet's 24 bytes wraps the counter to 0: the first record reads as an unlisted one and is dropped, and the verdict's
cause joins those of the second. -/
theorem causes_twiceListedDie :
    (part twiceListedDie 0).causes = 0#6 ∧ (part (curtainPacket 0 verdictRaise twiceListedDie) 0).causes = 5#6 := by
  refine ⟨?_, ?_⟩ <;> decide +kernel

/-- The packet is new, names span entry 0, and raises. -/
theorem verdictRaise_new :
    seenPacket twiceListedDie (bitsN verdictRaise.data 35 20) (bitsN verdictRaise.data 43 36) = false
      ∧ bitB verdictRaise.data 49 = false ∧ bitsN verdictRaise.data 45 44 = 0
      ∧ spanFor twiceListedDie (BitVec.ofNat 20 (bitsN verdictRaise.data 19 0)) = some 0 := by
  refine ⟨?_, ?_, ?_, ?_⟩ <;> decide +kernel

/-- Its cause is the first bit. -/
theorem verdictRaise_cause : 1#6 <<< causeOf (srcOf (bitsN verdictRaise.data 48 46)) = 1#6 := by decide +kernel

theorem exec_verdictRaise (s : State) : exec (.curtainPacket 0 verdictRaise) s = .next (curtainPacket 0 verdictRaise s) := rfl

/-! ## The obligation -/

/-- Refutes O35: the statement quantifies over stores that list a partition twice. There the partition whose causes it compares is not
the one whose curtain rises. In a store that lists each key once a record that counting drops had no cause. -/
theorem not_dieCurtainScanAndPackets : ¬ Obligations.DieCurtainScanAndPackets := by
  intro h
  obtain ⟨-, -, -, -, -, -, -, -, hraise⟩ := h twiceListedDie 0 0 0 0 0 0 verdictRaise (by decide)
  obtain ⟨hnew, hpart, hact, hspan⟩ := verdictRaise_new
  obtain ⟨t, ht, hcauses, -⟩ := hraise rfl (by decide) (by decide) hnew hpart hact hspan (by decide)
  obtain rfl := Host.Outcome.next.inj ((exec_verdictRaise twiceListedDie).symm.trans ht)
  obtain ⟨hbefore, hafter⟩ := causes_twiceListedDie
  rw [hafter, hbefore, verdictRaise_cause] at hcauses
  exact absurd hcauses (by decide)

end Sys2Proof.Machine

/-! PROOFS. The end of a REVOKE that aborts a host request: the place it leaves is taken in the same step. -/

namespace Sys2Proof.Machine

/-- A SIGNAL of stirrup 0, partition 1, on semaphore 0. -/
def revokedSignal : HomeReq :=
  { tok := false, obj := 0, op := 0, nohold := false, rid := 0, src := 0, merged := false, mlevel := false, mrec := 0, poll := false,
    part := 1, pay := 1, leftT := 0, ring := 0, didx := 0, sub := 0, word := 0 }

/-- The same of a SEM_OP descriptor of the partition. -/
def revokedHostSignal : HomeReq := { revokedSignal with src := srcHost }

/-- That descriptor, its one request handed over. -/
def revokedSemOp : DescState :=
  { x := { part := 1, ring := 0, idx := 0, d := [2, 0, 0, 0, 0, 0, 0, 0] }, decoded := true, aborted := false, readyAt := 0,
    started := true, parked := false, refusal := 0, endAt := 0, ids := [0], left := 1, next := 1, worst := 0 }

/-- The next descriptor of its ring, on semaphore 64 of another group, its one request still to be handed over. -/
def waitingSemOp : DescState := { revokedSemOp with x := { revokedSemOp.x with idx := 1 }, ids := [64], next := 0 }

/-- Semaphore group 0 is being revoked from partition 1, which keeps group 1; 16 host requests of it are in flight, as many as R141 allows. -/
def revokingDie : State :=
  { State.reset with
    boot := { State.reset.boot with inReset := false, reduced := false }
    parts := [(0, Part.initial .active), (1, Part.initial .active)]
    force := [(partKey 1 0x20, 2#32)]
    su := { State.reset.su with revoked := [(1, 0)] }
    home := { State.reset.home with
      crossing := [{ due := 0, req := revokedSignal, entry := none }]
      input := [(0, [{ req := revokedHostSignal, entry := none }])] }
    hq := { State.reset.hq with descs := [revokedSemOp, waitingSemOp], fly := [(1, 16)] } }

/-- Both requests on the group end; the host's frees one of 16 places, and the waiting descriptor's request takes it. -/
theorem crossing_doneForced_revokingDie :
    (doneForced 1 revokingDie).home.crossing.map (fun c => (c.req.src, c.req.obj)) = [(srcHost, 64)] := by decide

theorem exec_doneForced {p : Nat} (hp : p < 64) (s : State) : exec (.doneForced p) s = .next (doneForced p s) := answer_of hp _

/-! ## The obligation -/

/-- Refutes O46: after DONE_FORCED the crossing is not empty where the end of a host request lets the partition's next one in (R141,
R261). -/
theorem not_partitionsAreMadeResetAndNarrowed : ¬ Obligations.PartitionsAreMadeResetAndNarrowed := by
  intro h
  obtain ⟨-, -, -, -, -, -, -, -, -, -, -, -, -, hforced⟩ :=
    h revokingDie 1 { due := 0, req := revokedSignal, entry := none } (1, 0) (by decide)
  obtain ⟨t, ht, -, hcrossing, -⟩ := hforced rfl rfl rfl (by decide) (by decide)
  obtain rfl := Host.Outcome.next.inj ((exec_doneForced (by decide) revokingDie).symm.trans ht)
  exact absurd (crossing_doneForced_revokingDie.symm.trans (congrArg _ hcrossing)) (by decide)

end Sys2Proof.Machine

/-! PROOFS. The promise of R251 over a step: an authorisation may end by a command, and begins by a token alone. -/

namespace Sys2Proof.Machine

/-! ## The promise over a state that keeps the debug block -/

/-- The promise with the reset's part: held in reset, no authorisation stands either. -/
def DebugPromise (s : State) : Prop := debugShut s ∧ (s.boot.inReset = true → s.dbg.auth = 0#2)

theorem DebugPromise.of_ended {t : State} (h : t.dbg.auth = 0#2) : DebugPromise t := ⟨fun _ => h, fun _ => h⟩

theorem KeepAuth.promise {t s : State} (h : KeepAuth t s) (hs : DebugPromise s) : DebugPromise t := by
  obtain ⟨-, hdisabled, hreset, hauth | hauth⟩ := h
  · exact ⟨fun hd => hauth.trans (hs.1 (hdisabled ▸ hd)), fun hr => hauth.trans (hs.2 (hreset ▸ hr))⟩
  · exact .of_ended hauth

theorem KeepAuth.refl (s : State) : KeepAuth s s := (Keep.refl s).toAuth

/-! ## What the shared forms of the meanings answer -/

/-- Whatever the outcome goes on to keeps the debug block, where an authorisation may have ended. -/
def AuthKept (o : Host.Outcome State Fault Refusal) (s : State) : Prop := ∀ t, o = .next t → KeepAuth t s

section
variable {s t : State}

theorem authKept_next (h : KeepAuth t s) : AuthKept (.next t) s := by
  rintro u ⟨⟩
  exact h

theorem authKept_fault (f : Fault) (s : State) : AuthKept (.fault f) s := by
  rintro u ⟨⟩

theorem authKept_answer {ok : Bool} (h : KeepAuth t s) : AuthKept (answer ok t) s := by
  intro u hu
  obtain ⟨-, rfl⟩ := answer_next.mp hu
  exact h

/-- The commonest meaning: operands checked, then an operation that keeps the debug block. -/
theorem authKept_answer_keep {ok : Bool} (h : Keep t s) : AuthKept (answer ok t) s := authKept_answer h.toAuth

theorem authKept_next_keep (h : Keep t s) : AuthKept (.next t) s := authKept_next h.toAuth

/-- A row refuses the words and packets of another row. -/
theorem authKept_ite_fault {c : Prop} [Decidable c] {f : Fault} {o : Host.Outcome State Fault Refusal} (h : AuthKept o s) :
    AuthKept (if c then .fault f else o) s := by
  split
  · exact authKept_fault _ _
  · exact h

theorem tileCmd_authKept (cls op st : Nat) (w : W32) (s : State) : AuthKept (tileCmd cls op st w s) s :=
  authKept_ite_fault (authKept_answer_keep (writeCmd_keep _ _ _))

theorem homeRow_authKept (op : Nat) {eff : HomeReq → State → State} (h : ∀ r a, Keep (eff r a) a) (x : HomeSite) (s : State) :
    AuthKept (homeRow op eff x s) s := by
  cases x with
  | tile st w => exact tileCmd_authKept _ _ _ _ _
  | unit r =>
    refine authKept_ite_fault (authKept_answer_keep ?_)
    split
    · exact abortItem_keep _ _
    · refine (afterOp_keep _ _ _).trans ?_
      split
      · exact refuseNull_keep _ _
      · exact h _ _

theorem execCtrl_authKept (op : Nat) (x : CtrlSite) (s : State) : AuthKept (execCtrl op x s) s := by
  cases x with
  | tile st w => exact tileCmd_authKept _ _ _ _ _
  | unit c => exact authKept_ite_fault (authKept_answer_keep (ctrlAtStall_keep _ _ _))

theorem runDesc_keep (x : Desc) {f : DescState → State → State} (h : ∀ d a, Keep (f d a) a) (s : State) : Keep (runDesc x f s) s :=
  ⟨runDesc_pending _ _ (fun d a => (h d a).1) _, runDesc_dbg _ _ (fun d a => (h d a).2.1) _,
    runDesc_inReset _ _ (fun d a => (h d a).2.2.1) _, runDesc_tclk _ _ (fun d a => (h d a).2.2.2) _⟩

theorem descRow_authKept (op : Nat) (x : Desc) {f : DescState → State → State} (h : ∀ d a, Keep (f d a) a) (s : State) :
    AuthKept (descRow op x f s) s := authKept_ite_fault (authKept_answer_keep (runDesc_keep x h s))

theorem hostAct_authKept (act : Nat) (x : Desc) {f : DescState → State → State} (h : ∀ d a, Keep (f d a) a) (s : State) :
    AuthKept (hostAct act x f s) s := authKept_ite_fault (descRow_authKept 1 x h s)

theorem spanRowOk_authKept (port k : Nat) (p : SpanPkt) (taken : Bool) (row : SpanPkt → Instr) {f : SpanPkt → Nat → State → State}
    (h : ∀ q e a, Keep (f q e a) a) (s : State) : AuthKept (spanRowOk port k p taken row f s) s := by
  refine authKept_ite_fault (authKept_answer_keep ?_)
  split
  · exact .refl s
  · split
    · exact spanTake_keep _ _ _ (h p) _
    · exact spanReceive_keep _ _ _ _ h _

/-! ## The rows whose meaning looks at the place, the window, the port or the page first -/

theorem execSignalCombining_authKept (at_ : Place) (r : HomeReq) (s : State) : AuthKept (execSignalCombining at_ r s) s := by
  refine authKept_answer_keep ?_
  split
  · exact .refl s
  · split
    · split
      · exact .refl s
      · split
        · exact stallFreeze_keep _ _ _ _ _
        · exact combineSignal_keep _ _ _
    · exact combineSignal_keep _ _ _

theorem execMergeWindowClose_authKept (at_ : Place) (rec : Nat) (s : State) : AuthKept (execMergeWindowClose at_ rec s) s := by
  refine authKept_answer_keep ?_
  split
  · exact closeWindow_keep _ _ _
  · exact .refl s

theorem execFabricPacketDiscard_authKept (port : Nat) (p : SpanPkt) (s : State) : AuthKept (execFabricPacketDiscard port p s) s := by
  refine authKept_ite_fault (authKept_answer_keep ?_)
  split
  · exact (badFlit_keep _ _).trans ((fabricRecord_keep _ _ _).trans (noteRx_keep _ _ _))
  · exact .refl s

theorem execHeartbeat_authKept (port : Nat) (s : State) : AuthKept (execHeartbeat port s) s := by
  refine authKept_answer_keep ?_
  split
  · exact queueOut_keep _ _ _
  · exact .refl s

theorem execHcTimeLoRead_authKept (page : Option Nat) (s : State) : AuthKept (execHcTimeLoRead page s) s := by
  cases page with
  | none => exact authKept_next_keep (regRead_keep _ _ _ fun a => ⟨rfl, rfl, rfl, rfl⟩)
  | some p => exact authKept_answer_keep (regRead_keep _ _ _ fun a => updPart_keep _ _ a)

theorem execFreeze_authKept (slot : Option Nat) (s : State) : AuthKept (execFreeze slot s) s := by
  cases slot with
  | none => exact authKept_next_keep (freeze_keep _ _)
  | some i => exact authKept_answer_keep (freeze_keep _ _)

/-! ## The debug block's own rows (R251) -/

theorem execNonceRead_authKept (s : State) : AuthKept (execNonceRead s) s := by
  refine authKept_next ?_
  split
  · exact (present_keep _ _).toAuth
  · exact nonceRead_keepAuth s

theorem execAuthExpiry_authKept (s : State) : AuthKept (execAuthExpiry s) s := by
  refine authKept_next ?_
  split
  · exact endAuth_keepAuth s
  · exact .refl s

/-- A token leaves the fuse as read, and without acceptance the authorisation that stood. -/
theorem debugToken_dbg (msg : List (BitVec 8)) (s : State) :
    (debugToken msg s).dbg.disabled = s.dbg.disabled
      ∧ ((judgeToken msg s).1 ≠ 1 → (debugToken msg s).dbg.auth = s.dbg.auth) := by
  simp only [debugToken, mbFinish, report_dbg]
  split
  · next h => exact ⟨rfl, fun hn => absurd h hn⟩
  · exact ⟨rfl, fun _ => rfl⟩

theorem debugToken_inReset (msg : List (BitVec 8)) (s : State) : (debugToken msg s).boot.inReset = s.boot.inReset := rfl

/-- With the fuse blown no token is accepted; in reset none is looked at. -/
theorem debugToken_promise {s : State} (hs : DebugPromise s) (msg : List (BitVec 8)) :
    DebugPromise (regWrite (debugToken msg) s) := by
  cases hreset : s.boot.inReset with
  | true => rwa [regWrite_reset hreset]
  | false =>
    rw [regWrite_live hreset]
    obtain ⟨hdisabled, hauth⟩ := debugToken_dbg msg s
    refine ⟨fun hd => ?_, fun hr => ?_⟩
    · have hblown := hdisabled.symm.trans hd
      exact (hauth (judgeToken_shut (.inl hblown) msg).1).trans (hs.1 hblown)
    · rw [debugToken_inReset, hreset] at hr
      cases hr

/-- The engine released has the authorisation that stood in reset: none. -/
theorem resetRelease_promise {s : State} (hs : DebugPromise s) (f : Fuses) : DebugPromise (resetRelease f s) := by
  unfold resetRelease
  split
  · exact hs
  · next h =>
    have hreset : s.boot.inReset = true := by cases hr : s.boot.inReset <;> simp [hr] at h ⊢
    refine .of_ended ?_
    dsimp only
    rw [(Keep.foldl _ (fun a st => (isoOn_keep st _).trans (updStir_keep st _ a)) _ _).2.1, (stage0_keep _).2.1]
    exact hs.2 hreset

theorem resetAssert_promise (pwrgd : Bool) (s : State) : DebugPromise (resetAssert pwrgd s) := .of_ended rfl

/-! ## Every command -/

/-- A command that may put an authorisation in force, or the engine in or out of reset. -/
def turnsDebug : Instr → Bool
  | .debugToken _ | .resetRelease _ | .resetAssert _ => true
  | _ => false

/-- Every other command leaves the debug block as it is or ends an authorisation. -/
theorem exec_authKept {c : Instr} (h : turnsDebug c = false) (s : State) : AuthKept (exec c s) s := by
  cases c
  case debugToken | resetRelease | resetAssert => cases h
  case call | malformedCommand => exact authKept_ite_fault (authKept_answer_keep (writeCmd_keep _ _ _))
  case arm | flagPost | tallyRead | fence => exact tileCmd_authKept _ _ _ _ _
  case signal | wait | trywait | waitTo | semRead | set | fetchAdd | cas | fetchMax | fetchOr | post | acquire | tryacquire | acquirePri
      | postTag | acquireTag | level =>
    exact homeRow_authKept _ (fun _ _ => by simp [Keep]) _ _
  case abstain | rejoin | ctrlCurtain | mark => exact execCtrl_authKept _ _ _
  case nop | semOp | tokenOp | tallyOp | stageConfig | watchSet | traceMark | partQuiesce =>
    exact descRow_authKept _ _ (fun _ _ => by simp [Keep]) _
  case hostCall | hostAbstain | hostRejoin => exact hostAct_authKept _ _ (fun _ _ => by simp [Keep]) _
  case snapshot => exact authKept_ite_fault (authKept_answer_keep (runSnapshot_keep _ _))
  case spanPartial => exact spanRowOk_authKept _ _ _ _ _ (fun q e a => spanPartial_keep _ q e a) _
  case spanCue => exact spanRowOk_authKept _ _ _ _ _ (fun q e a => spanCue_keep _ q e a) _
  case spanIdle | spanActive => exact spanRowOk_authKept _ _ _ _ _ (fun q e a => spanIdleness_keep _ _ q e a) _
  case spanAbort => exact spanRowOk_authKept _ _ _ _ _ (fun _ e a => spanAborted_keep _ e a) _
  case fabricPacketDiscard => exact execFabricPacketDiscard_authKept _ _ _
  case curtainPacket => exact authKept_ite_fault (authKept_answer_keep (curtainPacket_keep _ _ _))
  case signalCombining => exact execSignalCombining_authKept _ _ _
  case mergeWindowClose => exact execMergeWindowClose_authKept _ _ _
  case heartbeat => exact execHeartbeat_authKept _ _
  case hcTimeLoRead => exact execHcTimeLoRead_authKept _ _
  case freeze => exact execFreeze_authKept _ _
  case cqDoorbell => exact authKept_answer (regWrite_keepAuth _ (fun _ => (setPage_keep _ _ _ _).toAuth) _)
  case rcCounterRead => exact authKept_answer (registerRead_keepAuth _ _ _ _)
  case registerWrite => exact authKept_answer (registerWrite_keepAuth _ _ _ _ _)
  case nonceRead => exact execNonceRead_authKept _
  case drop => exact authKept_next (regWrite_keepAuth _ endAuth_keepAuth _)
  case authExpiry => exact execAuthExpiry_authKept _
  case wbAcknowledge | dieWideApply | homeReqEntry | bucketRefill | tallyReqArrival | budgetChange | houseFrame | reinUp | reinUnreach
      | reinFlitSend | houseExchange | holdoverLimit | dieError | bistDone | fltTailWrite | lgclr | recipe | powerDown | exportPop
      | accountingWindow | dirtyClear | descriptorFetch | irqAck | ctrDataLowRead | freezeArm | timebase | traceWindowEnd | dropPhaseEnd
      | scan | firstcue | retry | stage2Switch | objSelWrite | objValueWrite | hcSeedWrite | hcCtlWrite | cancel | lockWrite | traceOut
      | objBusyClear =>
    exact authKept_next_keep (by simp [Keep])
  all_goals exact authKept_answer_keep (by simp [Keep])

end

theorem exec_promise {c : Instr} {s t : State} (hs : DebugPromise s) (h : exec c s = .next t) : DebugPromise t := by
  cases hc : turnsDebug c with
  | false => exact (exec_authKept hc s t h).promise hs
  | true =>
    cases c
    case debugToken msg =>
      obtain rfl := Host.Outcome.next.inj h
      exact debugToken_promise hs msg
    case resetRelease f =>
      obtain rfl := Host.Outcome.next.inj h
      exact resetRelease_promise hs f
    case resetAssert pwrgd =>
      obtain rfl := Host.Outcome.next.inj h
      exact resetAssert_promise pwrgd s
    all_goals cases hc

/-- Time that passes touches neither the debug block nor the reset. -/
theorem tick_promise {s : State} (hs : DebugPromise s) : DebugPromise (tick s) := by
  unfold DebugPromise debugShut
  rw [tick_dbg, tick_inReset]
  exact hs

/-! ## The obligations -/

/-- Settles O60: a step is a command or the passing of time, and each keeps the promise. -/
theorem everyStepKeepsTheDebugPromise : Obligations.EveryStepKeepsTheDebugPromise := by
  intro s t hdisabled hreset hstep
  have hs : DebugPromise s := ⟨hdisabled, hreset⟩
  unfold step at hstep
  split at hstep
  · obtain rfl := Host.Outcome.next.inj hstep
    exact tick_promise hs
  · next c rest _ => exact exec_promise (s := { s with pending := rest }) hs hstep

/-- Settles O59: the reset state's own fields. -/
theorem resetKeepsTheDebugPromise : Obligations.ResetKeepsTheDebugPromise := ⟨fun _ => rfl, rfl, rfl, rfl⟩

end Sys2Proof.Machine

/-! PROOFS. What the shared operations leave of the partitions' records: an operation that counts, logs pages, completes, aborts or
carries a cue down changes no more of a record than its counters and its dirty-page log. -/

namespace Sys2Proof.Machine

/-! ## Records that counting leaves -/

/-- `y` differs from `x` in its counters and its dirty-page log at most. -/
def CountsOnly (x y : Part) : Prop := y = { x with counters := y.counters, dirty := y.dirty }

/-- A record that no counting makes the one an unlisted key reads as. -/
def Listed (x : Part) : Prop := ∀ y, CountsOnly x y → y ≠ partFree

theorem CountsOnly.refl (x : Part) : CountsOnly x x := rfl

theorem CountsOnly.trans {x y z : Part} (h : CountsOnly x y) (g : CountsOnly y z) : CountsOnly x z := by
  unfold CountsOnly at *
  rw [g, h]

theorem CountsOnly.state {x y : Part} (h : CountsOnly x y) : y.state = x.state := by rw [h]

theorem CountsOnly.causes {x y : Part} (h : CountsOnly x y) : y.causes = x.causes := by rw [h]

theorem CountsOnly.curtain {x y : Part} (h : CountsOnly x y) : y.curtain = x.curtain := by rw [h]

theorem Listed.counts {x y : Part} (h : Listed x) (g : CountsOnly x y) : Listed y := fun z hz => h z (g.trans hz)

theorem Listed.ne_free {x : Part} (h : Listed x) : x ≠ partFree := h x rfl

theorem listed_of_state {x : Part} (h : x.state ≠ .free) : Listed x := by
  rintro y hy rfl
  exact h hy.state.symm

theorem listed_of_causes {x : Part} (h : x.causes ≠ 0) : Listed x := by
  rintro y hy rfl
  exact h hy.causes.symm

section
variable {p q : Nat} {x : Part} {s : State}

theorem part_setPart (h : x ≠ partFree) : part (setPart p x s) p = x := Tbl.get_set_self _ _ _ _ h

theorem part_setPart_ne (h : q ≠ p) : part (setPart p x s) q = part s q := Tbl.get_set_ne _ _ _ _ _ h

end

/-! ## Operations that only count -/

/-- Every listed record keeps all but its counters and its dirty-page log. -/
def PartsCount (t s : State) : Prop := ∀ q, Listed (part s q) → CountsOnly (part s q) (part t q)

theorem PartsCount.of_parts {t s : State} (h : t.parts = s.parts) : PartsCount t s := by
  intro q _
  rw [part, part, h]
  exact .refl _

theorem PartsCount.refl (s : State) : PartsCount s s := .of_parts rfl

theorem PartsCount.trans {u t s : State} (h : PartsCount u t) (g : PartsCount t s) : PartsCount u s :=
  fun q hq => (g q hq).trans (h q (hq.counts (g q hq)))

theorem PartsCount.foldl {α : Type} {f : State → α → State} (h : ∀ a x, PartsCount (f a x) a) (l : List α) (s : State) :
    PartsCount (l.foldl f s) s := by
  induction l generalizing s with
  | nil => exact .refl s
  | cons x l ih => exact (ih _).trans (h s x)

theorem PartsCount.state {t s : State} (h : PartsCount t s) {q : Nat} (hq : (part s q).state ≠ .free) :
    (part t q).state = (part s q).state := (h q (listed_of_state hq)).state

theorem TreeOnly.partsCount {t s : State} (h : TreeOnly t s) : PartsCount t s := .of_parts (by rw [h])

theorem TlyOnly.partsCount {t s : State} (h : TlyOnly t s) : PartsCount t s := .of_parts (by rw [h])

theorem AgendaOnly.partsCount {t s : State} (h : AgendaOnly t s) : PartsCount t s := .of_parts (by rw [h])

theorem setPart_partsCount {p : Nat} {x : Part} {s : State} (h : CountsOnly (part s p) x) : PartsCount (setPart p x s) s := by
  intro q hq
  by_cases hqp : q = p
  · subst hqp
    rwa [part_setPart (hq x h)]
  · rw [part_setPart_ne hqp]
    exact .refl _

theorem count_partsCount (p i n : Nat) (s : State) : PartsCount (count p i n s) s := setPart_partsCount rfl

/-! ## Host memory writes, events and completions -/

theorem dirtyLog_partsCount (p kind : Nat) (addr : W64) (s : State) : PartsCount (dirtyLog p kind addr s) s := by
  simp only [dirtyLog]
  split
  · exact .refl s
  · split
    · exact setPart_partsCount rfl
    · exact PartsCount.trans (t := pushDma _ s) (setPart_partsCount rfl) (.of_parts rfl)

theorem issueWrite_partsCount (w : DmaWrite) (s : State) : PartsCount (issueWrite w s) s :=
  PartsCount.trans (t := dirtyLog w.part w.kind w.addr s) (.of_parts rfl) (dirtyLog_partsCount _ _ _ _)

theorem hostWrite_partsCount (p kind : Nat) (addr : W64) (data : List W64) (s : State) : PartsCount (hostWrite p kind addr data s) s := by
  simp only [hostWrite]
  split
  · exact .refl s
  · split
    · exact .of_parts rfl
    · exact issueWrite_partsCount _ _

theorem writeEntry_partsCount (p kind : Nat) (base : W64) (i : W32) (log2 : Nat) (w0 w1 w2 w3 : W64) (s : State) :
    PartsCount (writeEntry p kind base i log2 w0 w1 w2 w3 s) s :=
  (hostWrite_partsCount _ _ _ _ _).trans (hostWrite_partsCount _ _ _ _ _)

theorem wantWriteback_partsCount (p : Nat) (s : State) : PartsCount (wantWriteback p s) s := by
  simp only [wantWriteback]
  split <;> exact .of_parts rfl

theorem raiseIrq_partsCount (p vec : Nat) (s : State) : PartsCount (raiseIrq p vec s) s := by
  unfold raiseIrq
  split
  · exact .of_parts rfl
  · split <;> exact .of_parts rfl

/-- An entry of a ring written, its index advanced and its write-back asked for. -/
theorem PartsCount.ringEntry {t s : State} (h : PartsCount t s) (p o : Nat) (v : W32) :
    PartsCount (wantWriteback p (setPage p o v t)) s :=
  (wantWriteback_partsCount _ _).trans (PartsCount.trans (t := t) (.of_parts rfl) h)

theorem event_partsCount (p type : Nat) (d0 : W32) (d1 : W128) (s : State) : PartsCount (event p type d0 d1 s) s := by
  simp only [event]
  split
  · refine .of_parts ?_
    rw [setPage_parts, rcBefore_frame]
  · split
    · exact (raiseIrq_partsCount _ _ _).trans ((writeEntry_partsCount _ _ _ _ _ _ _ _ _ _).ringEntry _ _ _)
    · exact (writeEntry_partsCount _ _ _ _ _ _ _ _ _ _).ringEntry _ _ _

theorem irqCheck_partsCount (p : Nat) (s : State) : PartsCount (irqCheck p s) s := by
  unfold irqCheck
  split
  · exact (raiseIrq_partsCount _ _ _).trans (.of_parts rfl)
  · exact .refl s

theorem irqArm_partsCount (p : Nat) (s : State) : PartsCount (irqArm p s) s := by
  simp only [irqArm]
  split <;> exact .of_parts rfl

theorem moderate_partsCount (p : Nat) (irq : Bool) (s : State) : PartsCount (moderate p irq s) s := by
  simp only [moderate]
  refine (irqCheck_partsCount _ _).trans ?_
  split
  · exact (irqArm_partsCount _ _).trans (.of_parts rfl)
  · exact .of_parts rfl

theorem complete_partsCount (x : Desc) (r : Done) (force : Bool) (s : State) : PartsCount (complete x r force s) s := by
  simp only [complete]
  split
  · exact .of_parts rfl
  · refine (moderate_partsCount _ _ _).trans (PartsCount.ringEntry ?_ _ _ _)
    exact (writeEntry_partsCount _ _ _ _ _ _ _ _ _ _).trans (.of_parts rfl)

/-! ## The home's answers and its aborted waiters (R163, R241) -/

theorem hostPump_partsCount (x : Desc) (n : Nat) (s : State) : PartsCount (hostPump x n s) s := by
  induction n generalizing s with
  | zero => exact .refl s
  | succ n ih =>
    simp only [hostPump]
    split
    · split
      · split
        · exact (ih _).trans (.of_parts rfl)
        · exact .refl s
      · exact .refl s
    · exact .refl s

theorem hostPumpAll_partsCount (p : Nat) (s : State) : PartsCount (hostPumpAll p s) s :=
  .foldl (fun a (d : DescState) => hostPump_partsCount d.x 16 a) _ _

theorem hostDone_partsCount (r : HomeReq) (status : BitVec 5) (pay : W128) (s : State) : PartsCount (hostDone r status pay s) s := by
  simp only [hostDone]
  split
  · exact (hostPumpAll_partsCount _ _).trans (.of_parts rfl)
  · refine (hostPumpAll_partsCount _ _).trans ?_
    split
    · exact (complete_partsCount _ _ _ _).trans (.of_parts rfl)
    · exact .of_parts rfl

theorem respond_partsCount (r : HomeReq) (status : BitVec 5) (pay : W128) (poll : Bool) (s : State) :
    PartsCount (respond r status pay poll s) s := by
  simp only [respond]
  split
  · exact .of_parts rfl
  · split
    · exact .refl s
    · split
      · split
        · exact .of_parts rfl
        · exact hostDone_partsCount _ _ _ _
      · exact .of_parts rfl

theorem unlinkAll_partsCount (e : Nat) (s : State) : PartsCount (unlinkAll e s) s := by
  refine .foldl (fun a l => ?_) _ _
  simp only [unlinkFrom]
  split <;> exact .of_parts rfl

theorem abortWaiter_partsCount (e : Nat) (s : State) : PartsCount (abortWaiter e s) s := by
  have hfreed : PartsCount (freeWaiter e (if (waiter s e).kept then s
      else count (waiter s e).req.part 7 (s.clk.eclk - (waiter s e).since) (unlinkAll e s))) s := by
    refine PartsCount.trans (.of_parts rfl) ?_
    split
    · exact .refl s
    · exact (count_partsCount _ _ _ _).trans (unlinkAll_partsCount _ _)
  simp only [abortWaiter]
  split
  · exact hfreed
  · exact (respond_partsCount _ _ _ _ _).trans hfreed

theorem abortWaiters_partsCount (f : Nat → Waiter → Bool) (s : State) : PartsCount (abortWaiters f s) s :=
  .foldl (fun a e => abortWaiter_partsCount e a) _ _

theorem clearObjs_partsCount (f : Bool → Nat → Bool) (s : State) : PartsCount (clearObjs f s) s := by
  refine .foldl (fun a o => ?_) _ _
  exact .of_parts rfl

/-! ## A cue on its way down, and what an abort sends (R74) -/

theorem settle_partsCount (at_ : Place) (slot : Nat) (s : State) : PartsCount (settle at_ slot s) s :=
  (settle_touches at_ slot s).1.partsCount

theorem addCall_partsCount (k slot st : Nat) (p : Partial) (s : State) : PartsCount (addCall k slot st p s) s := by
  simp only [addCall]
  split
  · exact (settle_partsCount _ _ _).trans (.of_parts rfl)
  · split
    · exact (settle_partsCount _ _ _).trans (.of_parts rfl)
    · exact .of_parts rfl

theorem passNode_partsCount (at_ : Place) (slot : Nat) (e nx : W32) (s : State) : PartsCount (passNode at_ slot e nx s) s := by
  simp only [passNode]
  refine (settle_partsCount _ _ _).trans ?_
  split
  · split
    · exact (PartsCount.foldl (fun a p => addCall_partsCount _ _ _ p a) _ _).trans (.of_parts rfl)
    · exact .of_parts rfl
  · exact .of_parts rfl

theorem offerDown_partsCount (to_ : Place) (prio ready : Nat) (ev : Instr) (s : State) : PartsCount (offerDown to_ prio ready ev s) s :=
  .of_parts rfl

theorem stallForward_partsCount (k : Nat) (c : Cue) (s : State) : PartsCount (stallForward k c s) s := by
  simp only [stallForward]
  refine (PartsCount.foldl (fun a st => offerDown_partsCount _ _ _ _ a) _ _).trans ?_
  split
  · exact .refl s
  · exact passNode_partsCount _ _ _ _ _

theorem mapCut_partsCount (k : Nat) (c : Cue) (s : State) : PartsCount (mapCut k c s).2 s := by
  unfold mapCut
  split
  · exact .of_parts rfl
  · exact .refl s

theorem stallArrive_partsCount (k : Nat) (c : Cue) (s : State) : PartsCount (stallArrive k c s) s := by
  simp only [stallArrive]
  split
  · exact (stallForward_partsCount _ _ _).trans (mapCut_partsCount _ _ _)
  · exact PartsCount.trans (.of_parts rfl) (mapCut_partsCount _ _ _)

theorem sendCut_partsCount (at_ : Place) (c : Cue) (k : Nat × Nat) (s : State) : PartsCount (sendCut at_ c k s) s := by
  unfold sendCut
  split <;> exact .of_parts rfl

theorem startDown_partsCount (at_ : Place) (c : Cue) (s : State) : PartsCount (startDown at_ c s) s := by
  unfold startDown
  split
  · exact .refl s
  · exact stallArrive_partsCount _ _ _
  · split
    · exact .foldl (fun a k => sendCut_partsCount _ _ k a) _ _
    · exact .foldl (fun a to_ => offerDown_partsCount _ _ _ _ a) _ _

/-- A record formed in TCLK goes to its crossing. -/
theorem traceOffer_tclk_partsCount (p : Nat) (bits : W128) (s : State) : PartsCount (traceOffer false p bits s) s := by
  unfold traceOffer
  split <;> exact .of_parts rfl

theorem syncEvent_partsCount (at_ : Place) (c : Cue) (s : State) : PartsCount (syncEvent at_ c s) s := by
  unfold syncEvent
  split
  · exact .refl s
  · exact traceOffer_tclk_partsCount _ _ _

theorem freezeBy_partsCount (slot : Nat) (s : State) : PartsCount (freezeBy slot s) s := by
  unfold freezeBy
  split <;> exact .of_parts rfl

theorem tellHost_partsCount (c : Cue) (s : State) : PartsCount (tellHost c s) s := by
  unfold tellHost
  split <;> exact .of_parts rfl

theorem wpMark_partsCount (slot : Nat) (e : W32) (s : State) (w : Nat) : PartsCount (wpMark slot e s w) s := by
  unfold wpMark traceMarkRec
  split
  · exact traceOffer_tclk_partsCount _ _ _
  · exact .refl s

theorem cueOut_partsCount (at_ : Place) (c : Cue) (s : State) : PartsCount (cueOut at_ c s) s := by
  simp only [cueOut]
  refine (PartsCount.foldl (fun a w => wpMark_partsCount _ _ a w) _ _).trans ((tellHost_partsCount _ _).trans
    ((syncEvent_partsCount _ _ _).trans ((freezeBy_partsCount _ _).trans ?_)))
  have hcounted : PartsCount (if c.status = stAborted then count ((slotOwner s c.slot).getD 0) 3 1 (count ((slotOwner s c.slot).getD 0) 1 1 s)
      else count ((slotOwner s c.slot).getD 0) 1 1 s) s := by
    split
    · exact (count_partsCount _ _ _ _).trans (count_partsCount _ _ _ _)
    · exact count_partsCount _ _ _ _
  split
  · exact (copyStart_tlyOnly _ _).partsCount.trans hcounted
  · exact hcounted

theorem passRoot_partsCount (at_ : Place) (slot : Nat) (e nx : W32) (s : State) : PartsCount (passRoot at_ slot e nx s) s := by
  unfold passRoot
  split
  · exact .refl s
  · exact passNode_partsCount _ _ _ _ _

theorem applyAfter_partsCount (slot : Nat) (s : State) : PartsCount (applyAfter slot s) s := by
  unfold applyAfter
  split
  · split <;> exact .of_parts rfl
  · exact .refl s

theorem abortSlot_partsCount (slot : Nat) (root : Place) (stalls : List Nat) (s : State) :
    PartsCount (abortSlot slot root stalls s) s := by
  simp only [abortSlot, abortTo]
  refine (applyAfter_partsCount _ _).trans ((startDown_partsCount _ _ _).trans ((cueOut_partsCount _ _ _).trans
    (PartsCount.trans (.of_parts rfl) ?_)))
  split
  · exact .of_parts rfl
  · exact (passRoot_partsCount _ _ _ _ _).trans (.of_parts rfl)

/-! ## A change of a partition's groups (R241) -/

theorem abortGroups_partsCount (gs : List (Nat × Nat)) (s : State) : PartsCount (abortGroups gs s) s := by
  refine .foldl (fun a i => ?_) _ _
  split
  · exact abortSlot_partsCount _ _ _ _
  · exact .refl a

theorem clearGroups_partsCount (gs : List (Nat × Nat)) (s : State) : PartsCount (clearGroups gs s) s := by
  simp only [clearGroups]
  refine PartsCount.trans (.foldl (fun a t => ?_) _ _) ((clearObjs_partsCount _ _).trans (abortWaiters_partsCount _ _))
  exact .of_parts rfl

theorem freshGroups_partsCount (gs : List (Nat × Nat)) (s : State) : PartsCount (freshGroups gs s) s := by
  simp only [freshGroups]
  refine PartsCount.trans (.foldl (fun a t => ?_) _ _) (clearObjs_partsCount _ _)
  exact .of_parts rfl

theorem changeMap_partsCount (p : Nat) {f : State → State} (h : ∀ a, PartsCount (f a) a) (s : State) : PartsCount (changeMap p f s) s :=
  (freshGroups_partsCount _ _).trans ((h _).trans ((clearGroups_partsCount _ _).trans (abortGroups_partsCount _ _)))

theorem putEntry_partsCount (p : Nat) (f : Nat → W32) (s : State) : PartsCount (putEntry p f s) s := by
  unfold putEntry
  refine .foldl (fun a o => ?_) _ _
  exact .of_parts rfl

theorem putBoundary_partsCount (slot : Nat) (s : State) : PartsCount (putBoundary slot s) s := by
  simp only [putBoundary]
  refine PartsCount.trans (.of_parts rfl) (PartsCount.foldl (fun a k => ?_) _ _)
  exact .of_parts rfl

end Sys2Proof.Machine

/-! PROOFS. Partitions at rest and at work again: what a notice and the writes kept leave, the carve of SPLIT, the accounting windows. -/

namespace Sys2Proof.Machine

/-! ## What a notice changes (R249, R254, R264) -/

/-- A notice and its host memory writes change counters and logs of partitions, the pages, the host's queues, what is due and the cycle's
counters alone. -/
def NoticeFrame (t s : State) : Prop := t = { s with parts := t.parts, page := t.page, hq := t.hq, agenda := t.agenda, cyc := t.cyc }

theorem NoticeFrame.refl (s : State) : NoticeFrame s s := rfl

theorem NoticeFrame.trans {u t s : State} (h : NoticeFrame u t) (g : NoticeFrame t s) : NoticeFrame u s := by
  unfold NoticeFrame at *
  rw [h, g]

theorem dirtyLog_notice (p kind : Nat) (addr : W64) (s : State) : NoticeFrame (dirtyLog p kind addr s) s := by
  simp only [dirtyLog]
  split
  · exact .refl s
  · split <;> rfl

theorem issueWrite_notice (w : DmaWrite) (s : State) : NoticeFrame (issueWrite w s) s :=
  NoticeFrame.trans (t := dirtyLog w.part w.kind w.addr s) rfl (dirtyLog_notice _ _ _ _)

theorem hostWrite_notice (p kind : Nat) (addr : W64) (data : List W64) (s : State) : NoticeFrame (hostWrite p kind addr data s) s := by
  simp only [hostWrite]
  split
  · exact .refl s
  · split
    · rfl
    · exact issueWrite_notice _ _

theorem writeEntry_notice (p kind : Nat) (base : W64) (i : W32) (log2 : Nat) (w0 w1 w2 w3 : W64) (s : State) :
    NoticeFrame (writeEntry p kind base i log2 w0 w1 w2 w3 s) s := (hostWrite_notice _ _ _ _ _).trans (hostWrite_notice _ _ _ _ _)

theorem wantWriteback_notice (p : Nat) (s : State) : NoticeFrame (wantWriteback p s) s := by
  simp only [wantWriteback]
  split <;> rfl

theorem raiseIrq_notice (p vec : Nat) (s : State) : NoticeFrame (raiseIrq p vec s) s := by
  unfold raiseIrq
  split
  · rfl
  · split <;> rfl

theorem NoticeFrame.setPage {t s : State} (h : NoticeFrame t s) (p o : Nat) (v : W32) : NoticeFrame (setPage p o v t) s :=
  NoticeFrame.trans (t := t) rfl h

theorem event_notice (p type : Nat) (d0 : W32) (d1 : W128) (s : State) : NoticeFrame (event p type d0 d1 s) s := by
  simp only [event]
  split
  · rw [rcBefore_frame]
    rfl
  · have hentry := ((writeEntry_notice p 2 (ringBase (pageReg s p 0xA0) (pageReg s p 0xA4)) (pageReg s p 0xAC)
      (bitsN (pageReg s p 0xA8) 4 0) (d0 ++ BitVec.ofNat 32 (type * 256)) (houseNow s) (d1.setWidth 64) ((d1 >>> 64).setWidth 64) s).setPage
      p 0xAC (pageReg s p 0xAC + 1))
    split
    · exact (raiseIrq_notice _ _ _).trans ((wantWriteback_notice _ _).trans hentry)
    · exact (wantWriteback_notice _ _).trans hentry

/-! ## The writes kept for a QUIESCED partition (R247; log 39) -/

theorem dirtyLog_kept (p kind : Nat) (addr : W64) (s : State) : (dirtyLog p kind addr s).hq.kept = s.hq.kept := by
  simp only [dirtyLog]
  split
  · rfl
  · split <;> rfl

theorem issueWrite_kept (w : DmaWrite) (s : State) : (issueWrite w s).hq.kept = s.hq.kept := dirtyLog_kept _ _ _ s

/-- A partition that is not QUIESCED keeps no write. -/
theorem hostWrite_kept {p : Nat} {s : State} (h : (part s p).state ≠ .quiesced) (kind : Nat) (addr : W64) (data : List W64) :
    (hostWrite p kind addr data s).hq.kept = s.hq.kept := by
  simp only [hostWrite, h, decide_false, Bool.false_and, Bool.false_eq_true, if_false]
  split
  · rfl
  · exact issueWrite_kept _ _

theorem wantWriteback_kept (p : Nat) (s : State) : (wantWriteback p s).hq.kept = s.hq.kept := by
  simp only [wantWriteback]
  split <;> rfl

theorem raiseIrq_kept (p vec : Nat) (s : State) : (raiseIrq p vec s).hq.kept = s.hq.kept := by
  unfold raiseIrq
  split
  · rfl
  · split <;> rfl

theorem event_kept {p : Nat} {s : State} (h : (part s p).state = .active) (type : Nat) (d0 : W32) (d1 : W128) :
    (event p type d0 d1 s).hq.kept = s.hq.kept := by
  have hentry : ∀ kind base i log2 w0 w1 w2 w3, (writeEntry p kind base i log2 w0 w1 w2 w3 s).hq.kept = s.hq.kept := by
    intro kind base i log2 w0 w1 w2 w3
    have hstate := (hostWrite_partsCount p kind (base + BitVec.ofNat 64 (32 * (i.toNat % 2 ^ log2)) + 8) [w1, w2, w3] s).state (q := p)
      (by rw [h]; decide)
    exact (hostWrite_kept (by rw [hstate, h]; decide) _ _ _).trans (hostWrite_kept (by rw [h]; decide) _ _ _)
  simp only [event]
  split
  · rw [setPage_hq, rcBefore_frame]
  · split
    · rw [raiseIrq_kept, wantWriteback_kept, setPage_hq, hentry]
    · rw [wantWriteback_kept, setPage_hq, hentry]

theorem issueKept_partsCount (p : Nat) (s : State) : PartsCount (issueKept p s) s := by
  simp only [issueKept]
  refine (PartsCount.foldl (fun a i => raiseIrq_partsCount _ _ a) _ _).trans (PartsCount.trans (.foldl (fun a w => ?_) _ _) (.of_parts rfl))
  split
  · exact issueWrite_partsCount _ _
  · exact .refl a

/-- What stays kept is other partitions'. -/
theorem issueKept_kept (p : Nat) (s : State) : (issueKept p s).hq.kept = s.hq.kept.filter fun w => w.part != p := by
  simp only [issueKept]
  refine List.foldlRecOn (motive := fun a : State => a.hq.kept = s.hq.kept.filter fun w => w.part != p) _ _ ?_
    fun a ha i _ => (raiseIrq_kept _ _ a).trans ha
  refine List.foldlRecOn (motive := fun a : State => a.hq.kept = s.hq.kept.filter fun w => w.part != p) _ _ rfl fun a ha w _ => ?_
  split
  · exact (issueWrite_kept w a).trans ha
  · exact ha

/-! ## RESUME (R247, R269) -/

theorem finishCmd_done (s : State) : finishCmd pcDone 0 s = { s with su := { s.su with pcBusy := false, pcResult := 1, pcCause := 0 } } := rfl

theorem resumePart_frame (p : Nat) (s : State) :
    resumePart p s = { s with pwr := (resumePart p s).pwr, agenda := (resumePart p s).agenda } := by
  have hwoken : ∀ (l : List Nat) (a : State), AgendaOnly (l.foldl (fun a st => wake st a) a) a := fun l a =>
    List.foldlRecOn (motive := fun b => AgendaOnly b a) _ _ rfl fun b hb st _ => (wake_agendaOnly st b).trans hb
  have h := (homeResume_agendaOnly p _).trans (hwoken (stirsOf s p) { s with pwr := { s.pwr with lastDue := Tbl.erase p s.pwr.lastDue } })
  unfold AgendaOnly at h
  rw [resumePart, h]

theorem exec_resume {p : Nat} (hp : p < 64) (s : State) : exec (.resume p) s = .next (resume p s) := answer_of hp _

theorem resume_rejected {p : Nat} {s : State} (h : s.boot.reduced = true ∨ (part s p).state ≠ .quiesced) : resume p s = reject 1 s :=
  if_pos h

/-- The partition at work again, its kept writes issued, before its work goes on. -/
def awake (p : Nat) (s : State) : State := event p 0x0A 0 0 (issueKept p (setPart p { part s p with state := .active } s))

theorem resume_quiesced {p : Nat} {s : State} (hfull : s.boot.reduced = false) (h : (part s p).state = .quiesced) :
    resume p s = finishCmd pcDone 0 (resumePart p (awake p s)) := if_neg (by simp [hfull, h])

theorem activated {p : Nat} {s : State} : part (setPart p { part s p with state := .active } s) p = { part s p with state := .active } :=
  part_setPart (listed_of_state (by decide : PartState.active ≠ .free)).ne_free

theorem activated_state (p : Nat) (s : State) : (part (setPart p { part s p with state := .active } s) p).state = .active := by
  rw [activated]

theorem awake_active (p : Nat) (s : State) : (part (awake p s) p).state = .active := by
  have hcount : PartsCount (awake p s) (setPart p { part s p with state := .active } s) :=
    (event_partsCount _ _ _ _ _).trans (issueKept_partsCount _ _)
  rw [hcount.state (by rw [activated_state]; decide), activated_state]

theorem awake_kept (p : Nat) (s : State) : (awake p s).hq.kept = s.hq.kept.filter fun w => w.part != p := by
  refine (event_kept ?_ _ _ _).trans (issueKept_kept _ _)
  rw [(issueKept_partsCount p _).state (by rw [activated_state]; decide), activated_state]

/-! ## SPLIT (R239) -/

/-- What each turn of a fold brings about for its own item, and no turn undoes, holds of every item in the end. -/
theorem foldl_establishes {α : Type} {f : State → α → State} {P : α → State → Prop} (hmakes : ∀ x a, P x (f a x))
    (hkeeps : ∀ x y a, P x a → P x (f a y)) {l : List α} {x : α} (hx : x ∈ l) (s : State) : P x (l.foldl f s) := by
  induction l generalizing s with
  | nil => cases hx
  | cons y l ih =>
    rcases List.mem_cons.mp hx with rfl | hx
    · rw [List.foldl_cons]
      exact List.foldlRecOn (motive := P x) _ _ (hmakes x s) fun a ha z _ => hkeeps x z a ha
    · exact ih hx _

theorem dropSlots_partsCount (slots : List Nat) (s : State) : PartsCount (dropSlots slots s) s := .of_parts rfl

/-- Once a partition is made, the rest of its carve counts at most. -/
theorem splitOne_partsCount (k i : Nat) (s : State) : PartsCount (splitOne k i s) (setPart i (Part.initial .active) s) := by
  simp only [splitOne]
  exact (putBoundary_partsCount _ _).trans ((dropSlots_partsCount _ _).trans (changeMap_partsCount i (putEntry_partsCount i _) _))

theorem splitOne_makes (k i : Nat) (s : State) : (part (splitOne k i s) i).state = .active := by
  have hmade : part (setPart i (Part.initial .active) s) i = Part.initial .active := part_setPart (by decide)
  rw [(splitOne_partsCount k i s).state (by rw [hmade]; decide), hmade]
  rfl

theorem splitOne_keeps {q : Nat} (k i : Nat) {s : State} (h : (part s q).state = .active) : (part (splitOne k i s) q).state = .active := by
  by_cases hqi : q = i
  · subst hqi
    exact splitOne_makes _ _ _
  · have hother : part (setPart i (Part.initial .active) s) q = part s q := part_setPart_ne hqi
    rw [(splitOne_partsCount k i s).state (by rw [hother, h]; decide), hother, h]

theorem splitAll_active {k i : Nat} (h : i < k) (s : State) : (part (splitAll k s) (i + 1)).state = .active :=
  foldl_establishes (P := fun i a => (part a i).state = .active) (fun i a => splitOne_makes k i a) (fun _ i _ ha => splitOne_keeps k i ha)
    (List.mem_map_of_mem (List.mem_range.mpr h)) _

section
variable {s : State} {k : Nat}

/-- A partition besides partition 0 is in use. -/
def occupied (s : State) : Bool := ((List.range 64).drop 1).any fun p => (part s p).state ≠ .free

theorem exec_split (hk : k < 64) (s : State) : exec (.split k) s = .next (split k s) := answer_of hk _

theorem split_reduced (h : s.boot.reduced = true) : split k s = reject 1 s := if_pos h

theorem split_range (hfull : s.boot.reduced = false) (hk : k = 0 ∨ 55 < k) : split k s = reject 4 s := by
  rw [split, if_neg (by simp [hfull]), if_pos hk]

theorem split_inRange (hfull : s.boot.reduced = false) (h1 : 1 ≤ k) (h55 : k ≤ 55) : split k s =
    bif occupied s then reject 1 s else bif splitBlocked s k then reject 2 s else finishCmd pcDone 0 (splitAll k s) := by
  rw [split, if_neg (by simp [hfull]), if_neg (by omega), cond_eq_ite, cond_eq_ite]
  rfl

end

/-! ## Accounting windows (R237, R243, Table PAR-6) -/

section
variable {s : State} {p : Nat}

theorem window_trace_single (h : livePartitions s = [p]) : accountingWindow .trace s = loadShare p s := by
  rw [accountingWindow, h]
  rfl

theorem window_refill_single (h : livePartitions s = [p]) : accountingWindow .refill s = loadRate p false s := by
  rw [accountingWindow, h]
  rfl

/-- The partition with rate and burst taken over. -/
def rateTaken (p : Nat) (s : State) : State :=
  setPart p { part s p with rateEff := bitsN (reg s (partKey p 0x10)) 24 16, burstEff := bitsN (reg s (partKey p 0x10)) 7 0 } s

/-- A first nonzero rate fills the bucket. -/
theorem loadRate_first (hrate : (part s p).rateEff = 0) (hnew : bitsN (reg s (partKey p 0x10)) 24 16 ≠ 0) :
    loadRate p false s = setBucket p (16 * bitsN (reg s (partKey p 0x10)) 7 0) (rateTaken p s) := by
  simp only [loadRate]
  rw [if_pos (by simp [hrate, hnew])]
  rfl

/-- Any other rate cuts the bucket to its capacity. -/
theorem loadRate_again (h : (part s p).rateEff ≠ 0 ∨ bitsN (reg s (partKey p 0x10)) 24 16 = 0) :
    loadRate p false s = setBucket p (min (bucketOf s p) (16 * bitsN (reg s (partKey p 0x10)) 7 0)) (rateTaken p s) := by
  simp only [loadRate]
  have hcut : ((part s p).rateEff == 0 && bitsN (reg s (partKey p 0x10)) 24 16 != 0) = false := by
    rcases h with hrate | hnew
    · rw [beq_false_of_ne hrate, Bool.false_and]
    · rw [hnew, bne_self_eq_false, Bool.and_false]
  rw [hcut]
  rfl

/-! ## QUIESCED (R247) -/

theorem exec_quiesced (hp : p < 64) (s : State) : exec (.quiesced p) s = .next (quiesced p s) := answer_of hp _

theorem quiesced_not (h : (part s p).state ≠ .quiescing ∨ atRest s p = false) : quiesced p s = s := if_pos (by simpa using h)

/-- With no descriptor fetched, the event and the state are all. -/
theorem quiesced_atRest (hstate : (part s p).state = .quiescing) (hrest : atRest s p = true) (hnone : s.hq.descs = []) :
    quiesced p s = updPart p (fun x => { x with state := .quiesced }) (event p 0x09 0 0 s) := by
  simp only [quiesced]
  rw [if_neg (by simp [hstate, hrest]), hnone]
  rfl

end

/-! ## The obligation -/

/-- Settles O47: each command by its one case; what RESUME, SPLIT and QUIESCED make of the partitions' states survives the counting and
logging that follow. -/
theorem partitionsRestSplitAndAccount : Obligations.PartitionsRestSplitAndAccount := by
  intro s p k hp hk
  refine ⟨fun hfull hstate => ?_, fun h => ?_, fun hfull h1 h55 halone hfree => ?_, fun h => ?_, fun hfull hrange => ?_,
    fun hfull h1 h55 halone => ?_, fun hfull h1 h55 halone hblocked => ?_, fun h => ?_, fun h hrate hnew => ?_, fun h hagain => ?_,
    fun hlive hsel => ?_, fun hreset => congrArg _ (regWrite_reset hreset _), fun h => ?_, fun hstate hrest hnone => ?_⟩
  · refine ⟨_, (exec_resume hp s).trans (congrArg _ (resume_quiesced hfull hstate)), by rw [finishCmd_done, awake], ?_, ?_⟩
    · rw [resumePart_frame]
      exact awake_active p s
    · rw [resumePart_frame]
      intro y hy
      have hy' : y ∈ (awake p s).hq.kept := hy
      rw [awake_kept, List.mem_filter] at hy'
      exact ⟨hy'.1, by simpa using hy'.2⟩
  · exact (exec_resume hp s).trans (congrArg _ (resume_rejected h))
  · refine ⟨finishCmd pcDone 0 (splitAll k s), ?_, rfl, fun i hi => splitAll_active (List.mem_range.mp hi) s⟩
    rw [exec_split hk, split_inRange hfull h1 h55, show occupied s = false from halone, hfree, cond_false, cond_false]
  · exact (exec_split hk s).trans (congrArg _ (split_reduced h))
  · exact (exec_split hk s).trans (congrArg _ (split_range hfull hrange))
  · rw [exec_split hk, split_inRange hfull h1 h55, show occupied s = true from (Bool.not_eq_false _).mp halone, cond_true]
    rfl
  · rw [exec_split hk, split_inRange hfull h1 h55, show occupied s = false from halone, hblocked, cond_false, cond_true]
    rfl
  · exact congrArg _ (window_trace_single h)
  · exact congrArg _ ((window_refill_single h).trans (loadRate_first hrate hnew))
  · exact congrArg _ ((window_refill_single h).trans (loadRate_again hagain))
  · subst hsel
    exact congrArg _ (regWrite_live hlive _)
  · exact (exec_quiesced hp s).trans (congrArg _ (quiesced_not h))
  · refine ⟨_, (exec_quiesced hp s).trans (congrArg _ (quiesced_atRest hstate hrest hnone)), ?_⟩
    have hmade := part_setPart (p := p) (s := event p 0x09 0 0 s)
      (x := { part (event p 0x09 0 0 s) p with state := .quiesced }) (listed_of_state (by decide : PartState.quiesced ≠ .free)).ne_free
    have hcount := event_partsCount p 0x09 0 0 s p (listed_of_state (by rw [hstate]; decide))
    refine ⟨congrArg Part.state hmade, (congrArg Part.curtain hmade).trans hcount.curtain, ?_⟩
    exact NoticeFrame.trans (t := event p 0x09 0 0 s) rfl (event_notice p 0x09 0 0 s)

end Sys2Proof.Machine

/-! PROOFS. CURTAIN and MARK at the stall: what a landed CTRL packet leaves, the curtain a tile raises, its posted refusal, the marks. -/

namespace Sys2Proof.Machine

/-! ## A CTRL packet lands (R52) -/

section landed
variable {c : CtrlPkt} {s : State}

/-- The stirrup once the packet has landed. -/
def landedStir (c : CtrlPkt) (x : Stirrup) : Stirrup := { x with exactFly := x.exactFly.filter fun f => f.tally || f.leftT != c.leftT }

theorem ctrlLanded_agendaOnly (c : CtrlPkt) (s : State) : AgendaOnly (ctrlLanded c s) (updStir c.src (landedStir c) s) :=
  wake_agendaOnly _ _

theorem ctrlLanded_frame (c : CtrlPkt) (s : State) :
    ctrlLanded c s = { s with stirs := (ctrlLanded c s).stirs, agenda := (ctrlLanded c s).agenda } := by
  have h := ctrlLanded_agendaOnly c s
  unfold AgendaOnly at h
  rw [h]
  rfl

theorem stir_ctrlLanded (ha : wAssigned (stir s c.src).role = true) : stir (ctrlLanded c s) c.src = landedStir c (stir s c.src) := by
  have h := ctrlLanded_agendaOnly c s
  unfold AgendaOnly at h
  rw [h]
  exact stir_setStir (ne_initial_of_assigned (x := landedStir c (stir s c.src)) ha)

theorem shadowPart_ctrlLanded (ha : wAssigned (stir s c.src).role = true) : shadowPart (ctrlLanded c s) c.src = shadowPart s c.src := by
  rw [shadowPart, stir_ctrlLanded ha]
  rfl

theorem reg_ctrlLanded (k : Nat) : reg (ctrlLanded c s) k = reg s k := by
  rw [ctrlLanded_frame]
  rfl

theorem clk_ctrlLanded : (ctrlLanded c s).clk = s.clk := by
  rw [ctrlLanded_frame]

theorem part_ctrlLanded (p : Nat) : part (ctrlLanded c s) p = part s p := by
  rw [ctrlLanded_frame]
  rfl

theorem obs_ctrlLanded : (ctrlLanded c s).obs = s.obs := by
  rw [ctrlLanded_frame]

theorem houseNow_ctrlLanded : houseNow (ctrlLanded c s) = houseNow s := by
  rw [ctrlLanded_frame]
  rfl

theorem traceMode_ctrlLanded : traceMode (ctrlLanded c s) = traceMode s := by
  rw [ctrlLanded_frame]
  rfl

theorem traceName_ctrlLanded (st : Nat) : traceName (ctrlLanded c s) st = traceName s st := by
  rw [ctrlLanded_frame]
  rfl

theorem exec_ctrl_unit {op : Nat} {t : State} (hw : wordIs 4 op c.word = true) (hsrc : c.src < nStirrup)
    (h : ctrlAtStall (stallOf c.src) c s = t) : execCtrl op (.unit c) s = .next t := execCtrl_unit_next.mpr ⟨hw, hsrc, h⟩

theorem wordIs_op {cls op : Nat} {w : W32} (h : wordIs cls op w = true) : (cOp w).toNat = op := by
  simp only [wordIs, Bool.and_eq_true, beq_iff_eq] at h
  exact h.2

end landed

/-! ## The TILE cause and the curtain (R246, R279, R288) -/

/-- Asking for the spans' curtain packets changes the fabric's queue and the curtain's sequence number alone. -/
theorem sendCurtain_frame (p act cause : Nat) (s : State) :
    sendCurtain p act cause s = { s with fab := (sendCurtain p act cause s).fab, cur := (sendCurtain p act cause s).cur } := by
  have hadd : ∀ (g : Nat → FabOut) (l : List Nat) (a : State),
      l.foldl (fun (b : State) q => { b with fab := { b.fab with reinQ := b.fab.reinQ ++ [g q] } }) a
        = { a with fab := (l.foldl (fun (b : State) q => { b with fab := { b.fab with reinQ := b.fab.reinQ ++ [g q] } }) a).fab } := by
    intro g l a
    obtain ⟨q, hq⟩ := foldl_reinQ g l a
    rw [hq]
  simp only [sendCurtain, curtainOut]
  refine List.foldlRecOn (motive := fun b : State => b = { s with fab := b.fab, cur := b.cur }) _ _ rfl fun b hb e _ => ?_
  rw [hadd, hb]

/-- What setting a cause leaves, besides the partitions' records, is a notice's. -/
theorem setCause_notice (p : Nat) (src : CurtainSrc) (s : State) : NoticeFrame (setCause p src s) s := by
  simp only [setCause]
  split
  · exact (event_notice _ _ _ _ _).trans rfl
  · rfl

/-- The cause stands, whatever the event told. -/
theorem causes_setCause (p : Nat) (src : CurtainSrc) (s : State) (h : (part s p).causes ||| 1#6 <<< causeOf src ≠ 0) :
    (part (setCause p src s) p).causes = (part s p).causes ||| 1#6 <<< causeOf src := by
  have hmade := part_setPart (p := p) (s := s) (listed_of_causes (x := { part s p with causes := (part s p).causes ||| 1#6 <<< causeOf src }) h).ne_free
  simp only [setCause]
  split
  · exact (event_partsCount _ _ _ _ _ p (by rw [hmade]; exact listed_of_causes h)).causes.trans (congrArg Part.causes hmade)
  · exact congrArg Part.causes hmade

theorem bitB_tileCause (b : BitVec 6) : bitB (b ||| 1#6 <<< causeOf .tile) 2 = true := by simp [bitB, causeOf]

theorem setCause_tile (p : Nat) (s : State) : bitB (part (setCause p .tile s) p).causes 2 = true := by
  have hset := bitB_tileCause (part s p).causes
  rw [causes_setCause p .tile s fun h => by rw [h] at hset; exact absurd hset (by decide)]
  exact hset

/-- The TILE cause set, the spans told if it is the partition's first. -/
def tileCaused (p : Nat) (s : State) : State :=
  if (part s p).causes = 0 then sendCurtain p 0 (causeOf .tile + 1) (setCause p .tile s) else setCause p .tile s

theorem tileCaused_cause (p : Nat) (s : State) : bitB (part (tileCaused p s) p).causes 2 = true := by
  unfold tileCaused
  split
  · rw [sendCurtain_frame]
    exact setCause_tile p s
  · exact setCause_tile p s

theorem tileCaused_keeps (p : Nat) (s : State) : (tileCaused p s).objs = s.objs ∧ (tileCaused p s).tree = s.tree := by
  have hset : (setCause p .tile s).objs = s.objs ∧ (setCause p .tile s).tree = s.tree := by
    rw [setCause_notice]
    exact ⟨rfl, rfl⟩
  unfold tileCaused
  split
  · rw [sendCurtain_frame]
    exact hset
  · exact hset

section
variable {c : CtrlPkt} {s : State}

/-- A CURTAIN with the right: the curtain is raised 20 TCLK after the command left (R288). -/
theorem ctrlAtStall_curtain (k : Nat) (hfr : s.tree.frozen.contains c.src = false) (ha : wAssigned (stir s c.src).role = true)
    (hw : wordIs 4 2 c.word = true) (hright : bitB (reg s (partKey (shadowPart s c.src) 0)) 23 = true) :
    ctrlAtStall k c s = schedule .tclk (max s.clk.tclk (c.leftT + 20)) (.curtainRaise (shadowPart s c.src) .tile true)
      (tileCaused (shadowPart s c.src) (ctrlLanded c s)) := by
  simp only [ctrlAtStall, hfr, wordIs_op hw, shadowPart_ctrlLanded ha, reg_ctrlLanded, clk_ctrlLanded, hright]
  rfl

theorem ctrlAtStall_curtain_raises (k : Nat) (hfr : s.tree.frozen.contains c.src = false) (ha : wAssigned (stir s c.src).role = true)
    (hw : wordIs 4 2 c.word = true) (hright : bitB (reg s (partKey (shadowPart s c.src) 0)) 23 = true) :
    ∃ u, ctrlAtStall k c s = schedule .tclk (max s.clk.tclk (c.leftT + 20)) (.curtainRaise (shadowPart s c.src) .tile true) u
      ∧ bitB (part u (shadowPart s c.src)).causes 2 = true ∧ u.objs = s.objs ∧ u.tree = s.tree := by
  obtain ⟨hobjs, htree⟩ := tileCaused_keeps (shadowPart s c.src) (ctrlLanded c s)
  refine ⟨_, ctrlAtStall_curtain k hfr ha hw hright, tileCaused_cause _ _, hobjs.trans ?_, htree.trans ?_⟩
  · rw [ctrlLanded_frame]
  · rw [ctrlLanded_frame]

/-- A CURTAIN without the right. -/
theorem ctrlAtStall_refused (k : Nat) (hfr : s.tree.frozen.contains c.src = false) (ha : wAssigned (stir s c.src).role = true)
    (hw : wordIs 4 2 c.word = true) (hright : bitB (reg s (partKey (shadowPart s c.src) 0)) 23 = false) :
    ctrlAtStall k c s = postedRefusal c.src c.word (ctrlLanded c s) := by
  simp only [ctrlAtStall, hfr, wordIs_op hw, shadowPart_ctrlLanded ha, reg_ctrlLanded, hright]
  rfl

theorem ctrlAtStall_mark (k : Nat) (hfr : s.tree.frozen.contains c.src = false) (ha : wAssigned (stir s c.src).role = true)
    (hw : wordIs 4 3 c.word = true) : ctrlAtStall k c s =
      traceMarkRec (shadowPart s c.src) (traceName s c.src) (cId c.word) c.pay0 0 (ctrlLanded c s) := by
  simp only [ctrlAtStall, hfr, wordIs_op hw, shadowPart_ctrlLanded ha, traceName_ctrlLanded]
  rfl

/-! ## A posted refusal (R54, R246) -/

theorem postSeen_postErr {x : Stirrup} (h : x.frozen = false) : (postSeen (postErr x)).posterr = true := by
  simp [postSeen, postErr, h]

/-- POSTERR is seen from the next edge on. -/
theorem postedRefusal_posterr {w : W32} {st : Nat} (ha : wAssigned (stir s st).role = true) (hf : (stir s st).frozen = false) :
    (postSeen (stir (postedRefusal st w s) st)).posterr = true := by
  have hassigned : wAssigned (postErr (stir s st)).role = true := by
    simp only [postErr, hf]
    exact ha
  rw [show stir (postedRefusal st w s) st = postErr (stir s st) from stir_setStir (ne_initial_of_assigned hassigned)]
  exact postSeen_postErr hf

theorem postedRefusal_frame (st : Nat) (w : W32) (s : State) : postedRefusal st w s = { s with
    stirs := (postedRefusal st w s).stirs, parts := (count (shadowPart s st) 4 1 s).parts, agenda := (postedRefusal st w s).agenda,
    free := (postedRefusal st w s).free } := rfl

end

/-! ## Marks (R279, R282) -/

section
variable {p who markid src : Nat} {value : W32} {s : State}

theorem traceMarkRec_off (h : traceMode s ≠ 2) : traceMarkRec p who markid value src s = s := if_neg h

theorem le_foldl_due (l : List Capture) (d : Nat) : d ≤ l.foldl (fun a c => max a c.due) d := by
  induction l generalizing d with
  | nil => exact Nat.le_refl d
  | cons c l ih => exact Nat.le_trans (Nat.le_max_left _ _) (ih _)

/-- A record crosses to the spill buffer at the second ECLK edge at the earliest, behind those that cross already (R33). -/
theorem traceCross_spec (r : TraceRec) (s : State) : ∃ d, s.clk.eclk + 2 ≤ d ∧ traceCross r s =
    { s with obs := { s.obs with capture := s.obs.capture ++ [{ due := d, item := r }] }, free := s.free + 1 } :=
  ⟨_, Nat.le_trans (Nat.le_add_right _ _) (le_foldl_due s.obs.capture (crossDue s .tclk .eclk 2 3).1), rfl⟩

/-- The record of a tile's mark. -/
def tileMark (p who markid : Nat) (value : W32) (s : State) : TraceRec :=
  { part := p, reserved := false, bad := false, bits := traceWord 4 p
      (who % 2 ^ 11 * 2 ^ 107 + markid % 2 ^ 13 * 2 ^ 94 + value.toNat * 2 ^ 62 + traceTime (houseNow s)) }

/-- In SMALL mode a tile's mark forms one record of a partition with a share of the bandwidth. -/
theorem traceMarkRec_crosses (h : traceMode s = 2) (hshare : (part s p).shareEff ≠ 0) :
    traceMarkRec p who markid value 0 s = traceCross (tileMark p who markid value s) s := by
  rw [traceMarkRec, if_pos h, traceOffer, if_neg hshare, Nat.zero_mul, Nat.add_zero]
  rfl

end

section
variable {c : CtrlPkt} {s : State}

theorem tileMark_ctrlLanded (p who markid : Nat) (value : W32) : tileMark p who markid value (ctrlLanded c s) = tileMark p who markid value s := by
  rw [tileMark, houseNow_ctrlLanded, tileMark]

theorem ctrlAtStall_mark_crosses (k : Nat) (hfr : s.tree.frozen.contains c.src = false) (ha : wAssigned (stir s c.src).role = true)
    (hw : wordIs 4 3 c.word = true) (hmode : traceMode s = 2) (hshare : (part s (shadowPart s c.src)).shareEff ≠ 0) :
    ∃ d, s.clk.eclk + 2 ≤ d ∧ ctrlAtStall k c s = { ctrlLanded c s with
      obs := { s.obs with capture := s.obs.capture ++
        [{ due := d, item := tileMark (shadowPart s c.src) (traceName s c.src) (cId c.word) c.pay0 s }] },
      free := (ctrlLanded c s).free + 1 } := by
  obtain ⟨d, hd, hcross⟩ := traceCross_spec (tileMark (shadowPart s c.src) (traceName s c.src) (cId c.word) c.pay0 s) (ctrlLanded c s)
  rw [clk_ctrlLanded] at hd
  rw [obs_ctrlLanded] at hcross
  refine ⟨d, hd, ?_⟩
  rw [ctrlAtStall_mark k hfr ha hw, traceMarkRec_crosses (by rw [traceMode_ctrlLanded, hmode]) (by rw [part_ctrlLanded]; exact hshare),
    tileMark_ctrlLanded, hcross]

end

/-! ## The obligation -/

/-- Settles O14: the branches of the stall for CURTAIN and MARK; landing moves the stirrup's record and the agenda alone. -/
theorem tileCurtainNeedsItsRight : Obligations.TileCurtainNeedsItsRight := by
  intro s c hsrc hfr ha p
  refine ⟨fun hw hright => ?_, fun hw hright hf => ?_, fun hw hmode => ?_, fun hw hmode hshare => ?_⟩
  · obtain ⟨u, hraise, hcause, hobjs, htree⟩ := ctrlAtStall_curtain_raises (stallOf c.src) hfr ha hw hright
    exact ⟨_, exec_ctrl_unit hw hsrc hraise, hcause, List.mem_append_right _ (List.mem_singleton_self _), hobjs, htree⟩
  · have hparts : (count p 4 1 (ctrlLanded c s)).parts = (count p 4 1 s).parts := by
      rw [ctrlLanded_frame]
      rfl
    have hland := stir_ctrlLanded (c := c) ha
    refine ⟨_, exec_ctrl_unit hw hsrc (ctrlAtStall_refused _ hfr ha hw hright), postedRefusal_posterr (by rw [hland]; exact ha)
      (by rw [hland]; exact hf), ?_, ?_⟩
    · rw [postedRefusal_frame, shadowPart_ctrlLanded ha, hparts]
    · rw [postedRefusal_frame, shadowPart_ctrlLanded ha, hparts, ctrlLanded_frame]
  · refine ⟨_, exec_ctrl_unit hw hsrc (ctrlAtStall_mark _ hfr ha hw), ?_⟩
    rw [traceMarkRec_off (by rw [traceMode_ctrlLanded]; exact hmode)]
    exact ctrlLanded_frame c s
  · obtain ⟨d, hd, hcross⟩ := ctrlAtStall_mark_crosses (stallOf c.src) hfr ha hw hmode hshare
    refine ⟨_, exec_ctrl_unit hw hsrc hcross, ⟨_, List.mem_append_right _ (List.mem_singleton_self _), hd, rfl⟩, ?_⟩
    rw [ctrlLanded_frame]

end Sys2Proof.Machine

/-! PROOFS. The host's rings: doorbells, the enabling, stopping and resetting of a ring, and what a stop leaves. -/

namespace Sys2Proof.Machine

/-! ## Ring registers -/

section regs
variable {p q o o' : Nat} {v : W32} {s : State}

/-- Another register of the page is left, whatever the two read as where they are not listed. -/
theorem pageReg_setPage_ne (h : o' ≠ o) : pageReg (setPage p o v s) p o' = pageReg s p o' := by
  have hkey : pageKey p o' ≠ pageKey p o := by simpa only [pageKey, ne_eq, Nat.add_left_cancel_iff] using h
  rw [pageReg, setPage_page, Tbl.set]
  split
  · exact Tbl.get_erase_ne _ _ _ _ hkey
  · rw [Tbl.get_insert, if_neg hkey]
    rfl

theorem pageReg_setPage_self (h : v ≠ pageReset (pageKey p o)) : pageReg (setPage p o v s) p o = v := Tbl.get_set_self _ _ _ _ h

theorem RingsStay.pageReg {t : State} (h : RingsStay t s) : pageReg t p o = pageReg s p o := congrArg (Tbl.get _ · _) h.page

/-- A control register of a submission ring reads 6 from reset on. -/
theorem pageReset_sqCtl (hq : q < 4) : pageReset (pageKey p (0x20 * q + 8)) = 6#32 := by
  have hkey : pageKey p (0x20 * q + 8) % 0x1000 = 0x20 * q + 8 := by simp only [pageKey]; omega
  simp only [pageReset, hkey]
  exact if_pos (by omega)

end regs

/-! ## What a notice leaves of the rings (R254, R264) -/

theorem NoticeFrame.houseNow {t s : State} (h : NoticeFrame t s) : houseNow t = houseNow s := by rw [h]; rfl

theorem rcBefore_ringsStay (off : Nat) (old : W32) (s : State) : RingsStay (rcBefore off old s) s := by
  unfold rcBefore
  split <;> exact ⟨rfl, rfl, rfl⟩

/-- An event moves its ring's PROD or counts in its LOST, and no other page register. -/
theorem event_ringsStay (p type : Nat) (d0 : W32) (d1 : W128) (s : State) :
    ∃ o v, (o = 0xAC ∨ o = 0xB4) ∧ RingsStay (event p type d0 d1 s) (setPage p o v s) := by
  simp only [event]
  split
  · exact ⟨0xB4, _, .inr rfl, (rcBefore_ringsStay _ _ s).setPage _ _ _⟩
  · refine ⟨0xAC, pageReg s p 0xAC + 1, .inl rfl, ?_⟩
    have hentry := fun w0 w1 w2 w3 => (writeEntry_ringsStay p 2 (ringBase (pageReg s p 0xA0) (pageReg s p 0xA4)) (pageReg s p 0xAC)
      (bitsN (pageReg s p 0xA8) 4 0) w0 w1 w2 w3 s).setPage p 0xAC (pageReg s p 0xAC + 1)
    split
    · exact (raiseIrq_ringsStay _ _ _).trans ((wantWriteback_ringsStay _ _).trans (hentry _ _ _ _))
    · exact (wantWriteback_ringsStay _ _).trans (hentry _ _ _ _)

theorem event_descs (p type : Nat) (d0 : W32) (d1 : W128) (s : State) : (event p type d0 d1 s).hq.descs = s.hq.descs := by
  obtain ⟨o, v, -, hstay⟩ := event_ringsStay p type d0 d1 s
  exact hstay.descs

theorem pageReg_event {p o : Nat} (h : o < 0xA8) (type : Nat) (d0 : W32) (d1 : W128) (s : State) :
    pageReg (event p type d0 d1 s) p o = pageReg s p o := by
  obtain ⟨o', v, ho, hstay⟩ := event_ringsStay p type d0 d1 s
  rw [hstay.pageReg, pageReg_setPage_ne (by omega)]

/-- Asking for an index record changes who waits for one and what is due, and nothing else (R254). -/
theorem wantWriteback_frame (p : Nat) (s : State) : wantWriteback p s =
    { s with hq := { s.hq with wbDue := (wantWriteback p s).hq.wbDue }, agenda := (wantWriteback p s).agenda } := by
  simp only [wantWriteback]
  split <;> rfl

/-- Registers written, and an index record asked for. -/
theorem wantWriteback_written (p : Nat) {u s : State} (h : u = { s with page := u.page }) :
    (wantWriteback p u).page = u.page ∧ wantWriteback p u = { s with
      page := (wantWriteback p u).page, hq := { s.hq with wbDue := (wantWriteback p u).hq.wbDue }, agenda := (wantWriteback p u).agenda } := by
  refine ⟨(wantWriteback_ringsStay p u).page, ?_⟩
  rw [wantWriteback_frame p u, h]

/-! ## A ring stops (R263) -/

section stop
variable (p q : Nat) (idx : W32) (cause op : Nat) (s : State)

/-- The ring's registers as a stop leaves them. -/
def stopMarked : State := setPage p (0x20 * q + 0x10) idx (setPage p (0x20 * q + 8) (putBits (sqCtl s p q ||| 0x4000_0000#32) 23 16 cause) s)

/-- The fetched descriptors that a stop leaves: those of other rings, those started and those before the index. -/
def stopLeaves (l : List DescState) : List DescState :=
  l.filter fun d => !(d.x.part == p && d.x.ring == q && !d.started && fromIdx idx d.x.idx)

/-- The stopped ring before its event and its record. -/
def stopQuiet : State :=
  wantWriteback p { stopMarked p q idx cause s with hq := { s.hq with descs := stopLeaves p q idx s.hq.descs } }

theorem stopRing_eq : stopRing p q idx cause op s = report 0x0F 17 q (some p) [2, op, cause]
    (event p 0x01 (BitVec.ofNat 32 q) (BitVec.ofNat 128 (idx.toNat + cause * 2 ^ 32)) (stopQuiet p q idx cause s)) := rfl

theorem stopQuiet_notice : NoticeFrame (stopQuiet p q idx cause s) s := by
  unfold stopQuiet
  refine (wantWriteback_notice _ _).trans ?_
  rfl

theorem stopRing_told : Told (stopRing p q idx cause op s) s 0x0F 17 q (some p) [2, op, cause] :=
  (report_told 0x0F 17 q (some p) [2, op, cause] _).of_houseNow
    ((event_notice p 0x01 _ _ _).trans (stopQuiet_notice p q idx cause s)).houseNow

theorem stopRing_descs : (stopRing p q idx cause op s).hq.descs = stopLeaves p q idx s.hq.descs :=
  (event_descs p 0x01 _ _ _).trans (wantWriteback_ringsStay p _).descs

variable {p q idx cause op s}

theorem pageReg_stopRing {o : Nat} (h : o < 0xA8) : pageReg (stopRing p q idx cause op s) p o = pageReg (stopMarked p q idx cause s) p o :=
  (pageReg_event h 0x01 _ _ _).trans (wantWriteback_ringsStay p _).pageReg

theorem stopRing_ctl (hq : q < 4) (h : putBits (sqCtl s p q ||| 0x4000_0000#32) 23 16 cause ≠ 6#32) :
    pageReg (stopRing p q idx cause op s) p (0x20 * q + 8) = putBits (sqCtl s p q ||| 0x4000_0000#32) 23 16 cause := by
  rw [pageReg_stopRing (by omega), stopMarked, pageReg_setPage_ne (by omega), pageReg_setPage_self (by rwa [pageReset_sqCtl hq])]

theorem stopRing_prod (hq : q < 4) : pageReg (stopRing p q idx cause op s) p (0x20 * q + 0xC) = pageReg s p (0x20 * q + 0xC) := by
  rw [pageReg_stopRing (by omega), stopMarked, pageReg_setPage_ne (by omega), pageReg_setPage_ne (by omega)]

end stop

/-- A control word whose STOPPED is 1 is not the one of reset. -/
theorem putBits_stopped_ne (w : W32) (cause : Nat) : putBits (w ||| 0x4000_0000#32) 23 16 cause ≠ 6#32 := by
  intro h
  have hbit := congrArg (·.getLsbD 30) h
  simp [putBits] at hbit

/-! ## Doorbells (R255) -/

section ring
variable {p q : Nat} {v : W32} {s : State}

theorem exec_sqDoorbell (hp : p < 64) (hq : q < 4) : exec (.sqDoorbell p q v) s = .next (regWrite (doorbell p q v) s) :=
  answer_of ⟨hp, hq⟩ _

/-- Whether a doorbell's value stands within the ring: not behind PROD, nor further from CONS than the ring is long (R255). -/
def RingTakes (s : State) (p q : Nat) (v : W32) : Prop :=
  (sqProd s p q - sqCons s p q).toNat ≤ (v - sqCons s p q).toNat ∧ (v - sqCons s p q).toNat ≤ ringSize (sqCtl s p q)

theorem doorbell_stored (h : ringEn (sqCtl s p q) = false ∨ s.boot.reduced = true ∨ RingTakes s p q v) :
    doorbell p q v s = setPage p (0x20 * q + 0xC) v s := by
  simp only [doorbell]
  split
  · rfl
  · next hchecked =>
    simp only [Bool.or_eq_true, Bool.not_eq_true', not_or, Bool.not_eq_false] at hchecked
    obtain ⟨hen, hfull⟩ := hchecked
    refine if_pos (h.elim (fun hoff => ?_) fun h => h.elim (fun hred => ?_) id)
    · exact absurd (hen.symm.trans hoff) (by decide)
    · exact absurd hred hfull

theorem doorbell_invalid (hen : ringEn (sqCtl s p q) = true) (hfull : s.boot.reduced = false) (h : ¬ RingTakes s p q v) :
    doorbell p q v s = stopRing p q (sqCons s p q) 0x04 0xFF s :=
  (if_neg (by simp [hen, hfull])).trans (if_neg h)

/-! ## Control writes and resets (R254, R263) -/

theorem exec_sqEnable (hp : p < 64) (hq : q < 4) : exec (.sqEnable p q v) s = .next (regWrite (writeSqCtl p q v) s) :=
  answer_of ⟨hp, hq⟩ _

theorem exec_sqReset (hp : p < 64) (hq : q < 4) : exec (.sqReset p q) s = .next (regWrite (sqRestart p q) s) := answer_of ⟨hp, hq⟩ _

theorem exec_cqReset (hp : p < 64) : exec (.cqReset p) s = .next (regWrite (outReset p 0x88) s) := answer_of hp _

theorem exec_eqReset (hp : p < 64) : exec (.eqReset p) s = .next (regWrite (outReset p 0xA8) s) := answer_of hp _

theorem exec_cqDoorbell (hp : p < 64) : exec (.cqDoorbell p v) s = .next (regWrite (setPage p 0x90 v) s) := answer_of hp _

/-- The control register with EN and LOG2SIZE written, the other bits as in `w`. -/
def setSqCtl (p q : Nat) (w : W32) (en size : Nat) (u : State) : State := setPage p (0x20 * q + 8) (putBits (putBits w 31 31 en) 4 0 size) u

/-- A size that is fixed while EN is 1 (R254). -/
theorem log2After_fixed {was : W32} (h : ringEn was = true) (hsame : bitsN v 4 0 = bitsN was 4 0) :
    log2After was v log2Ok = (bitsN was 4 0, false) := by
  simp [log2After, h, hsame]

theorem log2After_free {was : W32} (h : ringEn was = false) :
    log2After was v log2Ok = if log2Ok (bitsN v 4 0) then (bitsN v 4 0, false) else (bitsN was 4 0, true) := by
  simp [log2After, h]

/-- A control write of size `n`, where RESET and a rising EN ask for nothing more. -/
theorem writeSqCtl_plain {n : Nat} {bad : Bool} (hsize : log2After (sqCtl s p q) v log2Ok = (n, bad))
    (hrise : (ringEn v && !ringEn (sqCtl s p q)) = false) (hreset : bitB v 29 = false) :
    writeSqCtl p q v s = setSqCtl p q (sqCtl s p q) (ringEn v).toNat n (if bad then ppErr p s else s) := by
  simp only [writeSqCtl, hsize, hrise, hreset]
  rfl

theorem writeSqCtl_reset {n : Nat} (hsize : log2After (sqCtl s p q) v log2Ok = (n, false))
    (hrise : (ringEn v && !ringEn (sqCtl s p q)) = false) (hreset : bitB v 29 = true) :
    writeSqCtl p q v s = sqRestart p q (setSqCtl p q (sqCtl s p q) (ringEn v).toNat n s) := by
  simp only [writeSqCtl, hsize, hrise, hreset]
  rfl

/-- EN rising sets CONS to PROD. -/
theorem writeSqCtl_rises {n : Nat} (hsize : log2After (sqCtl s p q) v log2Ok = (n, false)) (hv : ringEn v = true)
    (hwas : ringEn (sqCtl s p q) = false) (hreset : bitB v 29 = false) :
    writeSqCtl p q v s = wantWriteback p (setPage p (0x20 * q + 0x10) (sqProd s p q) (setSqCtl p q (sqCtl s p q) 1 n s)) := by
  have hprod : sqProd (setSqCtl p q (sqCtl s p q) 1 n s) p q = sqProd s p q :=
    pageReg_setPage_ne (o := 0x20 * q + 8) (o' := 0x20 * q + 0xC) (by omega)
  rw [← hprod]
  simp only [writeSqCtl, hsize, hv, hwas, hreset]
  rfl

theorem outReset_stopped {o : Nat} (h : bitB (pageReg s p o) 30 = true) : outReset p o s =
    wantWriteback p (setPage p (o + 4) (pageReg s p (o + 8)) (setPage p o (pageReg s p o &&& 0xBFFF_FFFF#32) s)) := if_pos h

theorem outReset_running {o : Nat} (h : bitB (pageReg s p o) 30 = false) : outReset p o s = s := if_neg (by simp [ringStopped, h])

end ring

/-! ## The obligation -/

/-- Settles O48: each write answers the state of its branch; a stop is read off its registers, its event and its record. -/
theorem ringsRunAndStop : Obligations.RingsRunAndStop := by
  intro s p q v hp hq ctl prod cons n inRange live cut sized
  refine ⟨?_, ?_, ?_, ?_, ?_, ?_, ?_, ?_, ?_, ?_, ?_, ?_, ?_⟩
  · intro hl hstores
    rw [exec_sqDoorbell hp hq, regWrite_live hl, doorbell_stored hstores]
  · intro hl hen hfull hout
    rw [exec_sqDoorbell hp hq, regWrite_live hl, doorbell_invalid hen hfull hout]
    exact completes_next.mpr ⟨rfl, stopRing_ctl hq (putBits_stopped_ne _ _), stopRing_prod hq, stopRing_told _ _ _ _ _ _,
      stopRing_descs _ _ _ _ _ _⟩
  · intro hl hwas hv hreset hlow hhigh
    have hsize : log2After (sqCtl s p q) v log2Ok = (bitsN v 4 0, false) :=
      (log2After_free hwas).trans (if_pos (decide_eq_true ⟨hlow, hhigh⟩))
    rw [exec_sqEnable hp hq, regWrite_live hl, writeSqCtl_rises hsize hv hwas hreset]
    exact completes_next.mpr (wantWriteback_written p rfl)
  · intro hl hwas hv hreset hsame
    rw [exec_sqEnable hp hq, regWrite_live hl, writeSqCtl_plain (log2After_fixed hwas hsame) (by rw [ringEn, hv]; rfl) hreset,
      ringEn, hv]
    rfl
  · intro hl hwas hv hreset hbad
    have hsize : log2After (sqCtl s p q) v log2Ok = (bitsN ctl 4 0, true) :=
      (log2After_free hwas).trans (if_neg (by simp only [log2Ok, decide_eq_true_eq]; omega))
    rw [exec_sqEnable hp hq, regWrite_live hl, writeSqCtl_plain hsize (by rw [ringEn, hv]; rfl) hreset, ringEn, hv]
    rfl
  · intro hl hwas hv hreset hsame
    rw [exec_sqEnable hp hq, regWrite_live hl, writeSqCtl_reset (log2After_fixed hwas hsame)
      (by rw [ringEn, ringEn, hv]; exact congrArg (!·) hwas) hreset, ringEn, hv]
    rfl
  · intro hl
    rw [exec_sqReset hp hq, regWrite_live hl]
    exact completes_next.mpr (wantWriteback_written p rfl)
  · intro hrun
    rw [exec_cqReset hp, regWrite_unchanged (outReset_running hrun)]
  · intro hl hstop
    rw [exec_cqReset hp, regWrite_live hl, outReset_stopped hstop]
    exact completes_next.mpr (wantWriteback_written p rfl)
  · intro hrun
    rw [exec_eqReset hp, regWrite_unchanged (outReset_running hrun)]
  · intro hl hstop
    rw [exec_eqReset hp, regWrite_live hl, outReset_stopped hstop]
    exact completes_next.mpr (wantWriteback_written p rfl)
  · intro hl
    rw [exec_cqDoorbell hp, regWrite_live hl]
  · intro hr
    rw [exec_sqDoorbell hp hq, exec_sqEnable hp hq, exec_sqReset hp hq, exec_cqReset hp, exec_eqReset hp, exec_cqDoorbell hp]
    simp only [regWrite_reset hr, and_self]

end Sys2Proof.Machine

/-! PROOFS. A power-down asked for while the read of one before it is still awaited. -/

namespace Sys2Proof.Machine

/-- A decoded NOP of ring 0 of partition 0. -/
def fetchedNop : DescState :=
  { x := { part := 0, ring := 0, idx := 0, d := [0, 0, 0, 0, 0, 0, 0, 0] }, decoded := true, aborted := false, readyAt := 0,
    started := false, parked := false, refusal := 0, endAt := 0, ids := [], left := 0, next := 0, worst := 0 }

/-- The NOP is fetched and the queues are not off; the read that ends a power-down is awaited, and no longer in the queue to the host. -/
def flushAwaitedDie : State :=
  { State.reset with
    boot := { State.reset.boot with inReset := false, reduced := false }
    hq := { State.reset.hq with descs := [fetchedNop], flushWait := true } }

/-- The descriptors end, and as no read is in the queue the request is acknowledged at once: no further step of it is due. -/
theorem powerDown_flushAwaitedDie :
    ((powerDown flushAwaitedDie).agenda.any fun a => a.ev == .powerDown) = false ∧ (powerDown flushAwaitedDie).su.mbResult = 1#4 := by
  refine ⟨?_, ?_⟩ <;> decide +kernel

theorem exec_powerDown (s : State) : exec .powerDown s = .next (powerDown s) := rfl

/-! ## The obligation -/

/-- Refutes O49: the clause on a power-down that finds the queues not yet off names no `flushWait`, and the statement has every such
request leave a further step due. Where the read is taken as sent and come back, the engine acknowledges the request in this step (R270,
R326). -/
theorem not_hostWritesAndInterruptsLeave : ¬ Obligations.HostWritesAndInterruptsLeave := by
  intro h
  obtain ⟨-, -, -, -, -, -, -, -, -, -, -, -, -, -, -, -, -, -, -, -, hstops⟩ :=
    h flushAwaitedDie 0 0 fetchedNop { x := fetchedNop.x, raised := false, stage := 0 } (by decide) (by decide)
  obtain ⟨t, ht, -, -, a, ha, -, hev⟩ := hstops rfl rfl rfl rfl rfl
  obtain rfl := Host.Outcome.next.inj ((exec_powerDown flushAwaitedDie).symm.trans ht)
  exact List.any_eq_false.mp powerDown_flushAwaitedDie.1 a ha (beq_iff_eq.mpr hev)

end Sys2Proof.Machine

/-! PROOFS. The SNAPSHOT of a tenant's ring acts on the ring's own partition, whatever curtain partition 0 is under (R260, R293). -/

namespace Sys2Proof.Machine

/-! ## The request at the head of the queue (R293) -/

section head
variable {x : Desc} {y : SnapRun} {s : State}

theorem exec_snapshot_head (hok : descOk x = true) (hop : descOp x = 8) (hform : malformed s x = 0) {l : List SnapRun}
    (hhead : s.obs.snaps = y :: l) (hsame : sameDesc y.x x = true) : exec (.snapshot x) s = .next (snapAdvance y s) := by
  have hrow : descIs s 8 x = true := by simp [descIs, hop, hform]
  have hrun : runSnapshot x s = snapAdvance y s := by
    rw [runSnapshot, hhead]
    exact if_pos hsame
  calc exec (.snapshot x) s = answer (descOk x) (runSnapshot x s) := if_neg (by simp [hrow])
    _ = .next (snapAdvance y s) := answer_next.mpr ⟨hok, hrun⟩

/-- Where the curtain of its partition was lifted before the capture, the request asks for it anew. -/
theorem snapAdvance_uncovered (hstage : y.stage = 2) (hcov : covered s (snapTarget y.x) = false) :
    snapAdvance y s = afterT 1 (.snapshot y.x) (setSnap { y with stage := 0 } s) := by
  simp [snapAdvance, hstage, hcov]

end head

/-! ## Partition 5 asks while partition 0 is under a curtain -/

/-- A SNAPSHOT of ring 0 of partition 5: its target field is 0, as R260 asks outside the manager ring. -/
def tenantSnapshot : Desc := { part := 5, ring := 0, idx := 0, d := [8, 0, 0, 0, 0x10_0000, 524288, 0, 0] }

/-- Its run, waiting to capture under a curtain that it did not raise. -/
def tenantRun : SnapRun := { x := tenantSnapshot, raised := false, stage := 2 }

/-- Partition 0 is under the Manager's curtain, and the one of partition 5 has been lifted. -/
def tenantDie : State :=
  { State.reset with
    boot := { State.reset.boot with inReset := false, reduced := false }
    parts := [(0, { Part.initial .active with causes := 0x10, curtain := 0x10 }), (5, Part.initial .active)]
    obs := { State.reset.obs with snaps := [tenantRun] } }

theorem covered_tenantDie :
    covered tenantDie (descBits tenantSnapshot 1 5 0) = true ∧ covered tenantDie (snapTarget tenantSnapshot) = false := by
  refine ⟨?_, ?_⟩ <;> decide

/-- Nothing is captured: the run starts again. -/
theorem exec_tenantSnapshot :
    exec (.snapshot tenantSnapshot) tenantDie = .next (afterT 1 (.snapshot tenantSnapshot) (setSnap { tenantRun with stage := 0 } tenantDie)) :=
  (exec_snapshot_head (by decide) (by decide) (by decide) rfl (by decide)).trans
    (congrArg _ (snapAdvance_uncovered rfl covered_tenantDie.2))

/-! ## The obligation -/

/-- Refutes O50: the statement takes the target field of every SNAPSHOT for its partition, and the field names one on the manager ring
alone; elsewhere it is 0 and the ring's own partition is captured (R260). With a curtain over partition 0 and none over partition 5 the
statement has partition 5's request capture, and the engine waits for partition 5's curtain. -/
theorem not_descriptorsAreFetchedAndStart : ¬ Obligations.DescriptorsAreFetchedAndStart := by
  intro h
  obtain ⟨-, -, -, -, -, -, -, -, -, -, hcaptures, -⟩ := h tenantDie tenantSnapshot fetchedNop 0 0 tenantRun (by decide)
  obtain ⟨t, ht, hobs, -⟩ := hcaptures ⟨rfl, rfl, by decide, by decide, rfl⟩ rfl covered_tenantDie.1
  obtain rfl := Host.Outcome.next.inj (exec_tenantSnapshot.symm.trans ht)
  have hstage : [0] = [3] := congrArg (fun o : Observe => o.snaps.map SnapRun.stage) hobs
  exact absurd hstage (by decide)

end Sys2Proof.Machine

/-! PROOFS. A step and the command at the front of the queue. -/

namespace Sys2Proof.Machine

/-- Settles O57: the queue of the state with a front command is the one that `step` looks at, and no row of the opcode table has bits. -/
theorem stepRunsTheFrontCommand : Obligations.StepRunsTheFrontCommand := by
  intro s c rest nbits w
  refine ⟨rfl, fun hidle => ?_, rfl, rfl⟩
  rw [step, hidle]

end Sys2Proof.Machine

/-! PROOFS. The end of a curtain at a store of partitions that lists one key twice. -/

namespace Sys2Proof.Machine

/-! ## The last bit of a partition in use -/

theorem resumePart_hq (p : Nat) (s : State) : (resumePart p s).hq = s.hq := by rw [resumePart_frame]

theorem resumePart_parts (p : Nat) (s : State) : (resumePart p s).parts = s.parts := by rw [resumePart_frame]

/-- With no descriptor fetched none completes. -/
theorem curtainDone_none {s : State} (h : s.hq.descs = []) (p act : Nat) (src : CurtainSrc) : curtainDone p act src s = s := by
  rw [curtainDone, h]
  rfl

/-- What follows the last bit of a curtain: the event, then the partition's work goes on (R289). -/
def curtainEnded (p : Nat) (s : State) : State :=
  resumePart p (event p 0x03 0 0 (setPart p { part s p with curtain := 0 } s))

/-- A lift that takes the last bit in force answers the state after the event. -/
theorem exec_curtainLift_lastBit {p : Nat} {src : CurtainSrc} {s : State} (hp : p < 64) (hdescs : s.hq.descs = [])
    (hup : (part s p).curtain ≠ 0) (hlast : (part s p).curtain &&& ~~~ (mayClear src) = 0) :
    exec (.curtainLift p src true) s = .next (curtainEnded p s) := by
  have hfall : curtainFall p src 0 s = curtainEnded p s := by
    simp only [curtainFall, hlast]
    exact if_pos ⟨hup, trivial⟩
  have hnone : (curtainEnded p s).hq.descs = [] := by rw [curtainEnded, resumePart_hq, event_descs, setPart_hq, hdescs]
  refine (answer_of hp _).trans (congrArg _ ?_)
  rw [curtainLift, if_pos rfl, hfall, curtainDone_none hnone]

/-- In use, the partition has no curtain then. -/
theorem curtain_curtainEnded {p : Nat} {s : State} (h : (part s p).state ≠ .free) : (part (curtainEnded p s) p).curtain = 0 := by
  have hlisted : Listed { part s p with curtain := 0 } := listed_of_state h
  have hmade : part (setPart p { part s p with curtain := 0 } s) p = { part s p with curtain := 0 } := part_setPart hlisted.ne_free
  have hevent := (event_partsCount p 0x03 0 0 (setPart p { part s p with curtain := 0 } s) p (by rwa [hmade])).curtain
  rw [curtainEnded, part, resumePart_parts]
  exact hevent.trans (congrArg Part.curtain hmade)

/-! ## A FREE partition listed twice -/

/-- Partition 0 FREE with a verdict's bit in force, listed twice. -/
def twiceCurtained : Tbl Part := [(0, { partFree with curtain := 1 }), (0, { partFree with curtain := 1 })]

def twiceCurtainedDie : State := { State.reset with parts := twiceCurtained }

/-- Without its last bit the first record reads as an unlisted one and is dropped: the second is read from then on. -/
theorem curtain_twiceCurtainedDie :
    (part twiceCurtainedDie 0).curtain = 1#6 ∧ (part (curtainEnded 0 twiceCurtainedDie) 0).curtain = 1#6 := by
  refine ⟨?_, ?_⟩ <;> decide +kernel

/-! ## The obligation -/

/-- Refutes O34: the statement quantifies over stores that list a partition twice. There the last bit of a FREE partition's curtain drops
one record and another, with its bit still in force, stands behind it. For a partition in use the clause holds (`curtain_curtainEnded`). -/
theorem not_curtainsRiseAndLift : ¬ Obligations.CurtainsRiseAndLift := by
  intro h
  obtain ⟨-, -, -, -, -, hends, -⟩ := h twiceCurtainedDie 0 .manager (by decide)
  obtain ⟨hup, hstill⟩ := curtain_twiceCurtainedDie
  have hraised : (part twiceCurtainedDie 0).curtain ≠ 0 := by rw [hup]; decide
  have hlast : (part twiceCurtainedDie 0).curtain &&& ~~~ (mayClear .manager) = 0 := by rw [hup]; decide
  obtain ⟨t, ht, hdown, -⟩ := hends rfl hraised hlast
  obtain rfl := Host.Outcome.next.inj ((exec_curtainLift_lastBit (by decide) rfl hraised hlast).symm.trans ht)
  exact absurd (hstill.symm.trans hdown) (by decide)

end Sys2Proof.Machine

/-! PROOFS. A watchpoint's change of owner at a store of staged words that lists one key twice. -/

namespace Sys2Proof.Machine

/-! ## EN of the staged word (R284) -/

/-- Where each word is listed once, EN is staged no longer. -/
theorem stagedEn_wpOwnerWrite {s : State} (h : Tbl.wf (fun _ => noStage) s.staged = true) (w : Nat) (v : W32) :
    bitB (stagedAt (wpOwnerWrite w v s) (wpKey w 0)).val 31 = false := by
  have hread := Tbl.get_set_wf (fun _ => noStage) (wpKey w 0)
    { stagedAt s (wpKey w 0) with
      val := (stagedAt s (wpKey w 0)).val &&& 0x7FFF_FFFF#32
      pend := (stagedAt s (wpKey w 0)).pend.map fun x => (x.1 &&& 0x7FFF_FFFF#32, x.2) } s.staged h
  have hstaged : (stagedAt (wpOwnerWrite w v s) (wpKey w 0)).val = (stagedAt s (wpKey w 0)).val &&& 0x7FFF_FFFF#32 :=
    congrArg Staged.val hread
  rw [hstaged]
  simp [bitB]

theorem exec_wpOwnerWrite {w : Nat} {s : State} (hw : w < 16) (hl : s.boot.inReset = false) (v : W32) :
    exec (.wpOwnerWrite w v) s = .next (wpOwnerWrite w v s) := by
  exact (answer_of hw _).trans (congrArg _ (regWrite_live hl _))

/-! ## A word listed twice -/

/-- EN of watchpoint 0 staged under no mask, its word listed twice. -/
def twiceStaged : Tbl Staged :=
  [(wpKey 0 0, { val := 0x8000_0000#32, mask := 0, pend := [] }), (wpKey 0 0, { val := 0x8000_0000#32, mask := 0, pend := [] })]

def twiceStagedDie : State :=
  { State.reset with
    boot := { State.reset.boot with inReset := false }
    staged := twiceStaged }

/-- Without EN the first entry reads as an unlisted one and is dropped: the second is read from then on. -/
theorem stagedEn_twiceStagedDie : bitB (stagedAt (wpOwnerWrite 0 0 twiceStagedDie) (wpKey 0 0)).val 31 = true := by decide +kernel

/-! ## The obligation -/

/-- Refutes O53: the statement quantifies over stores that list a staged word twice. There a change of owner that leaves nothing staged drops
one entry and another, with EN 1, stands behind it. In a store that lists each word once the clause holds (`stagedEn_wpOwnerWrite`). -/
theorem not_traceIsSampledAndSent : ¬ Obligations.TraceIsSampledAndSent := by
  intro h
  obtain ⟨-, -, -, -, -, -, -, -, -, -, -, howner⟩ :=
    h twiceStagedDie 0 0 0 0 0 { part := 0, reserved := false, bits := 0, bad := false } []
  obtain ⟨t, ht, -, hclear, -⟩ := howner (by decide) rfl
  obtain rfl := Host.Outcome.next.inj ((exec_wpOwnerWrite (by decide) rfl 0).symm.trans ht)
  exact absurd (stagedEn_twiceStagedDie.symm.trans hclear) (by decide)

end Sys2Proof.Machine

/-! PROOFS. The boot block under the apply points and what they call: the host's notices, the home, a cue on its way, spans. -/

namespace Sys2Proof.Machine

/-! ## Folds, branches and frames -/

/-- Of a fold whose every turn leaves the boot block, and whose start does. -/
theorem foldl_boot {α : Type} {f : State → α → State} {l : List α} {s u : State} (h : ∀ a x, (f a x).boot = a.boot)
    (hs : s.boot = u.boot) : (l.foldl f s).boot = u.boot := by
  induction l generalizing s with
  | nil => exact hs
  | cons x l ih => exact ih ((h s x).trans hs)

/-- Of a branch whose two sides leave the boot block. -/
theorem ite_boot {c : Prop} [Decidable c] {t u s : State} (ht : t.boot = s.boot) (hu : u.boot = s.boot) :
    (if c then t else u).boot = s.boot := by
  split
  · exact ht
  · exact hu

theorem TreeOnly.boot {t s : State} (h : TreeOnly t s) : t.boot = s.boot := by rw [h]

theorem AgendaOnly.boot {t s : State} (h : AgendaOnly t s) : t.boot = s.boot := by rw [h]

theorem TlyOnly.boot {t s : State} (h : TlyOnly t s) : t.boot = s.boot := by rw [h]

theorem NoticeFrame.boot {t s : State} (h : NoticeFrame t s) : t.boot = s.boot := by rw [h]

@[simp] theorem settle_boot (at_ : Place) (slot : Nat) (s : State) : (settle at_ slot s).boot = s.boot :=
  (settle_touches at_ slot s).1.boot

@[simp] theorem wake_boot (st : Nat) (s : State) : (wake st s).boot = s.boot := (wake_agendaOnly st s).boot

@[simp] theorem event_boot (p type : Nat) (d0 : W32) (d1 : W128) (s : State) : (event p type d0 d1 s).boot = s.boot :=
  (event_notice p type d0 d1 s).boot

@[simp] theorem entryReject_boot (off v row entry : Nat) (p : Option Nat) (s : State) : (entryReject off v row entry p s).boot = s.boot := rfl

@[simp] theorem rejectEvent_boot (s : State) (p kind rel : Nat) : (rejectEvent s p kind rel).boot = s.boot := event_boot _ _ _ _ _

/-! ## Completions and answers of the home -/

theorem irqCheck_boot (p : Nat) (s : State) : (irqCheck p s).boot = s.boot :=
  ite_boot (raiseIrq_notice _ _ _).boot rfl

theorem irqArm_boot (p : Nat) (s : State) : (irqArm p s).boot = s.boot := ite_boot rfl rfl

theorem moderate_boot (p : Nat) (irq : Bool) (s : State) : (moderate p irq s).boot = s.boot :=
  (irqCheck_boot _ _).trans (ite_boot (irqArm_boot _ _) rfl)

theorem complete_boot (x : Desc) (r : Done) (force : Bool) (s : State) : (complete x r force s).boot = s.boot := by
  simp only [complete]
  refine ite_boot rfl ?_
  rw [moderate_boot, (wantWriteback_notice _ _).boot, setPage_boot, (writeEntry_notice _ _ _ _ _ _ _ _ _ _).boot]

theorem hostPump_boot (x : Desc) (n : Nat) (s : State) : (hostPump x n s).boot = s.boot := by
  induction n generalizing s with
  | zero => rfl
  | succ n ih =>
    rw [hostPump]
    split
    · refine ite_boot ?_ rfl
      split
      · exact (ih _).trans rfl
      · rfl
    · rfl

theorem hostDone_boot (r : HomeReq) (status : BitVec 5) (pay : W128) (s : State) : (hostDone r status pay s).boot = s.boot := by
  have hpump : ∀ p a, (hostPumpAll p a).boot = a.boot := fun p a => foldl_boot (fun b d => hostPump_boot d.x 16 b) rfl
  simp only [hostDone]
  split
  · exact (hpump _ _).trans rfl
  · exact (hpump _ _).trans (ite_boot ((complete_boot _ _ _ _).trans rfl) rfl)

theorem respond_boot (r : HomeReq) (status : BitVec 5) (pay : W128) (poll : Bool) (s : State) :
    (respond r status pay poll s).boot = s.boot :=
  ite_boot rfl (ite_boot rfl (ite_boot (ite_boot rfl (hostDone_boot _ _ _ _)) rfl))

theorem abortWaiter_boot (e : Nat) (s : State) : (abortWaiter e s).boot = s.boot := by
  have hlinks : (unlinkAll e s).boot = s.boot := foldl_boot (fun a l => ite_boot rfl rfl) rfl
  have hfreed : (if (waiter s e).kept then s
      else count (waiter s e).req.part 7 (s.clk.eclk - (waiter s e).since) (unlinkAll e s)).boot = s.boot := ite_boot rfl hlinks
  exact ite_boot hfreed ((respond_boot _ _ _ _ _).trans hfreed)

theorem clearObjs_boot (q : Bool → Nat → Bool) (s : State) : (clearObjs q s).boot = s.boot := foldl_boot (fun _ _ => rfl) rfl

/-! ## A cue on its way, and what an abort sends -/

theorem addCall_boot (k slot st : Nat) (p : Partial) (s : State) : (addCall k slot st p s).boot = s.boot :=
  ite_boot (settle_boot _ _ _) (ite_boot (settle_boot _ _ _) rfl)

theorem passNode_boot (at_ : Place) (slot : Nat) (e nx : W32) (s : State) : (passNode at_ slot e nx s).boot = s.boot := by
  simp only [passNode, settle_boot]
  split
  · exact ite_boot (foldl_boot (fun a p => addCall_boot _ _ _ p a) rfl) rfl
  · rfl

theorem stallForward_boot (k : Nat) (c : Cue) (s : State) : (stallForward k c s).boot = s.boot :=
  foldl_boot (fun _ _ => rfl) (ite_boot rfl (passNode_boot _ _ _ _ _))

theorem stallArrive_boot (k : Nat) (c : Cue) (s : State) : (stallArrive k c s).boot = s.boot := by
  have hcut : (mapCut k c s).2.boot = s.boot := by
    unfold mapCut
    split <;> rfl
  exact ite_boot ((stallForward_boot _ _ _).trans hcut) hcut

theorem startDown_boot (at_ : Place) (c : Cue) (s : State) : (startDown at_ c s).boot = s.boot := by
  have hcut : ∀ k a, (sendCut at_ { c with notes := [] } k a).boot = a.boot := by
    intro k a
    unfold sendCut
    split <;> rfl
  unfold startDown
  split
  · rfl
  · exact stallArrive_boot _ _ _
  · exact ite_boot (foldl_boot (fun a k => hcut k a) rfl) (foldl_boot (fun _ _ => rfl) rfl)

theorem traceOffer_tclk_boot (p : Nat) (bits : W128) (s : State) : (traceOffer false p bits s).boot = s.boot := ite_boot rfl rfl

theorem cueOut_boot (at_ : Place) (c : Cue) (s : State) : (cueOut at_ c s).boot = s.boot := by
  have hmark : ∀ a w, (wpMark c.slot c.epoch a w).boot = a.boot := fun a w => ite_boot (traceOffer_tclk_boot _ _ _) rfl
  have hhost : ∀ a, (tellHost c a).boot = a.boot := fun a => ite_boot rfl rfl
  have hsync : ∀ a, (syncEvent at_ c a).boot = a.boot := fun a => ite_boot rfl (traceOffer_tclk_boot _ _ _)
  have hfreeze : ∀ a, (freezeBy c.slot a).boot = a.boot := fun a => ite_boot rfl rfl
  simp only [cueOut]
  refine foldl_boot hmark ?_
  rw [hhost, hsync, hfreeze]
  have hcounted : (if c.status = stAborted then count ((slotOwner s c.slot).getD 0) 3 1 (count ((slotOwner s c.slot).getD 0) 1 1 s)
      else count ((slotOwner s c.slot).getD 0) 1 1 s).boot = s.boot := ite_boot rfl rfl
  exact ite_boot ((copyStart_tlyOnly _ _).boot.trans hcounted) hcounted

theorem applyAfter_boot (slot : Nat) (s : State) : (applyAfter slot s).boot = s.boot := by
  unfold applyAfter
  split
  · exact ite_boot rfl rfl
  · rfl

theorem passRoot_boot (at_ : Place) (slot : Nat) (e nx : W32) (s : State) : (passRoot at_ slot e nx s).boot = s.boot := by
  unfold passRoot
  split
  · rfl
  · exact passNode_boot _ _ _ _ _

theorem abortTo_boot (nx : W32) (slot : Nat) (root : Place) (stalls : List Nat) (s : State) :
    (abortTo nx slot root stalls s).boot = s.boot := by
  simp only [abortTo]
  rw [applyAfter_boot, startDown_boot, cueOut_boot, setEpoch_boot]
  exact ite_boot rfl (passRoot_boot _ _ _ _ _)

@[simp] theorem abortSlot_boot (slot : Nat) (root : Place) (stalls : List Nat) (s : State) :
    (abortSlot slot root stalls s).boot = s.boot := abortTo_boot _ _ _ _ _

/-! ## Spans lost -/

theorem endEpoch_boot (slot e : Nat) (s : State) : (endEpoch slot e s).boot = s.boot := ite_boot rfl (abortSlot_boot _ _ _ _)

theorem loseSpan_boot (skip : Option Nat) (e : Nat) (s : State) : (loseSpan skip e s).boot = s.boot := by
  have hsent : ∀ (l : List Nat) (slot : Nat) (pkt : SpanPkt) (a : State),
      (l.foldl (fun b p => sendSpan p slot b.clk.tclk pkt b) (endEpoch slot e a)).boot = a.boot := fun l slot pkt a =>
    foldl_boot (fun _ _ => rfl) (endEpoch_boot _ _ _)
  simp only [loseSpan]
  refine ite_boot rfl ?_
  rw [settle_boot]
  split
  · rw [event_boot]
    exact hsent _ _ _ _
  · exact hsent _ _ _ _

theorem allPortsLost_boot (es : List Nat) (s : State) : (allPortsLost es s).boot = s.boot :=
  foldl_boot (fun _ _ => rfl) (foldl_boot (fun a e => loseSpan_boot none e a) rfl)

theorem checkSpan_boot (e : Nat) (s : State) : (checkSpan e s).boot = s.boot := by
  unfold checkSpan
  refine ite_boot rfl ?_
  split
  · exact (report_boot _ _ _ _ _ _).trans (loseSpan_boot _ e s)
  · exact ite_boot (allPortsLost_boot _ _) rfl

theorem clockLost_boot (s : State) : (clockLost s).boot = s.boot := ite_boot rfl (allPortsLost_boot _ _)

theorem restartLocking_boot (s : State) : (restartLocking s).boot = s.boot := by
  have htime : ∀ a, (traceTimebase a).boot = a.boot := fun a => ite_boot rfl rfl
  have hclock : ∀ (c : Bool) (a : State), (if c then clockLost a else a).boot = a.boot := fun c a => ite_boot (clockLost_boot a) rfl
  refine (ite_boot rfl ?_ : (setHc _ _).boot = _)
  refine (htime _).trans (ite_boot ?_ ?_)
  · exact hclock _ _
  · exact hclock _ _

end Sys2Proof.Machine

/-! PROOFS. The boot block under the apply points themselves. -/

namespace Sys2Proof.Machine

/-! ## Staged words -/

theorem applyWords_boot (keys : List Nat) (s : State) : (applyWords keys s).boot = s.boot := foldl_boot (fun _ _ => ite_boot rfl rfl) rfl

theorem dropWords_boot (keys : List Nat) (s : State) : (dropWords keys s).boot = s.boot := foldl_boot (fun _ _ => rfl) rfl

theorem setStageErr_boot (key : Nat) (b : Bool) (s : State) : (setStageErr key b s).boot = s.boot := rfl

/-! ## A change of a partition's groups, of slots and of the roster -/

theorem changeMap_boot (p : Nat) {f : State → State} (h : ∀ a, (f a).boot = a.boot) (s : State) : (changeMap p f s).boot = s.boot := by
  have habort : ∀ gs a, (abortGroups gs a).boot = a.boot := fun gs a => foldl_boot (fun _ _ => ite_boot (abortSlot_boot _ _ _ _) rfl) rfl
  have hclear : ∀ gs a, (clearGroups gs a).boot = a.boot := fun gs a => foldl_boot (fun _ _ => rfl)
    ((clearObjs_boot _ _).trans (foldl_boot (fun b e => abortWaiter_boot e b) rfl))
  have hfresh : ∀ gs a, (freshGroups gs a).boot = a.boot := fun gs a => foldl_boot (fun _ _ => rfl) (clearObjs_boot _ _)
  simp only [changeMap]
  rw [hfresh, h, hclear, habort]

theorem slotSync_boot (slot : Nat) (s : State) : (slotSync slot s).boot = s.boot := by
  have habstain : ∀ at_ m k asleep a, (abstainAt at_ slot m k asleep a).boot = a.boot := fun _ _ _ _ _ => ite_boot rfl (settle_boot _ _ _)
  have hrejoin : ∀ at_ m a, (rejoinAt at_ slot m a).boot = a.boot := fun _ _ _ => ite_boot rfl (settle_boot _ _ _)
  refine foldl_boot (fun a st => ?_) rfl
  exact ite_boot (ite_boot rfl (habstain _ _ _ _ _)) (ite_boot (ite_boot rfl (habstain _ _ _ _ _)) (ite_boot (hrejoin _ _ _) rfl))

theorem reinit_boot (slot : Nat) (root : Place) (stalls : List Nat) (s : State) : (reinit slot root stalls s).boot = s.boot :=
  foldl_boot (fun a n => settle_boot n slot a) (foldl_boot (fun _ _ => rfl) rfl)

theorem recount_boot (slot : Nat) (s : State) : (recount slot s).boot = s.boot := foldl_boot (fun _ _ => rfl) rfl

theorem reshape_boot (slots : List Nat) {f : State → State} (h : ∀ a, (f a).boot = a.boot) (s : State) :
    (reshape slots f s).boot = s.boot := by
  refine foldl_boot (fun a o => ?_) ((h _).trans (foldl_boot (fun a o => ite_boot (abortSlot_boot _ _ _ _) rfl) rfl))
  rw [slotSync_boot, reinit_boot]
  exact ite_boot (recount_boot _ _) rfl

theorem tryRole_boot (st : Nat) (s : State) : (tryRole st s).boot = s.boot := by
  simp only [tryRole]
  split
  · rfl
  · exact ite_boot ((wake_boot _ _).trans ((bootJoin_agendaOnly _ _).boot.trans rfl)) rfl

theorem putRoster_boot (keys : List Nat) (s : State) : (putRoster keys s).boot = s.boot :=
  foldl_boot (fun _ _ => (tryRole_boot _ _).trans (ite_boot rfl rfl)) rfl

theorem applyChange_boot (keys : List Nat) (s : State) : (applyChange keys s).boot = s.boot := by
  simp only [applyChange]
  refine ite_boot rfl (ite_boot ?_ ?_)
  · exact dropWords_boot _ _
  · exact reshape_boot _ (putRoster_boot _) _

/-! ## The apply point of a partition (R134) -/

theorem applyPart_boot (p : Nat) (s : State) : (applyPart p s).1.boot = s.boot := by
  simp only [applyPart]
  split
  · rfl
  · split
    · exact dropWords_boot _ _
    · rw [putPart, changeMap_boot p (applyWords_boot _)]

theorem applyWatch_boot (p : Nat) (s : State) : (applyWatch p s).boot = s.boot := by
  refine foldl_boot (fun a w => ?_) rfl
  simp only [applyWp]
  refine ite_boot rfl (ite_boot ?_ (applyWords_boot _ _))
  rw [rejectEvent_boot, entryReject_boot, setStageErr_boot, dropWords_boot]

theorem applyObjects_boot (p : Nat) (s : State) : (applyObjects p s).boot = s.boot := by
  refine (applyWords_boot _ _).trans (foldl_boot (fun a k => ?_) rfl)
  exact ite_boot ((rejectEvent_boot _ _ _ _).trans rfl) (ite_boot rfl rfl)

theorem applySlots_boot (p : Nat) (s : State) : (applySlots p s).boot = s.boot := by
  refine foldl_boot (fun a i => ?_) rfl
  simp only [applySlot]
  refine ite_boot rfl (ite_boot ?_ ?_)
  · rw [rejectEvent_boot, entryReject_boot, setStageErr_boot, dropWords_boot]
  · exact (setStageErr_boot _ _ _).trans (reshape_boot _ (applyWords_boot _) _)

theorem putSpan_boot (e : Nat) (keys : List Nat) (s : State) : (putSpan e keys s).boot = s.boot := by
  have hzero : ∀ slot, (epochTo0 slot s).boot = s.boot := fun _ => ite_boot rfl rfl
  exact (checkSpan_boot _ _).trans ((applyWords_boot _ _).trans (ite_boot (abortTo_boot _ _ _ _ _) (hzero _)))

theorem applySpans_boot (p : Nat) (s : State) : (applySpans p s).boot = s.boot :=
  foldl_boot (fun _ _ => ite_boot (dropWords_boot _ _) (putSpan_boot _ _ _)) rfl

theorem applyPoint_boot (p : Nat) (s : State) : (applyPoint p s).boot = s.boot := by
  have hroster : (applyRosterOf p s).boot = s.boot := ite_boot (applyChange_boot _ _) rfl
  simp only [applyPoint]
  refine ite_boot rfl ?_
  rw [applyWatch_boot, applyObjects_boot, applySlots_boot, applySpans_boot, applyPart_boot, hroster]

/-! ## The die-wide apply point (R136) -/

theorem applyGait_boot (p : Nat) (s : State) : (applyGait p s).boot = s.boot :=
  ite_boot rfl (ite_boot (dropWords_boot _ _) (applyWords_boot _ _))

theorem applyTrace_boot (s : State) : (applyTrace s).boot = s.boot :=
  ite_boot rfl (ite_boot (applyWords_boot _ _) (applyWords_boot _ _))

theorem applyUs_boot (b : Nat) (s : State) : (applyUs b s).boot = s.boot := ite_boot rfl (ite_boot rfl rfl)

theorem applyRecipe_boot (s : State) : (applyRecipe s).boot = s.boot := by
  unfold applyRecipe
  split <;> rfl

theorem dieWideApply_boot (s : State) : (dieWideApply s).boot = s.boot := by
  simp only [dieWideApply, applyRecipe_boot]
  refine foldl_boot (fun a k => applyUs_boot _ a) ?_
  rw [applyTrace_boot]
  exact foldl_boot (fun a p => applyGait_boot p a) (foldl_boot (fun a l => applyChange_boot l a) rfl)

end Sys2Proof.Machine

/-! PROOFS. Start-up: a copy of the book is read, checked and staged; the switch to full service. -/

namespace Sys2Proof.Machine

/-! ## What a record leaves (R308, R309) -/

/-- The service, the stage, and the copy and sequence number of the book in force stay. -/
def ServiceStays (t s : State) : Prop :=
  t.boot.reduced = s.boot.reduced ∧ t.boot.stage = s.boot.stage ∧ t.boot.bookSeq = s.boot.bookSeq ∧ t.boot.copy = s.boot.copy

theorem ServiceStays.of_boot {t s : State} (h : t.boot = s.boot) : ServiceStays t s := by
  rw [ServiceStays, h]
  exact ⟨rfl, rfl, rfl, rfl⟩

theorem ServiceStays.trans {u t s : State} (h : ServiceStays u t) (g : ServiceStays t s) : ServiceStays u s := by
  obtain ⟨hreduced, hstage, hseq, hcopy⟩ := h
  obtain ⟨greduced, gstage, gseq, gcopy⟩ := g
  exact ⟨hreduced.trans greduced, hstage.trans gstage, hseq.trans gseq, hcopy.trans gcopy⟩

theorem ServiceStays.foldl {α : Type} {f : State → α → State} (h : ∀ a x, ServiceStays (f a x) a) (l : List α) (s : State) :
    ServiceStays (l.foldl f s) s := by
  induction l generalizing s with
  | nil => exact .of_boot rfl
  | cons x l ih => exact (ih _).trans (h s x)

/-- A supplement rebuilds the roster, and with it the grade. -/
theorem putSupplement_service (l : List Nat) (s : State) : ServiceStays (putSupplement l s) s := by
  simp only [putSupplement]
  split
  · exact .of_boot rfl
  · refine ServiceStays.trans (.of_boot (foldl_boot (fun a st => ?_) rfl)) ⟨rfl, rfl, rfl, rfl⟩
    exact (tryRole_boot _ _).trans rfl

theorem splitAll_boot (k : Nat) (s : State) : (splitAll k s).boot = s.boot := by
  have hentry : ∀ p f a, (putEntry p f a).boot = a.boot := fun p f a => foldl_boot (fun _ _ => rfl) rfl
  have hboundary : ∀ slot a, (putBoundary slot a).boot = a.boot := fun slot a => foldl_boot (fun _ _ => rfl) rfl
  have hdropped : ∀ slots a, (dropSlots slots a).boot = a.boot := fun _ _ => rfl
  have hone : ∀ i a, (splitOne k i a).boot = a.boot := by
    intro i a
    simp only [splitOne]
    rw [hboundary, hdropped, changeMap_boot i (hentry i _), setPart_boot]
  exact foldl_boot (fun a i => hone i a) (changeMap_boot 0 (hentry 0 _) _)

theorem putFabric_boot (v : Bytes) (s : State) : (putFabric v s).boot = s.boot := by
  simp only [putFabric, restartLocking_boot]
  exact foldl_boot (fun _ _ => rfl) rfl

theorem putRecord_service (s : State) (r : BookRec) : ServiceStays (putRecord s r) s := by
  simp only [putRecord]
  split
  · exact ⟨rfl, rfl, rfl, rfl⟩
  · exact putSupplement_service _ _
  · exact .of_boot rfl
  · exact .of_boot (foldl_boot (fun _ _ => rfl) rfl)
  · exact .of_boot (ite_boot rfl (splitAll_boot _ _))
  · exact ⟨rfl, rfl, rfl, rfl⟩
  · exact ⟨rfl, rfl, rfl, rfl⟩
  · exact .of_boot rfl
  · exact .of_boot (putFabric_boot _ _)
  · exact .of_boot rfl

/-! ## The switch (R302, R314) -/

/-- Full service with `b` in force, before its records are put. -/
def switched (b : Book) (s : State) : State :=
  { s with boot := { s.boot with
      reduced := false, draining := false, stage := 3, t2 := sinceRelease s, copy := if b.copyB then 2 else 1, bookSeq := b.seq } }

/-- The records, the die-wide apply point, those of the partitions and what the stirrups held leave the service. -/
theorem stage2Switch_service {b : Book} {s : State} (h : s.boot.book = some b) : ServiceStays (stage2Switch s) (switched b s) := by
  have hrecs := ServiceStays.foldl (fun a r => putRecord_service a r) b.recs (switched b s)
  have hpoints : (stage2Switch s).boot = (b.recs.foldl putRecord (switched b s)).boot := by
    unfold stage2Switch
    split
    · next hnone => exact nomatch h.symm.trans hnone
    · next _ hsome =>
      obtain rfl := Option.some.inj (h.symm.trans hsome)
      exact foldl_boot (fun a st => wake_boot st a) (foldl_boot (fun a p => applyPoint_boot p a) (dieWideApply_boot _))
  exact (ServiceStays.of_boot hpoints).trans hrecs

/-! ## A copy is read (R303, R306, R322) -/

section
variable {c : FlashCopy} {s : State}

theorem exec_flashRead (hc : flashOk c = true) : exec (.flashRead c) s = .next (flashRead c s) := answer_next.mpr ⟨hc, rfl⟩

theorem exec_bookCheck (hc : flashOk c = true) : exec (.bookCheck c) s = .next (bookCheck c s) := answer_next.mpr ⟨hc, rfl⟩

theorem flashRead_idle (h : s.boot.spiBusy = false) : flashRead c s = s := if_pos (by rw [h]; rfl)

/-- The reader's parameters as a first read leaves them. -/
def copyRead (c : FlashCopy) (s : State) : State :=
  { s with boot := { s.boot with
      spiBusy := false, sfdpOk := c.sfdp, spiMode := if c.sfdp then BitVec.ofNat 3 c.spiMode else 0, addr4 := c.sfdp && c.addr4, phase := 1 } }

theorem flashRead_first (hbusy : s.boot.spiBusy = true) (hphase : s.boot.phase ≠ 3) (hfirst : c.again = false)
    (hcopy : c.copyB = (s.boot.resA != 0)) :
    flashRead c s = schedule .mclk s.clk.mclk (.bookCheck c) (drivePins (copyRead c s)) := by
  have hnot : (s.boot.phase == 3) = false := beq_eq_false_iff_ne.mpr hphase
  simp [flashRead, hbusy, hnot, hfirst, hcopy, copyRead]

/-! ## A copy is checked (R302, R308 to R310) -/

theorem bookCheck_idle (h : s.boot.phase = 0) : bookCheck c s = s := by simp only [bookCheck, h]

theorem bookCheck_first (h : s.boot.phase = 1) (hrows : rows14 c ≠ 0) : bookCheck c s = copyFails c.copyB (rows14 c) s := by
  simp only [bookCheck, h]
  exact if_pos hrows

/-- Stage 2: the hash and the signature take their time (R310). -/
theorem bookCheck_passes (h : s.boot.phase = 1) (hrows : rows14 c = 0) :
    (bookCheck c s).boot.phase = 2 ∧ (bookCheck c s).boot.stage = 2 ∧ ∃ a ∈ (bookCheck c s).agenda, a.clk = .house ∧ a.ev = .bookCheck c := by
  simp only [bookCheck, h]
  rw [if_neg (not_not_intro hrows)]
  exact ⟨rfl, rfl, _, List.mem_append_right _ (List.mem_singleton_self _), rfl, rfl⟩

theorem bookCheck_second_fails (h : s.boot.phase = 2) (hrows : rows57 s c ≠ 0) :
    bookCheck c s = copyFails c.copyB (rows57 s c) s := by
  simp only [bookCheck, h]
  exact if_pos hrows

theorem bookCheck_accepts (h : s.boot.phase = 2) (hrows : rows57 s c = 0) (hsize : bookEnd c.bytes ≤ 786432)
    (hrecs : row8 s c.bytes = none) : bookCheck c s = stageBook c s := by
  simp only [bookCheck, h]
  rw [if_neg (not_not_intro hrows), if_neg (by omega), judgeRecords, hrecs]

/-- A copy above 768 KiB is to be read again (R308). -/
def readAgain (c : FlashCopy) (s : State) : State :=
  { s with boot := { s.boot with phase := 3, spiBusy := true, sha := some (Config.sha384 (signedBytes c.bytes)) } }

theorem bookCheck_readsAgain (h : s.boot.phase = 2) (hrows : rows57 s c = 0) (hsize : 786432 < bookEnd c.bytes) :
    bookCheck c s = drivePins (readAgain c s) := by
  simp only [bookCheck, h]
  rw [if_neg (not_not_intro hrows), if_pos hsize]
  rfl

/-! ## A copy that fails, and one that is staged (R302, R311) -/

/-- Copy A failed: copy B is read. -/
theorem copyFails_first (code : Nat) (s : State) :
    (copyFails false code s).boot = { s.boot with phase := 0, sha := none, resA := BitVec.ofNat 4 code, spiBusy := true }
      ∧ (copyFails false code s).out.spi.csN = .level false
      ∧ copyFails false code s = { s with
          boot := (copyFails false code s).boot, out := { s.out with spi := (copyFails false code s).out.spi } } := ⟨rfl, rfl, rfl⟩

/-- The staging of GAIT records is the staged words' alone. -/
theorem stageGait_frame (r : BookRec) (s : State) : stageGait r s = { s with staged := (stageGait r s).staged } := by
  refine List.foldlRecOn (motive := fun a : State => a = { s with staged := a.staged }) _ _ rfl fun a ha i _ => ?_
  dsimp only
  split
  · exact ha
  · rw [ha]

/-- An accepted copy: the book waits for the switch, and with it the die-wide request. -/
theorem stageBook_spec (c : FlashCopy) (s : State) :
    (stageBook c s).boot.phase = 5
      ∧ (stageBook c s).boot.book = some { copyB := c.copyB, seq := BitVec.ofNat 32 (bookSeqOf c.bytes), recs := (recordsOf c.bytes).1 }
      ∧ (stageBook c s).su.dwPending = true
      ∧ stageBook c s = { s with boot := (stageBook c s).boot, su := (stageBook c s).su, staged := (stageBook c s).staged } := by
  have hgait : ∀ (l : List BookRec) (a : State),
      l.foldl (fun b r => stageGait r b) a = { a with staged := (l.foldl (fun b r => stageGait r b) a).staged } := fun l a =>
    List.foldlRecOn (motive := fun b : State => b = { a with staged := b.staged }) _ _ rfl fun b hb r _ => by rw [stageGait_frame, hb]
  simp only [stageBook]
  rw [hgait]
  exact ⟨rfl, rfl, trivial, rfl⟩

end

/-! ## The obligation -/

/-- Settles O56: the branches of the reader and of the checks, each with what it leaves; the switch sets its four fields of the boot block
before the records, and nothing that follows touches them. -/
theorem bootReadsAndAppliesTheBook : Obligations.BootReadsAndAppliesTheBook := by
  intro s c book hc first failsA
  have hread := exec_flashRead (s := s) hc
  have hcheck := exec_bookCheck (s := s) hc
  refine ⟨?_, ?_, ?_, ?_, ?_, ?_, ?_, ?_, ?_⟩
  · intro hbusy
    rw [hread, flashRead_idle hbusy]
  · intro hbusy hphase hfirst hcopy
    rw [hread, flashRead_first hbusy hphase hfirst hcopy]
    exact completes_next.mpr ⟨rfl, rfl, rfl, rfl, rfl, rfl⟩
  · intro hphase
    rw [hcheck, bookCheck_idle hphase]
  · intro hphase hrows hcopy
    rw [hcheck, bookCheck_first hphase hrows, hcopy]
    exact completes_next.mpr (copyFails_first _ s)
  · intro hphase hrows hcopy
    rw [hcheck, bookCheck_first hphase hrows, hcopy]
    rfl
  · intro hphase hrows
    rw [hcheck]
    exact completes_next.mpr (bookCheck_passes hphase hrows)
  · intro hphase hrecs hcopy
    rw [hcheck]
    refine completes_next.mpr ⟨fun hrows => ?_, fun hrows hsize => ?_, fun hrows hsize => ?_⟩
    · rw [bookCheck_second_fails hphase hrows, hcopy]
      exact copyFails_first _ s
    · rw [bookCheck_accepts hphase hrows hsize hrecs, ← hcopy]
      exact stageBook_spec c s
    · rw [bookCheck_readsAgain hphase hrows hsize]
      exact ⟨rfl, rfl⟩
  · intro hwait
    exact congrArg Host.Outcome.next (if_neg (by rw [hwait]; decide))
  · intro hready hbook
    refine ⟨stage2Switch s, congrArg Host.Outcome.next (if_pos hready), ?_⟩
    exact stage2Switch_service hbook

end Sys2Proof.Machine

/-! PROOFS. Packets on their way up: partials, idleness, acknowledgements and rearms at a node; abstentions at a stall. -/

namespace Sys2Proof.Machine

/-! ## What arrives and is dropped (R81) -/

/-- Only what a stale drop counts and records differs. -/
theorem staleAt_frame (p : Nat) (at_ : Place) (kind what : Nat) (s : State) :
    staleAt p at_ kind what s = { s with
      parts := (count p 12 1 s).parts, agenda := (staleAt p at_ kind what s).agenda, free := s.free + 1 } := rfl

theorem staleAt_drops (p : Nat) (at_ : Place) (kind what : Nat) (s : State) :
    let t := staleAt p at_ kind what s
    t.tree = s.tree ∧ t.parts = (count p 12 1 s).parts ∧ t = { s with parts := t.parts, agenda := t.agenda, free := t.free } :=
  ⟨rfl, rfl, rfl⟩

/-! ## Partials (R77, R81) -/

/-- The places of the statement on partials: those between the stalls and the die root. -/
theorem midTree_cases {at_ : Place} (h : at_ ∈ (List.range 18).map Place.barn ++ [.half 0, .half 1]) :
    (∃ b, b < 18 ∧ at_ = .barn b) ∨ ∃ k, k < 2 ∧ at_ = .half k := by
  simp only [List.mem_append, List.mem_map, List.mem_range, List.mem_cons, List.not_mem_nil, or_false] at h
  rcases h with ⟨b, hb, rfl⟩ | rfl | rfl
  · exact .inl ⟨b, hb, rfl⟩
  · exact .inr ⟨0, by decide, rfl⟩
  · exact .inr ⟨1, by decide, rfl⟩

theorem exec_partialArrival_mid {at_ : Place} {p : Partial} {s : State} (h : at_ ∈ (List.range 18).map Place.barn ++ [.half 0, .half 1])
    (hp : p.slot < 512) (ho : outOfService s at_ = false) (hc : isCount s p.slot = false) :
    exec (.partialArrival at_ (.call p)) s = .next (arriveGen at_ p.slot p.child p s) := by
  have hrun : upArrive at_ (.call p) s = arriveGen at_ p.slot p.child p s := by
    rcases midTree_cases h with ⟨b, -, rfl⟩ | ⟨k, -, rfl⟩ <;> simp [upArrive, ho, hc]
  have hok : at_.ok = true := by
    rcases midTree_cases h with ⟨b, hb, rfl⟩ | ⟨k, hk, rfl⟩
    · exact decide_eq_true hb
    · exact decide_eq_true hk
  exact answer_next.mpr ⟨by simp [hok, upPktOk, hp], hrun⟩

/-- A hold with an arrival is not the empty one. -/
theorem Hold.add_ne_none (q : Bool) (now c : Nat) (p : Partial) (h : Hold) : h.add q now c p ≠ Hold.none := fun hn => by
  simpa [Hold.add, Hold.none] using congrArg Hold.kids hn

theorem arriveGen_joins {at_ : Place} {slot c : Nat} {p : Partial} {s : State} (hg : p.gen = (node s at_ slot).epoch.setWidth 6)
    (hs : (node s at_ slot).sent = false) (hc : c ∉ (node s at_ slot).cur.kids) :
    arriveGen at_ slot c p s = settle at_ slot (setNode at_ slot
      { node s at_ slot with cur := (node s at_ slot).cur.add (isQuiesce s slot) s.clk.tclk c p, lastEv := s.clk.tclk } s) := by
  simp [arriveGen, hg, hs, hc]

theorem arriveGen_stale {at_ : Place} {slot c : Nat} {p : Partial} {s : State} (h : p.gen ≠ (node s at_ slot).epoch.setWidth 6)
    (hn : p.gen ≠ ((node s at_ slot).epoch + 1).setWidth 6) :
    arriveGen at_ slot c p s = staleAt ((slotOwner s slot).getD 0) at_ 1 slot s := by
  simp only [arriveGen, if_neg h, if_neg hn]

/-- Settles O9: an arrival of the open epoch joins the hold, and settling the node keeps it; any other is a stale drop. -/
theorem partialsJoinOrAreStale : Obligations.PartialsJoinOrAreStale := by
  intro s at_ p hat hslot hservice hcount ns
  have hexec := exec_partialArrival_mid hat hslot hservice hcount
  refine ⟨fun hgen hsent hkid => ?_, fun hgen hnext => ?_⟩
  · rw [hexec, arriveGen_joins hgen hsent hkid]
    obtain ⟨htree, hnode⟩ := settle_setNode at_ p.slot _ s (solid_of_cur (Hold.add_ne_none (isQuiesce s p.slot) s.clk.tclk p.child p ns.cur) :
      Solid { ns with cur := ns.cur.add (isQuiesce s p.slot) s.clk.tclk p.child p, lastEv := s.clk.tclk })
    exact completes_next.mpr ⟨hnode.cur, hnode.nxt, hnode.epoch, htree⟩
  · rw [hexec, arriveGen_stale hgen hnext]
    exact completes_next.mpr (staleAt_drops _ _ _ _ _)

/-! ## Idleness (R79) -/

theorem exec_idle_barn {b slot : Nat} {s : State} (hb : b < 18) (hslot : slot < 512) (k : Nat) (g : BitVec 6) :
    exec (.idle (.barn b) slot k g) s = .next (idleArrive (.barn b) slot k g s) :=
  answer_next.mpr ⟨by simp [Place.ok, hb, hslot], rfl⟩

theorem idleArrive_taken {at_ : Place} {slot k : Nat} {g : BitVec 6} {i : W32} {s : State} (ho : outOfService s at_ = false)
    (hg : genEpoch (node s at_ slot) g = some i) (hl : leftOut (node s at_ slot) k i = false) :
    idleArrive at_ slot k g s = settle at_ slot (setNode at_ slot { node s at_ slot with
      idle := ((node s at_ slot).idle.filter fun j => j.1 != k) ++ [(k, i)], lastEv := s.clk.tclk } s) := by
  simp [idleArrive, ho, hg, Option.filter, hl]

theorem idleArrive_stale {at_ : Place} {slot k : Nat} {g : BitVec 6} {i : W32} {s : State} (ho : outOfService s at_ = false)
    (h : genEpoch (node s at_ slot) g = none ∨ (genEpoch (node s at_ slot) g = some i ∧ leftOut (node s at_ slot) k i = true)) :
    idleArrive at_ slot k g s = staleAt ((slotOwner s slot).getD 0) at_ 6 slot s := by
  rcases h with hg | ⟨hg, hl⟩
  · simp [idleArrive, ho, hg]
  · simp [idleArrive, ho, hg, Option.filter, hl]

theorem exec_active_barn {b slot : Nat} {s : State} (hb : b < 18) (hslot : slot < 512) (ho : outOfService s (.barn b) = false) (k : Nat)
    (g : BitVec 6) : exec (.active (.barn b) slot k g) s = .next (if (genEpoch (node s (.barn b) slot) g).isSome
      then activeArrive (.barn b) slot k s else staleAt ((slotOwner s slot).getD 0) (.barn b) 6 slot s) :=
  answer_next.mpr ⟨by simp [Place.ok, hb, hslot], by simp [ho]⟩

/-- An ACTIVE at a barn that is not idle itself is answered at once (R337). -/
theorem activeArrive_barn {b slot : Nat} {s : State} (k : Nat) (hi : (node s (.barn b) slot).idleSent = false)
    (hw : (node s (.barn b) slot).ackWait = false) :
    activeArrive (.barn b) slot k s = { s with tree := { s.tree with
      nodes := Tbl.set NodeSlot.none (nodeKey (.barn b) slot)
        { node s (.barn b) slot with idle := (node s (.barn b) slot).idle.filter fun j => j.1 != k } s.tree.nodes,
      links := s.tree.links ++
        [{ link := 4000 + 2000 + k, prio := prioSlot slot 0, ready := s.clk.tclk, beats := 1, hop := scaled s 5,
           ev := .activeAcknowledgement (.stall k) slot (firstUnsent (node s (.barn b) slot)) }] } } := by
  have hlink : (Place.stall k).linkDown = 4000 + 2000 + k := (Nat.add_assoc 4000 2000 k).symm
  simp only [activeArrive, hi, hw, sendAck, childPlace, offerDown, offer, hlink]
  rfl

/-! ## Acknowledgements (R337) -/

theorem sendAck_spec (at_ : Place) (slot c : Nat) (e : W32) (s : State) :
    TreeOnly (sendAck at_ slot c e s) s ∧ (sendAck at_ slot c e s).tree.nodes = s.tree.nodes := by
  simp only [sendAck]
  split <;> exact ⟨rfl, rfl⟩

/-- What keeps the records of the nodes and touches the tree, the agenda and the ports alone does so over a list. -/
theorem foldl_sent {α : Type} {f : State → α → State} (h : ∀ a x, TreeOnly (f a x) a ∧ (f a x).tree.nodes = a.tree.nodes) (l : List α)
    (s : State) : TreeOnly (l.foldl f s) s ∧ (l.foldl f s).tree.nodes = s.tree.nodes := by
  induction l generalizing s with
  | nil => exact ⟨rfl, rfl⟩
  | cons x l ih => exact ⟨(ih _).1.trans (h s x).1, (ih _).2.trans (h s x).2⟩

/-- Settling a node whose record was written before packets were sent. -/
theorem settle_sent {at_ : Place} {slot : Nat} {x : NodeSlot} {u s : State} (hx : Solid x)
    (hu : TreeOnly u (setNode at_ slot x s) ∧ u.tree.nodes = (setNode at_ slot x s).tree.nodes) :
    TreeOnly (settle at_ slot u) s ∧ Stays x (node (settle at_ slot u) at_ slot) := by
  have hnode : node u at_ slot = x := by
    unfold node
    rw [hu.2]
    exact node_setNode at_ slot x s (hx x rfl)
  obtain ⟨htree, hstays⟩ := settle_touches at_ slot u
  rw [hnode] at hstays
  exact ⟨htree.trans (hu.1.trans rfl), hstays hx⟩

theorem node_of_nodes {at_ : Place} {slot : Nat} {t s : State} (h : t.tree.nodes = s.tree.nodes) : node t at_ slot = node s at_ slot := by
  unfold node
  rw [h]

/-- Where a record of a node is written and packets are sent, the wait for an acknowledgement stays as the record has it. -/
theorem ackWait_sent {at_ : Place} {slot : Nat} {t s : State} (y : NodeSlot) (hs : Solid (node s at_ slot)) (hy : Stays (node s at_ slot) y)
    (hw : y.ackWait = (node s at_ slot).ackWait) (h : t.tree.nodes = (setNode at_ slot y s).tree.nodes) :
    (node t at_ slot).ackWait = (node s at_ slot).ackWait := by
  rw [node_of_nodes h, node_setNode _ _ _ _ (hs y hy), hw]

theorem settleActive_busy {at_ : Place} {slot : Nat} {s : State} (h : (node s at_ slot).idleSent = false) :
    settleActive at_ slot s = s := by simp [settleActive, h]

theorem settleOpen_ackWait {at_ : Place} {slot : Nat} {s : State} (hs : Solid (node s at_ slot)) :
    (node (settleOpen at_ slot s) at_ slot).ackWait = (node s at_ slot).ackWait := by
  simp only [settleOpen]
  split
  · rfl
  · split
    · exact ackWait_sent { node s at_ slot with sent := true } hs rfl rfl rfl
    · exact ackWait_sent { node s at_ slot with sent := true } hs rfl rfl (forward_spec _ _ _ _ _).2

theorem settleNext_ackWait {at_ : Place} {slot : Nat} {s : State} (hs : Solid (node s at_ slot)) :
    (node (settleNext at_ slot s) at_ slot).ackWait = (node s at_ slot).ackWait := by
  simp only [settleNext]
  split
  · rfl
  · split
    · split
      · rfl
      · exact ackWait_sent { node s at_ slot with sentN := true } hs rfl rfl (forward_spec _ _ _ _ _).2
    · rfl

theorem settleIdle_ackWait {at_ : Place} {slot : Nat} {s : State} (hs : Solid (node s at_ slot)) :
    (node (settleIdle at_ slot s) at_ slot).ackWait = (node s at_ slot).ackWait := by
  simp only [settleIdle]
  split
  · exact ackWait_sent { node s at_ slot with idleSent := true } hs rfl rfl (sendIdle_spec _ _ _ _).2
  · rfl

/-- A node that is not idle waits for no acknowledgement by being settled. -/
theorem settle_ackWait {at_ : Place} {slot : Nat} {s : State} (hs : Solid (node s at_ slot)) (hi : (node s at_ slot).idleSent = false) :
    (node (settle at_ slot s) at_ slot).ackWait = (node s at_ slot).ackWait := by
  unfold settle
  split
  · rfl
  · rw [settleActive_busy hi]
    have hopen := hs.stays ((settleOpen_touches at_ slot s).2 hs)
    have hnext := hopen.stays ((settleNext_touches at_ slot _).2 hopen)
    rw [settleIdle_ackWait hnext, settleNext_ackWait hopen, settleOpen_ackWait hs]

/-- A node's record as an acknowledgement that names a later epoch than the next leaves it, before the node is settled. -/
def openedAt (s : State) (at_ : Place) (slot : Nat) (e : W32) : NodeSlot :=
  let ns := node s at_ slot
  { ns with ackWait := false, ackKids := [], lastEv := s.clk.tclk, epoch := e, sent := false, sentN := false,
            cur := joinHold (isQuiesce s slot) s.clk.tclk ns.cur ns.nxt, nxt := .none }

theorem ackArrive_later {at_ : Place} {slot : Nat} {e : W32} {s : State} (h : notBefore e (node s at_ slot).epoch = false)
    (hn : e ≠ (node s at_ slot).epoch + 1) : ∃ tell, ackArrive at_ slot e s = settle at_ slot
      ((node s at_ slot).ackKids.foldl (fun a c => sendAck at_ slot c tell a) (setNode at_ slot (openedAt s at_ slot e) s)) := by
  simp only [ackArrive, h, if_neg hn, Bool.false_eq_true, if_false]
  exact ⟨_, rfl⟩

theorem ackArrive_opens {at_ : Place} {slot : Nat} {e : W32} {s : State} (h : notBefore e (node s at_ slot).epoch = false)
    (hn : e ≠ (node s at_ slot).epoch + 1) (h0 : e ≠ 0) (hi : (node s at_ slot).idleSent = false) :
    let t := ackArrive at_ slot e s
    TreeOnly t s ∧ Stays (openedAt s at_ slot e) (node t at_ slot) ∧ (node t at_ slot).ackWait = false := by
  obtain ⟨tell, heq⟩ := ackArrive_later h hn
  have hsolid : Solid (openedAt s at_ slot e) := solid_of_epoch h0
  have hsent := foldl_sent (fun a c => sendAck_spec at_ slot c tell a) (node s at_ slot).ackKids
    (setNode at_ slot (openedAt s at_ slot e) s)
  have hnode := (node_of_nodes hsent.2).trans (node_setNode at_ slot (openedAt s at_ slot e) s (hsolid _ rfl))
  intro t
  obtain ⟨htree, hstays⟩ := settle_sent hsolid hsent
  rw [← heq] at htree hstays
  refine ⟨htree, hstays, ?_⟩
  show (node (ackArrive at_ slot e s) at_ slot).ackWait = false
  rw [heq, settle_ackWait (by rw [hnode]; exact hsolid) (by rw [hnode]; exact hi), hnode]
  rfl

/-! ## Rearms (R91, R92) -/

/-- A stirrup whose call on the slot is pending issues the round (R45, R92). -/
theorem rearmArrive_stirrup {st slot : Nat} {c : PendCall} {s : State} (hc : (stir s st).call = some c) (hslot : c.slot = slot)
    (hboot : c.boot = false) (hf : (stir s st).frozen = false) (g : BitVec 6) (stalls : List Nat) :
    rearmArrive (.stirrup st) slot g stalls s = offerUp (.stirrup st) (prioSlot slot 2) s.clk.tclk 1
      (.partialArrival (.stall (stallOf st))
        (.call (callPacket st { c.cmd with tag := (stir s st).tag, at_ := s.clk.tclk } c.commit s.clk.tclk))) s := by
  simp [rearmArrive, hc, hslot, hboot, hf]

/-- A barn's record as a REARM of its open epoch leaves it, before the node is settled. -/
def rearmed (s : State) (at_ : Place) (slot : Nat) : NodeSlot :=
  { node s at_ slot with cur := .none, sent := false, passT := s.clk.tclk, lastEv := s.clk.tclk, again := [] }

theorem rearm_passedOn (slot : Nat) (g : BitVec 6) (stalls : List Nat) (l : List Place) (s : State) :
    let t := l.foldl (fun a c => offerDown c (prioSlot slot 1) a.clk.tclk (.rearm c slot g stalls) a) s
    TreeOnly t s ∧ t.tree.nodes = s.tree.nodes :=
  foldl_sent (f := fun a c => offerDown c (prioSlot slot 1) a.clk.tclk (.rearm c slot g stalls) a) (fun _ _ => ⟨rfl, rfl⟩) l s

theorem rearmArrive_barn {b slot : Nat} {g : BitVec 6} {stalls : List Nat} {s : State} (ho : outOfService s (.barn b) = false)
    (hg : g = (node s (.barn b) slot).epoch.setWidth 6) :
    rearmArrive (.barn b) slot g stalls s = settle (.barn b) slot ((routeKids (.barn b) stalls).foldl
      (fun a c => offerDown c (prioSlot slot 1) a.clk.tclk (.rearm c slot g stalls) a) (setNode (.barn b) slot (rearmed s (.barn b) slot) s)) := by
  simp [rearmArrive, ho, hg, rearmed]

theorem rearmArrive_other {b slot : Nat} {g : BitVec 6} {stalls : List Nat} {s : State}
    (hg : g ≠ (node s (.barn b) slot).epoch.setWidth 6) : rearmArrive (.barn b) slot g stalls s = s := by
  simp [rearmArrive, hg]

theorem exec_rearm {at_ : Place} {slot : Nat} {s : State} (ha : at_.ok = true) (hslot : slot < 512) (g : BitVec 6) (stalls : List Nat) :
    exec (.rearm at_ slot g stalls) s = .next (rearmArrive at_ slot g stalls s) :=
  answer_next.mpr ⟨by simp [ha, hslot], rfl⟩

/-- Settles O12: what each of the four packets does to the record of its node, which settling keeps; a stale one is a stale drop. -/
theorem epochsMoveWithIdleActiveAndRearm : Obligations.EpochsMoveWithIdleActiveAndRearm := by
  intro s st b slot k g e i stalls c hst hb hslot ho at_ ns sampled stale
  have hidle := exec_idle_barn (s := s) hb hslot k g
  have hactive := exec_active_barn hb hslot ho k g
  have hok : at_.ok = true := decide_eq_true hb
  refine ⟨fun hg hl => ?_, fun hg hi hw => ?_, fun h => ?_, fun hg => ?_, fun hle hn h0 hi => ?_, fun hc hcs hboot hf => ?_,
    fun ht hcount hg => ?_, fun hg => ?_⟩
  · rw [hidle, idleArrive_taken ho hg hl]
    obtain ⟨htree, hnode⟩ := settle_setNode at_ slot { ns with
      idle := (ns.idle.filter fun j => j.1 != k) ++ [(k, i)], lastEv := s.clk.tclk } s (solid_of_idle (by simp))
    exact completes_next.mpr ⟨hnode.idle, hnode.cur, hnode.epoch, htree⟩
  · rw [hactive, if_pos hg, activeArrive_barn k hi hw]
  · rw [hidle, idleArrive_stale ho h]
    exact completes_next.mpr (staleAt_drops _ _ _ _ _)
  · rw [hactive, if_neg (by simpa using hg)]
    exact completes_next.mpr (staleAt_drops _ _ _ _ _)
  · obtain ⟨htree, hnode, hwait⟩ := ackArrive_opens hle hn h0 hi
    exact ⟨ackArrive at_ slot e s, answer_next.mpr ⟨by simp [hok, hslot], if_neg (by simp [at_, ho])⟩,
      hnode.epoch, hnode.cur, hnode.nxt, hwait, htree⟩
  · rw [exec_rearm (at_ := .stirrup st) (decide_eq_true hst) hslot]
    exact congrArg Host.Outcome.next (rearmArrive_stirrup hc hcs hboot hf g stalls)
  · rw [exec_rearm hok hslot, rearmArrive_barn ho hg]
    obtain ⟨htree, hnode⟩ := settle_sent (x := rearmed s at_ slot) (solid_of_passT (Nat.ne_of_gt ht))
      (rearm_passedOn slot g stalls (routeKids at_ stalls) (setNode at_ slot (rearmed s at_ slot) s))
    exact completes_next.mpr ⟨hnode.cur, hnode.epoch, htree⟩
  · rw [exec_rearm hok hslot, rearmArrive_other hg]

/-! ## Abstentions (R84, R86) -/

section landed
variable {c : CtrlPkt} {s : State}

theorem node_ctrlLanded (at_ : Place) (slot : Nat) : node (ctrlLanded c s) at_ slot = node s at_ slot := by
  rw [ctrlLanded_frame]
  rfl

theorem isCount_ctrlLanded (slot : Nat) : isCount (ctrlLanded c s) slot = isCount s slot := by
  rw [ctrlLanded_frame]
  rfl

theorem inReset_ctrlLanded (slot : Nat) : inReset (ctrlLanded c s) slot = inReset s slot := by
  rw [ctrlLanded_frame]
  rfl

/-- The stall's checks of a slot packet look at the stirrup for its role alone. -/
theorem stallCauseSlot_ctrlLanded (ha : wAssigned (stir s c.src).role = true) (slot : Nat) :
    stallCauseSlot (ctrlLanded c s) c.src slot false 0 0 = stallCauseSlot s c.src slot false 0 0 := by
  have howner : slotOwner (ctrlLanded c s) slot = slotOwner s slot := by rw [ctrlLanded_frame]; rfl
  have hmember : isMember (ctrlLanded c s) slot c.src = isMember s slot c.src := by rw [ctrlLanded_frame]; rfl
  simp [stallCauseSlot, shadowPart_ctrlLanded ha, howner, hmember]

/-- A slot command that the stall's checks pass is carried out on the state in which it has landed. -/
theorem ctrlAtStall_slot {k : Nat} {c : CtrlPkt} {s : State} (hf : s.tree.frozen.contains c.src = false)
    (ha : wAssigned (stir s c.src).role = true) (hop : (cOp c.word).toNat ≤ 1)
    (hcause : stallCauseSlot s c.src (cId c.word) false 0 0 = 0) (hr : inReset s (cId c.word) = false) :
    ctrlAtStall k c s = if (cOp c.word).toNat = 0
      then abstainAt (.stall k) (cId c.word) c.src (bitsN c.pay0 15 0) false (ctrlLanded c s)
      else rejoinAt (.stall k) (cId c.word) c.src (ctrlLanded c s) := by
  rw [← stallCauseSlot_ctrlLanded ha] at hcause
  simp only [ctrlAtStall, hf, hop, inReset_ctrlLanded, hcause, hr, Bool.false_eq_true, if_true, if_false, ne_eq, not_true_eq_false]

/-- What has landed at a stall and then settled differs in the stirrups, the tree, the agenda and the ports. -/
theorem TreeOnly.landed {t : State} (h : TreeOnly t (ctrlLanded c s)) :
    t = { s with stirs := t.stirs, tree := t.tree, agenda := t.agenda, fab := t.fab } := by
  unfold TreeOnly at h
  rw [h, ctrlLanded_frame]

end landed

/-- Settles O13: a slot command that passes the checks writes the member's abstention, which settling the node keeps. -/
theorem abstentionsAtTheStall : Obligations.AbstentionsAtTheStall := by
  intro s c hsrc hfrozen hassigned slot at_ ns hcause hreset hcount
  have hcount' : isCount (ctrlLanded c s) slot = false := (isCount_ctrlLanded slot).trans hcount
  have hns : node (ctrlLanded c s) at_ slot = ns := node_ctrlLanded at_ slot
  refine ⟨fun hw => ?_, fun hw he => ?_⟩
  · have hop := wordIs_op hw
    refine ⟨_, execCtrl_unit_next.mpr ⟨hw, hsrc, rfl⟩, ?_⟩
    rw [ctrlAtStall_slot hfrozen hassigned (by omega) hcause hreset, if_pos hop, abstainAt, hcount', if_neg Bool.false_ne_true, setAbstain, hns]
    obtain ⟨htree, hnode⟩ := settle_setNode at_ slot { ns with
      abst := (ns.abst.filter fun x => x.member != c.src)
        ++ [{ member := c.src, from_ := nextEpoch ns c.src, k := bitsN c.pay0 15 0, asleep := false }],
      lastEv := (ctrlLanded c s).clk.tclk } (ctrlLanded c s) (solid_of_abst (by simp))
    exact ⟨hnode.abst, hnode.cur, hnode.epoch, htree.landed⟩
  · have hop := wordIs_op hw
    refine ⟨_, execCtrl_unit_next.mpr ⟨hw, hsrc, rfl⟩, ?_⟩
    rw [ctrlAtStall_slot hfrozen hassigned (by omega) hcause hreset, if_neg (by omega), rejoinAt, hcount', if_neg Bool.false_ne_true,
      clearAbstain, hns]
    obtain ⟨htree, hnode⟩ := settle_setNode at_ slot { ns with abst := ns.abst.filter fun x => x.member != c.src } (ctrlLanded c s)
      (solid_of_epoch he)
    exact ⟨hnode.abst, hnode.cur, hnode.epoch, htree.landed⟩

end Sys2Proof.Machine

/-! PROOFS. Cues on their way down, and the decision at the die root that sends them. -/

namespace Sys2Proof.Machine

/-! ## What nodes send and note (R77, R79) -/

/-- Of the tree only the nodes' records and what waits for the links differ, of the fabric only what waits for the ports, which grows; and
what is due. -/
structure NodeSends (t s : State) : Prop where
  frame : t = { s with tree := { s.tree with nodes := t.tree.nodes, links := t.tree.links }, agenda := t.agenda,
                       fab := { s.fab with reinQ := t.fab.reinQ } }
  queued : s.fab.reinQ ⊆ t.fab.reinQ

theorem NodeSends.refl (s : State) : NodeSends s s := ⟨rfl, List.Subset.refl _⟩

theorem NodeSends.trans {u t s : State} (h : NodeSends u t) (g : NodeSends t s) : NodeSends u s := by
  refine ⟨?_, List.Subset.trans g.queued h.queued⟩
  rw [h.frame, g.frame]

theorem NodeSends.foldl {α : Type} {f : State → α → State} (h : ∀ a x, NodeSends (f a x) a) (l : List α) (s : State) :
    NodeSends (l.foldl f s) s := by
  induction l generalizing s with
  | nil => exact .refl s
  | cons x l ih => exact (ih _).trans (h s x)

theorem NodeSends.treeOnly {t s : State} (h : NodeSends t s) : TreeOnly t s := by
  unfold TreeOnly
  rw [h.frame]

theorem setNode_sends (at_ : Place) (slot : Nat) (x : NodeSlot) (s : State) : NodeSends (setNode at_ slot x s) s := ⟨rfl, List.Subset.refl _⟩

theorem offer_sends (link prio ready beats hop : Nat) (ev : Instr) (s : State) : NodeSends (offer link prio ready beats hop ev s) s :=
  ⟨rfl, List.Subset.refl _⟩

theorem afterT_sends (n : Nat) (ev : Instr) (s : State) : NodeSends (afterT n ev s) s := ⟨rfl, List.Subset.refl _⟩

theorem sendSpan_sends (port slot ready : Nat) (pkt : SpanPkt) (s : State) : NodeSends (sendSpan port slot ready pkt s) s :=
  ⟨rfl, List.subset_append_left _ _⟩

theorem forward_sends (at_ : Place) (slot : Nat) (h : Hold) (e : W32) (s : State) : NodeSends (forward at_ slot h e s) s := by
  simp only [forward]
  split
  · exact offer_sends _ _ _ _ _ _ _
  · split
    · exact sendSpan_sends _ _ _ _ _
    · exact .refl s

theorem sendIdle_sends (at_ : Place) (slot : Nat) (e : W32) (s : State) : NodeSends (sendIdle at_ slot e s) s := by
  simp only [sendIdle]
  split
  · exact offer_sends _ _ _ _ _ _ _
  · split
    · exact sendSpan_sends _ _ _ _ _
    · exact .refl s

theorem sendActive_sends (at_ : Place) (slot : Nat) (e : W32) (s : State) : NodeSends (sendActive at_ slot e s) s := by
  simp only [sendActive]
  split
  · exact offer_sends _ _ _ _ _ _ _
  · split
    · exact sendSpan_sends _ _ _ _ _
    · exact .refl s

theorem settleActive_sends (at_ : Place) (slot : Nat) (s : State) : NodeSends (settleActive at_ slot s) s := by
  simp only [settleActive]
  split
  · exact (sendActive_sends _ _ _ _).trans (setNode_sends _ _ _ _)
  · exact .refl s

theorem settleIdle_sends (at_ : Place) (slot : Nat) (s : State) : NodeSends (settleIdle at_ slot s) s := by
  simp only [settleIdle]
  split
  · exact (sendIdle_sends _ _ _ _).trans (setNode_sends _ _ _ _)
  · exact .refl s

theorem settleOpen_sends (at_ : Place) (slot : Nat) (s : State) : NodeSends (settleOpen at_ slot s) s := by
  simp only [settleOpen]
  split
  · exact .refl s
  · split
    · exact (afterT_sends _ _ _).trans (setNode_sends _ _ _ _)
    · exact (forward_sends _ _ _ _ _).trans (setNode_sends _ _ _ _)

theorem settleNext_sends (at_ : Place) (slot : Nat) (s : State) : NodeSends (settleNext at_ slot s) s := by
  simp only [settleNext]
  split
  · exact .refl s
  · split
    · split
      · exact .refl s
      · exact (forward_sends _ _ _ _ _).trans (setNode_sends _ _ _ _)
    · exact .refl s

theorem settle_sends (at_ : Place) (slot : Nat) (s : State) : NodeSends (settle at_ slot s) s := by
  unfold settle
  split
  · exact .refl s
  · exact (settleIdle_sends _ _ _).trans ((settleNext_sends _ _ _).trans ((settleOpen_sends _ _ _).trans (settleActive_sends _ _ _)))

theorem addCall_sends (k slot st : Nat) (p : Partial) (s : State) : NodeSends (addCall k slot st p s) s := by
  simp only [addCall]
  repeat' split
  · exact (settle_sends _ _ _).trans (setNode_sends _ _ _ _)
  · exact (settle_sends _ _ _).trans (setNode_sends _ _ _ _)
  · exact setNode_sends _ _ _ _

theorem passNode_sends (at_ : Place) (slot : Nat) (e nx : W32) (s : State) : NodeSends (passNode at_ slot e nx s) s := by
  simp only [passNode]
  refine (settle_sends _ _ _).trans ?_
  repeat' split
  · exact (NodeSends.foldl (fun a p => addCall_sends _ _ _ _ _) _ _).trans (setNode_sends _ _ _ _)
  · exact setNode_sends _ _ _ _
  · exact setNode_sends _ _ _ _

/-! ## A cue passes a half root (R80, R121) -/

/-- The record of a node whose open epoch's cue has passed. -/
theorem passed_open {now : Nat} {e nx : W32} {ns : NodeSlot} (hn : nx = e + 1) (he : ns.epoch = e) :
    (passed_ now e nx ns).epoch = nx ∧ (passed_ now e nx ns).cur = ns.nxt := by
  simp [passed_, hn, he]

theorem carried_busy {q : Bool} {now : Nat} {e nx : W32} {ns : NodeSlot} (h : ns.ackWait = false) : carried q now e nx ns = ns := by
  simp [carried, h]

/-- Above the stalls a cue of the open epoch opens the next with what the node held of it. -/
theorem passNode_half {h slot : Nat} {e nx : W32} {s : State} (hw : (node s (.half h) slot).ackWait = false)
    (he : (node s (.half h) slot).epoch = e) (hn : nx = e + 1) (h0 : nx ≠ 0) :
    let t := passNode (.half h) slot e nx s
    (node t (.half h) slot).epoch = nx ∧ (node t (.half h) slot).cur = (node s (.half h) slot).nxt := by
  obtain ⟨hepoch, hcur⟩ := passed_open (now := s.clk.tclk) hn he
  have heq : passNode (.half h) slot e nx s
      = settle (.half h) slot (setNode (.half h) slot (passed_ s.clk.tclk e nx (node s (.half h) slot)) s) := by
    simp [passNode, carried_busy hw]
  obtain ⟨-, hstays⟩ := settle_setNode (.half h) slot (passed_ s.clk.tclk e nx (node s (.half h) slot)) s
    (solid_of_epoch (by rw [hepoch]; exact h0))
  rw [heq]
  exact ⟨hstays.epoch.trans hepoch, hstays.cur.trans hcur⟩

theorem cueArrive_half {h : Nat} {c : Cue} {s : State} (hc : c.counted = false) :
    cueArrive (.half h) c s = (routeKids (.half h) c.stalls).foldl (fun a k => sendCue k c a)
      (passNode (.half h) c.slot c.epoch c.next s) := by
  simp [cueArrive, outOfService, hc]

theorem sendCues_nodes (c : Cue) (l : List Place) (s : State) :
    TreeOnly (l.foldl (fun a k => sendCue k c a) s) s ∧ (l.foldl (fun a k => sendCue k c a) s).tree.nodes = s.tree.nodes :=
  foldl_sent (f := fun a k => sendCue k c a) (fun _ _ => ⟨rfl, rfl⟩) l s

/-! ## A wave ends at a stall (R122, R124) -/

theorem deliveries_links (d : Cue) (l : List Nat) (s : State) :
    let t := l.foldl (fun a st => deliver st d a) s
    NodeSends t s ∧ s.tree.links ⊆ t.tree.links
      ∧ ∀ st ∈ l, ∃ i ∈ t.tree.links, i.ev = .cueDelivery st d ∧ i.link = (Place.stirrup st).linkDown := by
  induction l generalizing s with
  | nil => exact ⟨.refl s, fun _ h => h, by simp⟩
  | cons k l ih =>
    obtain ⟨hframe, hkeep, hsent⟩ := ih (deliver k d s)
    refine ⟨hframe.trans (offer_sends _ _ _ _ _ _ _), fun _ h => hkeep (List.mem_append_left _ h), fun st hst => ?_⟩
    rcases List.mem_cons.mp hst with rfl | hst
    · exact ⟨_, hkeep (List.mem_append_right _ (List.mem_singleton_self _)), rfl, rfl⟩
    · exact hsent st hst

/-- A stall forwards a cue to every stirrup it is due to; the cues that wait in stalls stay. -/
theorem stallForward_delivers {k : Nat} {c : Cue} {s : State} (hc : c.counted = false) :
    (stallForward k c s).tree.waves = s.tree.waves
      ∧ ∀ st ∈ dueAt s k c, ∃ l ∈ (stallForward k c s).tree.links, l.ev = .cueDelivery st c ∧ l.link = (Place.stirrup st).linkDown := by
  obtain ⟨hframe, -, hsent⟩ := deliveries_links c (dueAt s k c) (passNode (.stall k) c.slot c.epoch c.next s)
  have heq : stallForward k c s = (dueAt s k c).foldl (fun a st => deliver st c a) (passNode (.stall k) c.slot c.epoch c.next s) := by
    simp [stallForward, hc]
  have hall := hframe.trans (passNode_sends (.stall k) c.slot c.epoch c.next s)
  rw [heq]
  refine ⟨?_, hsent⟩
  rw [hall.frame]

theorem waveRelease_covered {k : Nat} {c : Cue} {s : State} (h : covered s ((slotOwner s c.slot).getD 0) = true) : waveRelease k c s = s := by
  simp [waveRelease, h]

/-- A cue that is off a stall's waves. -/
def offWaves (k : Nat) (c : Cue) (s : State) : State :=
  { s with tree := { s.tree with waves := s.tree.waves.filter fun w => !(w.stall == k && w.cue == c) } }

theorem waveRelease_leaves {k : Nat} {c : Cue} {s : State} (hw : s.tree.waves.any (fun w => w.stall == k && w.cue == c) = true)
    (h : covered s ((slotOwner s c.slot).getD 0) = false) : waveRelease k c s = stallForward k c (offWaves k c s) :=
  if_pos (by rw [hw, h]; rfl)

/-- Settles O26: at a half root the record moves on and the cue takes its links; from a stall the cue leaves for the stirrups it is due to. -/
theorem cuesTravelByTheChildMasks : Obligations.CuesTravelByTheChildMasks := by
  intro s h k c hh hk hslot hprofile ns
  refine ⟨fun hc hw he hn h0 => ?_, fun hw hc => ⟨fun hcov => ?_, fun hcov => ?_⟩⟩
  · obtain ⟨hepoch, hcur⟩ := passNode_half hw he hn h0
    have hsent := sendCues_nodes c (routeKids (.half h) c.stalls) (passNode (.half h) c.slot c.epoch c.next s)
    refine completes_answer.mpr ⟨by simp [Place.ok, hh, hslot, hprofile], ?_⟩
    rw [cueArrive_half hc, node_of_nodes hsent.2]
    exact ⟨hepoch, hcur, (sendCues_links c _ _).2, hsent.1.trans (passNode_sends _ _ _ _ s).treeOnly⟩
  · exact answer_next.mpr ⟨decide_eq_true ⟨hk, hslot⟩, waveRelease_covered hcov⟩
  · refine completes_answer.mpr ⟨decide_eq_true ⟨hk, hslot⟩, ?_⟩
    obtain ⟨hwaves, hdelivers⟩ := stallForward_delivers (k := k) (s := offWaves k c s) hc
    rw [waveRelease_leaves hw hcov, hwaves]
    exact ⟨by simp +contextual [offWaves, or_iff_not_imp_left], hdelivers⟩

/-! ## The decision at the die root (R78, R80, R131) -/

/-- The state in which a decided cue is held or leaves: its root has passed, and the epoch has advanced. -/
def advanced (s : State) (c : Cue) : State := setEpoch c.slot c.next (passNode .die c.slot c.epoch c.next s)

theorem advanced_frame (s : State) (c : Cue) : advanced s c = { s with
    tree := { s.tree with nodes := (advanced s c).tree.nodes, links := (advanced s c).tree.links,
                          epochs := Tbl.set 0#32 c.slot c.next s.tree.epochs },
    agenda := (advanced s c).agenda, fab := { s.fab with reinQ := (advanced s c).fab.reinQ } } := by
  have h := passNode_sends .die c.slot c.epoch c.next s
  rw [advanced, h.frame]
  rfl

theorem advanced_plainSlot {s : State} {c : Cue} {p : Nat} (hp : PlainSlot s c.slot p) : PlainSlot (advanced s c) c.slot p := by
  rw [advanced_frame]
  exact hp

theorem advanced_spanRooted (s : State) (c : Cue) : spanRooted (advanced s c) c.slot = spanRooted s c.slot := by
  rw [advanced_frame]
  rfl

theorem advanced_mustHold (s : State) (c : Cue) : mustHold (advanced s c) c = mustHold s c := by
  rw [advanced_frame]
  rfl

theorem sendDecided_die {c : Cue} {s : State} (hc : c.counted = false) (hr : c.status ≠ stReplay) :
    sendDecided .die c s = holdOrRelease .die c s.clk.tclk (advanced s c) := by
  simp [sendDecided, hc, hr, advanced, passRoot]

theorem holdOrRelease_holds {c : Cue} {s : State} (h : mustHold s c = true) (at_ : Place) (n : Nat) :
    holdOrRelease at_ c n s = { s with
      tree := { s.tree with held := s.tree.held ++
        [{ at_ := at_, cue := c, since := (houseNow s).toNat, decT := n, placed := false, due := false }] },
      pwr := { s.pwr with holds := s.pwr.holds + 1 }, cyc := (rcBefore 0x700C s.pwr.holds s).cyc } := by
  rw [holdOrRelease, if_pos h, rcBefore_frame]
  rfl

theorem holdOrRelease_leaves {c : Cue} {s : State} (h : mustHold s c = false) (hroot : spanRooted s c.slot = false) {at_ : Place} {n : Nat} :
    holdOrRelease at_ c n s = leaveNow at_ c s := by
  simp [holdOrRelease, h, release, hroot]

theorem noteDies_die {slot : Nat} {s : State} (h : spanRooted s slot = false) (p : Option Partial) : noteDies slot p s = s := by
  simp [noteDies, h]

theorem slotVotes_plain {slot : Nat} {s : State} (h : slotVerdict s slot = false) : slotVotes slot s = s := by simp [slotVotes, h]

theorem rootDecision_idle {at_ : Place} {slot : Nat} {s : State} (hf : firstDue s at_ slot = false) (h : canDecide s at_ slot = false) :
    rootDecision at_ slot s = s := by
  simp [rootDecision, hf, h]

/-- The STATUS of a decision that is neither a verdict nor of a span (R78, R213). -/
def plainStatus (vote : BitVec 2) : BitVec 5 := if vote = votePoison then stAborted else stOk

theorem plainStatus_ne_replay (vote : BitVec 2) : plainStatus vote ≠ stReplay := by
  unfold plainStatus
  split <;> decide

/-- The cue of such a decision. -/
def plainCue (s : State) (slot : Nat) : Cue :=
  let set := decided s .die slot
  decidedCue s slot (if set.2.1 then none else set.1) (setVote set.1 set.2.1) set.2.2 (plainStatus (setVote set.1 set.2.1))

theorem rootDecision_plain {slot : Nat} {s : State} (hroot : spanRooted s slot = false) (hf : firstDue s .die slot = false)
    (hd : canDecide s .die slot = true) (hq : isQuiesce s slot = false) (hv : slotVerdict s slot = false)
    (hh : ∀ g, wpHits s slot (epochOf s slot) g = []) : rootDecision .die slot s = sendDecided .die (plainCue s slot) s := by
  have hbase : baseStatus s slot ((slotOwner s slot).getD 0) (setVote (decided s .die slot).1 (decided s .die slot).2.1) false
      = plainStatus (setVote (decided s .die slot).1 (decided s .die slot).2.1) := by
    simp [baseStatus, hv, plainStatus]
  simp [rootDecision, hf, hd, decide_, hq, hv, hroot, hh, hbase, wpWith, slotVotes_plain hv, noteDies_die hroot]
  rfl

/-- A decided cue advances the epoch, and is held or leaves. -/
theorem sendDecided_spec {c : Cue} {own : Nat} {s : State} (hc : c.counted = false) (hr : c.status ≠ stReplay)
    (hp : PlainSlot s c.slot own) (hroot : spanRooted s c.slot = false) :
    let t := sendDecided .die c s
    t.tree.epochs = Tbl.set 0#32 c.slot c.next s.tree.epochs
      ∧ (mustHold s c = true → t.tree.held.map (·.cue) = s.tree.held.map (·.cue) ++ [c] ∧ t.pwr.holds = s.pwr.holds + 1)
      ∧ (mustHold s c = false → ∀ h ∈ routeKids .die c.stalls, ∃ l ∈ t.tree.links, l.ev = .cueArrival h c ∧ l.link = h.linkDown)
      ∧ t.objs = s.objs ∧ t.stirs = s.stirs ∧ t.force = s.force := by
  have hhold := advanced_mustHold s c
  rw [sendDecided_die hc hr]
  cases hm : mustHold s c with
  | true =>
    rw [holdOrRelease_holds (hhold.trans hm), advanced_frame]
    exact ⟨rfl, fun _ => ⟨by simp, rfl⟩, fun h => Bool.noConfusion h, rfl, rfl, rfl⟩
  | false =>
    have hroot' := (advanced_spanRooted s c).trans hroot
    obtain ⟨hdep, hlinks, hobjs, hstirs, hforce⟩ := leaveNow_die (advanced_plainSlot hp) (.inl hroot') hc
    rw [holdOrRelease_leaves (hhold.trans hm) hroot']
    refine ⟨?_, fun h => Bool.noConfusion h, fun _ => hlinks, hobjs.trans ?_, hstirs.trans ?_, hforce.trans ?_⟩
    · rw [hdep, advanced_frame]
    all_goals rw [advanced_frame]

/-- Settles O27: the decision is the cue's sending, which advances the epoch; where there is none to take nothing changes. -/
theorem decisionAdvancesTheEpoch : Obligations.DecisionAdvancesTheEpoch := by
  intro s slot own hslot hp hroot hfirst set p vote status c
  have hok : (Place.die.ok && decide (slot < 512)) = true := decide_eq_true hslot
  refine ⟨fun hd => answer_next.mpr ⟨hok, rootDecision_idle hfirst hd⟩, fun hd hcount hq hv hh => completes_answer.mpr ⟨hok, ?_⟩⟩
  rw [rootDecision_plain hroot hfirst hd hq hv hh]
  exact sendDecided_spec (c := plainCue s slot) hcount (plainStatus_ne_replay _) hp hroot

end Sys2Proof.Machine

/-! PROOFS. Staged words: their acknowledgement, and the apply point of a partition whose boundary slot has no member. -/

namespace Sys2Proof.Machine

/-! ## Acknowledgements (R35) -/

theorem wbAck_unstaged {k : Nat} {s : State} (h : Tbl.has s.staged k = false) : wbAck k s = s := by simp [wbAck, h]

theorem ackStage_oldest {k : Nat} {s : State} {v m : W32} {l : List (W32 × W32)} (h : (stagedAt s k).pend = (v, m) :: l) :
    ackStage k s = { s with staged := Tbl.set noStage k { (stagedAt s k).put v m with pend := l } s.staged } := by
  simp [ackStage, h]
  rfl

theorem ackStage_memberless (k : Nat) (s : State) (p : Nat) : memberless (ackStage k s) p = memberless s p := by
  unfold ackStage
  dsimp only
  split <;> rfl

theorem ackStage_part (k : Nat) (s : State) (p : Nat) : part (ackStage k s) p = part s p := by
  unfold ackStage
  dsimp only
  split <;> rfl

theorem ackStage_descs (k : Nat) (s : State) : (ackStage k s).hq = s.hq := by
  unfold ackStage
  dsimp only
  split <;> rfl

theorem stageDone_none {s : State} (h : s.hq.descs = []) : stageDone s = s := by simp [stageDone, h]

/-- A word that is not die-wide, and whose owner's cues apply it, is held and nothing else happens. -/
theorem wbAck_held {k : Nat} {s : State} (hhas : Tbl.has s.staged k = true) (hd : s.hq.descs = [])
    (hw : (dwKeys (ackStage k s)).contains k = false) (hr : isRosterKey k = false)
    (ho : ((keyOwner (ackStage k s) k).all fun q => (part s q).state == .free || !memberless s q) = true) : wbAck k s = ackStage k s := by
  have hdone : stageDone (ackStage k s) = ackStage k s := stageDone_none (by rw [ackStage_descs]; exact hd)
  simp only [wbAck, hhas, hdone, hw, hr, Bool.not_true, Bool.false_eq_true, if_false]
  split
  · next q hq =>
    refine if_neg fun hc => ?_
    rw [ackStage_part, ackStage_memberless] at hc
    rw [hq, Option.all_some] at ho
    simp [hc] at ho
  · rfl

/-! ## The apply point without a member (R134) -/

/-- The state once a partition's boundary slot has been looked at. -/
def lookedAt (s : State) (p : Nat) : State := { s with su := { s.su with abortWait := clearBit64 s.su.abortWait p } }

theorem emptyBoundaryApply_none {p : Nat} {s : State}
    (h : (part s p).state = .free ∨ (memberless s p = false ∧ (s.su.abortWait.getLsbD p = false ∨ (part s p).state = .resetting))) :
    emptyBoundaryApply p s = lookedAt s p := by
  rcases h with h | ⟨hm, h | h⟩ <;> simp_all [emptyBoundaryApply, lookedAt]

theorem emptyBoundaryApply_memberless {p : Nat} {s : State} (h : (part s p).state ≠ .free) (hm : memberless s p = true) :
    emptyBoundaryApply p s = applyPoint p (lookedAt s p) := by
  simp [emptyBoundaryApply, lookedAt, h, hm]

theorem applyPoint_reduced {p : Nat} {s : State} (h : s.boot.reduced = true) :
    applyPoint p s = { s with su := { s.su with dwWait := clearBit64 s.su.dwWait p } } := by
  simp [applyPoint, h]

/-- A staged word that is neither of a roster entry, a partition, a span, a slot nor a watchpoint. -/
structure ObjectOnly (k : Nat) : Prop where
  roster : isRosterKey k = false
  part : isPartKey k = false
  span : isSpanKey k = false
  slot : isSlotKey k = false
  member : isMemberKey k = false
  watch : isWpKey k = false

theorem objectOnly_semaphore {i : Nat} (h : i < 8192) : ObjectOnly (objCfgKey false i) := by
  constructor <;> simp [isRosterKey, isPartKey, isSpanKey, isSlotKey, isMemberKey, isWpKey, objCfgKey, nStirrup] <;> omega

section objects
variable {s : State} {p : Nat} (h : ∀ x ∈ s.staged, ObjectOnly x.1)
include h

theorem rosterKeys_objects : rosterKeys s = [] := by
  simp only [rosterKeys, stagedKeys, List.filter_eq_nil_iff, List.mem_map]
  rintro _ ⟨x, hx, rfl⟩
  simp [(h x hx).roster]

theorem applyRosterOf_objects : applyRosterOf p s = s := by
  have hroster := rosterKeys_objects h
  simp [applyRosterOf, component, changeOf, hroster, linked, applyChange]

/-- Keys of another kind than the staged words are not among the acknowledged ones. -/
theorem ackedKeys_none {f : Nat → Bool} (hf : ∀ k, ObjectOnly k → f k = false) : (ackedKeys s).filter f = [] := by
  simp only [ackedKeys, List.filter_eq_nil_iff, List.mem_map, List.mem_filter]
  rintro _ ⟨x, ⟨hx, -⟩, rfl⟩
  simp [hf _ (h x hx)]

theorem applyPart_objects : (applyPart p s).1 = s := by
  have hkeys : partKeysOf s p = [] := ackedKeys_none h fun k hk => by simp [hk.part]
  simp [applyPart, hkeys]

theorem applySpans_objects : applySpans p s = s := by
  have hkeys : (ackedKeys s).filter (fun k => isSpanKey k && keyOwner s k == some p) = [] :=
    ackedKeys_none h fun k hk => by simp [hk.span]
  simp [applySpans, hkeys]

theorem applySlots_objects : applySlots p s = s := by
  have hkeys : (ackedKeys s).filter (fun k => (isSlotKey k || isMemberKey k) && keyOwner s k == some p) = [] :=
    ackedKeys_none h fun k hk => by simp [hk.slot, hk.member]
  simp [applySlots, hkeys]

theorem applyWatch_objects : applyWatch p s = s := by
  have hkeys : (ackedKeys s).filter (fun k => isWpKey k && keyOwner s k == some p) = [] :=
    ackedKeys_none h fun k hk => by simp [hk.watch]
  simp [applyWatch, hkeys]

/-- At an apply point at which object words alone are staged, these alone are looked at. -/
theorem applyPoint_objects (hr : s.boot.reduced = false) (ho : ∀ x ∈ (applyObjects p s).staged, ObjectOnly x.1) :
    applyPoint p s = { applyObjects p s with su := { (applyObjects p s).su with dwWait := clearBit64 (applyObjects p s).su.dwWait p } } := by
  simp only [applyPoint, hr, Bool.false_eq_true, if_false]
  rw [applyRosterOf_objects h, applyPart_objects h, applySpans_objects h, applySlots_objects h, applyWatch_objects ho]

end objects

theorem applyObjects_none {s : State} (h : s.staged = []) (p : Nat) : applyObjects p s = s := by
  simp [applyObjects, applyWords, ackedKeys, h]

/-- An acknowledged word comes into force whole, and nothing stays staged. -/
theorem applyWord_alone {s : State} {k : Nat} {g : Staged} (h : s.staged = [(k, g)]) (hp : g.pend = []) (hm : g.mask ≠ 0) :
    applyWord k s = { s with force := Tbl.set (resetWord k) k (nextWord s k) s.force, staged := [] } := by
  have hat : stagedAt s k = g := by simp [stagedAt, h, Tbl.get]
  have hnone : ({ noStage with pend := ([] : List (W32 × W32)) } : Staged) = noStage := rfl
  rw [applyWord, if_pos (by rw [hat]; exact hm)]
  simp [settleStage, setStage, stagedAt, h, Tbl.get, hp, hnone, Tbl.set, Tbl.erase, setReg]

theorem keyOwner_semaphore {s : State} {i : Nat} (h : i < 8192) : keyOwner s (objCfgKey false i) = objOwner s false i := by
  have hkind := objectOnly_semaphore h
  have hobj : isObjKey (objCfgKey false i) = true := by simp [isObjKey, objCfgKey]; omega
  have htok : ¬ 0x42000 ≤ objCfgKey false i := by simp [objCfgKey]; omega
  have hix : objCfgKey false i % 0x2000 = i := by simp [objCfgKey]; omega
  simp [keyOwner, hkind.part, hkind.slot, hkind.member, hkind.span, hobj, htok, hix]

theorem applyObjects_semaphore {s : State} {p i : Nat} {g : Staged} (hi : i < 8192) (h : s.staged = [(objCfgKey false i, g)])
    (hp : g.pend = []) (hm : g.mask ≠ 0) (ho : objOwner s false i = some p) :
    applyObjects p s = applyWord (objCfgKey false i) s := by
  have hobj : isObjKey (objCfgKey false i) = true := by simp [isObjKey, objCfgKey]; omega
  have htok : ¬ 0x42000 ≤ objCfgKey false i := by simp [objCfgKey]; omega
  have hmask : ¬ g.mask = 0#32 := hm
  have hkeys : (ackedKeys s).filter (fun k => isObjKey k && keyOwner s k == some p) = [objCfgKey false i] := by
    simp [ackedKeys, h, hmask, hobj, keyOwner_semaphore hi, ho]
  have happly : applyObj p (objCfgKey false i) s = applyWord (objCfgKey false i) s := by simp [applyObj, htok]
  have hleft : (applyWord (objCfgKey false i) s).staged = [] := by rw [applyWord_alone h hp hm]
  simp only [applyObjects, hkeys, List.foldl_cons, List.foldl_nil, happly, ackedKeys_nothing hleft, List.filter_nil, applyWords]

/-- Settles O32: an acknowledgement holds the oldest write; at the apply point of a memberless boundary slot what is staged decides. -/
theorem stagedWordsWaitForTheirApplyPoint : Obligations.StagedWordsWaitForTheirApplyPoint := by
  intro s p k i v m l g hp hi held word waits passed
  have hexec : ∀ t, emptyBoundaryApply p s = t → exec (.emptyBoundaryApply p) s = .next t := fun t h =>
    answer_next.mpr ⟨decide_eq_true hp, h⟩
  refine ⟨fun h => congrArg _ (wbAck_unstaged h), fun hhas hpend hd hw hr ho => ?_, fun h => hexec _ (emptyBoundaryApply_none h),
    fun hf hm h => hexec _ ?_, fun hf hm hr hs hpend hmask ho => hexec _ ?_⟩
  · exact congrArg Host.Outcome.next ((wbAck_held hhas hd hw hr ho).trans (ackStage_oldest hpend))
  · rw [emptyBoundaryApply_memberless hf hm]
    rcases h with hr | hs
    · exact applyPoint_reduced hr
    · cases hr : s.boot.reduced with
      | true => exact applyPoint_reduced hr
      | false =>
        have hnone : applyObjects p (lookedAt s p) = lookedAt s p := applyObjects_none (s := lookedAt s p) hs p
        have hempty : ∀ x ∈ (lookedAt s p).staged, ObjectOnly x.1 := fun x hx => by simp [lookedAt, hs] at hx
        rw [applyPoint_objects hempty hr (by rw [hnone]; exact hempty), hnone]
        rfl
  · rw [emptyBoundaryApply_memberless hf hm]
    have happly : applyObjects p (lookedAt s p) = _ :=
      (applyObjects_semaphore (s := lookedAt s p) hi hs hpend hmask ho).trans (applyWord_alone (s := lookedAt s p) hs hpend hmask)
    have hword : ∀ x ∈ (lookedAt s p).staged, ObjectOnly x.1 := fun x hx => by
      obtain rfl : x = (word, g) := by simpa [lookedAt, hs] using hx
      exact objectOnly_semaphore hi
    rw [applyPoint_objects hword hr (by rw [happly]; simp), happly]
    rfl

end Sys2Proof.Machine

/-! PROOFS. The engine's ports: the loss of a port that carries no span, tug training, resends, and the flits that leave the rein. -/

namespace Sys2Proof.Machine

/-! ## A port that carries no span (R207) -/

@[simp] theorem spansOn_setFabPort (s : State) (port q : Nat) (y : FabPort) : spansOn (setFabPort q y s) port = spansOn s port := rfl

/-- The loss of a port whose spans are none leaves the mark and its record. -/
theorem portLost_idle {s : State} {port : Nat} (h : spansOn s port = []) :
    portLost port s = report 0x0D (portUnit port) port none [port] (setFabPort port { fabPort s port with lost := true } s) := by
  simp [portLost, linkLoss, lossReport, h]

theorem portUnit_tug {port : Nat} (h : port < 4) : portUnit port = 11 := by simp [portUnit, h]

@[simp] theorem portUnit_rein (port : Nat) : portUnit (8 + port) = 12 := by simp [portUnit]; omega

theorem portUnit_peer {port : Nat} (h : 8 ≤ port) : portUnit port = 12 := by simp [portUnit]; omega

/-! ## Tugs (R192, R193) -/

/-- A report after which only the fabric differs from `s`: the form of a port's own records. -/
theorem report_ofFab {type unit index : Nat} {d : List Nat} {s u : State} (h : u = { s with fab := u.fab }) :
    Told (report type unit index none d u) s type unit index none d ∧
      report type unit index none d u = { s with fab := u.fab, agenda := (report type unit index none d u).agenda,
                                                 free := (report type unit index none d u).free } := by
  constructor
  · have hn : houseNow u = houseNow s := by rw [h]; rfl
    have ht := report_told type unit index none d u
    simpa [Told, hn] using ht
  · conv_lhs => rw [report_frame]
    rw [h]
    rfl

theorem tugTraining_unmeasured {port transit peerN : Nat} {s : State}
    (h : (fabPort s port).phy = false ∨ s.boot.inReset = true ∨ s.boot.reduced = true
      ∨ ((fabPort s port).again = true ∧ s.house.unstable = true)) :
    tugTraining port transit peerN s = s := by
  unfold tugTraining
  rcases h with h | h | h | ⟨h, h'⟩ <;> simp [*]

section measured
variable {port transit peerN : Nat} {s : State}
  (h : (fabPort s port).phy = true ∧ s.boot.inReset = false ∧ s.boot.reduced = false
    ∧ ((fabPort s port).again = false ∨ s.house.unstable = false))
include h

theorem tugTraining_near (hn : transit ≤ 10) :
    tugTraining port transit peerN s =
      setFabPort port { fabPort s port with
        up := true, again := false, lost := false, transit := transit, peerN := peerN, lastRx := (houseNow s).toNat } s := by
  obtain ⟨hp, hr, hd, ha⟩ := h
  unfold tugTraining
  rcases ha with ha | ha <;> simp [*]

theorem tugTraining_far (hf : 10 < transit) (he : spansOn s port = []) :
    tugTraining port transit peerN s =
      report 0x08 (portUnit port) port none [port, transit]
        (setFabPort port { fabPort s port with up := false, again := false, transit := transit, peerN := peerN } s) := by
  obtain ⟨hp, hr, hd, ha⟩ := h
  have hs : ∀ y, spansOn (report 0x08 (portUnit port) port none [port, transit] (setFabPort port y s)) port = [] := fun y => he
  unfold tugTraining
  rcases ha with ha | ha <;> simp [*, Nat.not_le.mpr hf]

end measured

theorem tugResend_again {port : Nat} {s : State} (h : (fabPort s port).resends + 1 < 16) :
    tugResend port s = { s with
      fab := { s.fab with retry := s.fab.retry + 1,
                          ports := Tbl.set FabPort.none port { fabPort s port with
                            resends := (fabPort s port).resends + 1,
                            resend := (fabPort s port).last.map fun u => (u.1 + 8, u.2) } s.fab.ports },
      cyc := (rcBefore 0x6014 s.fab.retry s).cyc } := by
  simp only [tugResend, Nat.not_le.mpr h, if_false]
  rw [rcBefore_frame]
  rfl

/-- The state once a resend has been counted (R193, R17). -/
def resent (s : State) : State :=
  { s with fab := { s.fab with retry := s.fab.retry + 1 }, cyc := (rcBefore 0x6014 s.fab.retry s).cyc }

theorem tugResend_last {port : Nat} {s : State} (h : 16 ≤ (fabPort s port).resends + 1) (he : spansOn s port = []) :
    tugResend port s =
      report 0x0D (portUnit port) port none [port] (setFabPort port
        { fabPort (setFabPort port { fabPort s port with resends := 0, resend := none } s) port with lost := true }
        (setFabPort port { fabPort s port with resends := 0, resend := none } (resent s))) := by
  simp only [tugResend, h, if_true]
  rw [rcBefore_frame]
  exact portLost_idle he

/-! ## The rein's flits (R197, R204) -/

theorem reinFlitSend_empty {bulk : Bool} {s : State} (h : s.fab.reinQ = []) : reinFlitSend bulk s = s := by simp [reinFlitSend, h]

theorem reinFlitSend_noCredit {s : State} (h : creditNow s < 256) : reinFlitSend true s = s := by simp [reinFlitSend, h]

/-- A flit has been chosen: its credit is taken (R197). -/
def creditTaken (s : State) : State :=
  { s with fab := { s.fab with credit := if 256 ≤ creditNow s then creditNow s - 256 else creditNow s, creditAt := s.clk.tclk } }

/-- The turn of the one partition that has a flit: only the pointer and the deficits move (R197). -/
theorem reinTurn_one {o : FabOut} {p : Nat} (s : State) (ho : o.part = some p) (hp : p < 64) :
    ∃ ptr d, reinTurn [o] s = (some o, { s with fab := { s.fab with drrPtr := ptr, drr := d } }) := by
  have hr : ((List.range 64).filter fun q => [o].any fun x => x.part == some q) = [p] := by
    have : (fun q => [o].any fun x => x.part == some q) = fun q => q == p := by
      funext q
      simp [ho, eq_comm]
    rw [this, List.filter_beq, List.count_eq_one_of_mem List.nodup_range (List.mem_range.mpr hp), List.replicate_one]
  have hn : nextReady s.fab.drrPtr [p] = some p := by
    by_cases hq : s.fab.drrPtr < p <;> simp [nextReady, hq]
  unfold reinTurn
  simp only [hr]
  by_cases hc : [p].contains s.fab.drrPtr = true ∧
      1 ≤ Tbl.get 0 (s.fab.drr.filter fun d => [p].contains d.1) s.fab.drrPtr
  · have hq : s.fab.drrPtr = p := by simpa using hc.1
    rw [if_pos hc]
    exact ⟨_, _, by simp [ho, hq]; exact ⟨rfl, rfl⟩⟩
  · rw [if_neg hc, hn]
    exact ⟨_, _, by simp [ho]; exact ⟨rfl, rfl⟩⟩

section due
variable {bulk : Bool} {s : State} {o : FabOut}
  (h : s.fab.reinQ = [o] ∧ 8 ≤ o.port ∧ portUp s o.port = true ∧ o.ready ≤ s.clk.tclk ∧ (bulk = false ∨ 256 ≤ creditNow s))
include h

/-- The one flit that waits is free to leave. -/
theorem rein_due :
    (s.fab.reinQ.filter fun x => decide (8 ≤ x.port ∧ x.ready ≤ s.clk.tclk ∧ portUp s x.port = true)) = [o]
      ∧ (decide (creditNow s < 256) && bulk) = false := by
  obtain ⟨hq, hport, hup, hr, hb⟩ := h
  refine ⟨by simp [hq, hport, hr, hup], ?_⟩
  rcases hb with hb | hb
  · simp [hb]
  · simp [Nat.not_lt.mpr hb]

theorem reinFlitSend_own (hn : o.part = none) : reinFlitSend bulk s = sendFlit o (creditTaken s) := by
  obtain ⟨hf, hc⟩ := rein_due h
  simp only [reinFlitSend, hf, hc, List.isEmpty_cons, Bool.or_self, Bool.false_eq_true, if_false]
  simp [hn, firstOut, creditTaken]

theorem reinFlitSend_turn {p : Nat} (ho : o.part = some p) (hp : p < 64) (hk : outRank o = 2) :
    ∃ ptr d, reinFlitSend bulk s = sendFlit o (creditTaken { s with fab := { s.fab with drrPtr := ptr, drr := d } }) := by
  obtain ⟨hf, hc⟩ := rein_due h
  obtain ⟨ptr, d, ht⟩ := reinTurn_one s ho hp
  refine ⟨ptr, d, ?_⟩
  simp only [reinFlitSend, hf, hc, List.isEmpty_cons, Bool.or_self, Bool.false_eq_true, if_false]
  simp [ho, hk, firstOut, ht]
  rfl

end due

theorem takeUnit_last {o : FabOut} (hp : 8 ≤ o.port) (h : o.beats ≤ o.next + 3) : takeUnit o [o] = [] := by
  have : ¬ o.port < 4 := by omega
  simp [takeUnit, unitBeats, this, h]

theorem takeUnit_more {o : FabOut} (hp : 8 ≤ o.port) (h : o.next + 3 < o.beats) : takeUnit o [o] = [{ o with next := o.next + 3 }] := by
  have : ¬ o.port < 4 := by omega
  simp [takeUnit, unitBeats, this, Nat.not_le.mpr h]

theorem unitBytes_rein {port : Nat} (h : 8 ≤ port) : unitBytes port 1 = 64 := by
  have : ¬ port < 4 := by omega
  simp [unitBytes, this]

/-- What the fabric holds once a flit has left a port of the rein: driven, and counted (R272, R273). -/
def flitGone (s : State) (u : FabUnit) (rest : List FabOut) : Fabric :=
  { s.fab with
    reinQ := rest, sent := s.fab.sent ++ [u],
    ports := Tbl.set FabPort.none u.port { fabPort s u.port with lastTx := (houseNow s).toNat, last := some (s.clk.tclk, u) } s.fab.ports,
    bytes := Tbl.set 0#64 (2 * linkOf u.port) (Tbl.get 0#64 s.fab.bytes (2 * linkOf u.port) + 64) s.fab.bytes }

/-- What a flit counts for its partition. -/
def flitCounted (o : FabOut) (s : State) : State :=
  match o.part with
  | some p => count p 14 64 s
  | none => s

theorem sendFlit_stamped {o q : FabOut} {s : State} {e : Option W64} (hp : 8 ≤ o.port)
    (hst : stampOut o s = (q, { s with house := { s.house with exch := e } })) (hq : q.port = o.port) (hqp : q.part = o.part) :
    sendFlit o s = { s with
      fab := flitGone s (unitOf q) (takeUnit o s.fab.reinQ), house := { s.house with exch := e }, parts := (flitCounted o s).parts } := by
  have hu : (unitOf q).port = o.port := hq
  simp only [sendFlit, hst, sentUnit, hqp, flitCounted, flitGone, hu, unitBytes_rein hp]
  cases o.part <;> rfl

theorem stampOut_plain {o : FabOut} {s : State} (h : o.pkt.fkind ≠ 6) : stampOut o s = (o, s) := by
  simp only [stampOut, h, false_and, if_false]

theorem stampOut_asked {o : FabOut} {s : State} (h : o.pkt.fkind = 6) (hv : o.pkt.vote = 1) :
    stampOut o s = ({ o with pkt := { o.pkt with data := (BitVec.ofNat 64 (houseFine s)).setWidth 640 } },
      { s with house := { s.house with exch := some (BitVec.ofNat 64 (houseFine s)) } }) := by
  simp [stampOut, h, hv]

theorem stampOut_answered {o : FabOut} {s : State} (h : o.pkt.fkind = 6) (hv : o.pkt.vote = 2) :
    stampOut o s = ({ o with pkt := { o.pkt with data := o.pkt.data ||| ((BitVec.ofNat 64 (houseFine s)).setWidth 640 <<< 128) } }, s) := by
  simp [stampOut, h, hv]

/-- Settles O40: each report of a tug, each resend and each flit by the branch of its command that its hypotheses leave. -/
theorem tugsTrainAndFlitsLeave : Obligations.TugsTrainAndFlitsLeave := by
  unfold Obligations.TugsTrainAndFlitsLeave
  intro s port transit peerN bulk o p hport
  have tug : ∀ t : State, answer (decide (port < 4)) t = .next t := fun t => answer_next.mpr ⟨by simpa using hport, rfl⟩
  have hunit := portUnit_tug hport
  refine ⟨?_, ?_, ?_, ?_, ?_, ?_, ?_, ?_, ?_, ?_, ?_, ?_, ?_, ?_, ?_⟩
  · exact tug _
  · intro hphy
    simp only [exec, execTugTrained, tug, tugTrained, hphy, Bool.false_eq_true, if_false]
  · intro hphy he
    simp only [exec, execTugTrained, tug, tugTrained, hphy, Bool.false_eq_true, if_false, if_true, completes_next]
    rw [portLost_idle (by simpa using he), hunit]
    exact ⟨rfl, report_ofFab rfl⟩
  · intro h
    simp only [exec, execTugTraining, tug, tugTraining_unmeasured h]
  · intro h hn
    simp only [exec, execTugTraining, tug, tugTraining_near h hn]
    rfl
  · intro h hf he
    simp only [exec, execTugTraining, tug, tugTraining_far h hf he, hunit, completes_next]
    exact ⟨rfl, report_ofFab rfl⟩
  · intro h
    simp only [exec, execTugResend, tug, tugResend_again h]
  · intro h he
    simp only [exec, execTugResend, tug, tugResend_last h he, hunit, completes_next]
    obtain ⟨ht, hf⟩ := report_ofFab (type := 0x0D) (unit := 11) (index := port) (d := [port]) (s := resent s) (u := setFabPort port
      { fabPort (setFabPort port { fabPort s port with resends := 0, resend := none } s) port with lost := true }
      (setFabPort port { fabPort s port with resends := 0, resend := none } (resent s))) rfl
    exact ⟨rfl, ht, hf⟩
  · intro h
    simp only [exec, execReinFlitSend, reinFlitSend_empty h]
  · intro h
    simp only [exec, execReinFlitSend, reinFlitSend_noCredit h]
  · intro hdue hw hn hk
    obtain ⟨hq, hp, -, -, -⟩ := id hdue
    simp only [exec, execReinFlitSend, reinFlitSend_own hdue hn]
    rw [sendFlit_stamped (e := s.house.exch) hp (stampOut_plain hk) rfl rfl]
    simp only [creditTaken, hq, takeUnit_last hp hw, flitCounted, hn]
    rfl
  · intro hdue hw hn hk
    obtain ⟨hq, hp, -, -, -⟩ := id hdue
    simp only [exec, execReinFlitSend, reinFlitSend_own hdue hn]
    rw [sendFlit_stamped (e := s.house.exch) hp (stampOut_plain hk) rfl rfl]
    simp only [creditTaken, hq, takeUnit_more hp hw, flitCounted, hn]
    rfl
  · intro hdue hw hk hv hn
    obtain ⟨hq, hp, -, -, -⟩ := id hdue
    have hst := stampOut_asked (s := creditTaken s) hk hv
    simp only [exec, execReinFlitSend, reinFlitSend_own hdue hn]
    rw [sendFlit_stamped hp hst rfl rfl]
    simp only [creditTaken, hq, takeUnit_last hp hw, flitCounted, hn]
    rfl
  · intro hdue hw hk hv hn
    obtain ⟨hq, hp, -, -, -⟩ := id hdue
    have hst := stampOut_answered (s := creditTaken s) hk hv
    simp only [exec, execReinFlitSend, reinFlitSend_own hdue hn]
    rw [sendFlit_stamped (e := s.house.exch) hp hst rfl rfl]
    simp only [creditTaken, hq, takeUnit_last hp hw, flitCounted, hn]
    rfl
  · intro hdue hw hpart hp64 hr
    obtain ⟨hq, hp, -, -, -⟩ := id hdue
    have hk : o.pkt.fkind ≠ 6 := fun h => by simp [outRank, h] at hr
    obtain ⟨ptr, d, ht⟩ := reinFlitSend_turn hdue hpart hp64 hr
    simp only [exec, execReinFlitSend, ht, completes_next]
    rw [sendFlit_stamped (e := s.house.exch) hp (stampOut_plain hk) rfl rfl]
    simp only [creditTaken, hq, takeUnit_last hp hw, flitCounted, hpart]
    exact ⟨rfl, rfl, trivial⟩

end Sys2Proof.Machine

/-! PROOFS. The loss of a span (R208): what its packets and its ended epoch leave, for SPAN_ABORT and for a port that times out. -/

namespace Sys2Proof.Machine

/-! ## What the loss of a span may change -/

/-- The end of an epoch at the die root and the packets of a lost span change the tree's records, links and epochs, the fabric's packets
and spans, counters, tallies, trace, notices and what is due alone. -/
def Breaks (t s : State) : Prop :=
  t = { s with su := t.su, tree := { s.tree with nodes := t.tree.nodes, links := t.tree.links, epochs := t.tree.epochs },
               agenda := t.agenda, tly := t.tly, parts := t.parts, fab := { s.fab with reinQ := t.fab.reinQ, spans := t.fab.spans },
               page := t.page, hq := t.hq, obs := t.obs, cyc := t.cyc, free := t.free }

theorem Breaks.refl (s : State) : Breaks s s := rfl

theorem Breaks.trans {u t s : State} (h : Breaks u t) (g : Breaks t s) : Breaks u s := by
  unfold Breaks at *
  rw [h, g]

theorem Breaks.ofSends {t s : State} (h : NodeSends t s) : Breaks t s := by
  unfold Breaks
  rw [h.frame]

theorem Breaks.ofDeparts {t s : State} (h : Departs t s) : Breaks t s := by
  unfold Breaks
  rw [h]

theorem Breaks.ofNotice {t s : State} (h : NoticeFrame t s) : Breaks t s := by
  unfold Breaks
  rw [h]

theorem Breaks.houseNow {t s : State} (h : Breaks t s) : houseNow t = houseNow s := by rw [h]; rfl

/-! ## The end of an epoch at the die root (R74, R134) -/

theorem applyAfter_breaks (slot : Nat) (s : State) : Breaks (applyAfter slot s) s := by
  unfold applyAfter
  split
  · split <;> rfl
  · exact .refl s

theorem applyAfter_tree (slot : Nat) (s : State) : (applyAfter slot s).tree = s.tree ∧ (applyAfter slot s).fab = s.fab := by
  unfold applyAfter
  split
  · split <;> exact ⟨rfl, rfl⟩
  · exact ⟨rfl, rfl⟩

/-- A cue that ends an epoch without a set goes to the child masks, of a count slot as well. -/
theorem startDown_abort {c : Cue} (hc : c.abort = true) (s : State) : Departs (startDown .die c s) s := by
  simp only [startDown, hc, Bool.not_true, Bool.and_false, Bool.false_eq_true, if_false]
  exact Departs.foldl (fun a k => sendCue_departs k c a) _ _

/-- The nodes and the agenda once the arrivals of an ended epoch are gone. -/
theorem endedNodes_breaks (slot : Nat) (nx e : W32) (s : State) :
    let t := if isCount s slot then purgeCount slot nx s else passRoot .die slot e nx s
    Breaks t s ∧ t.tree.epochs = s.tree.epochs ∧ t.fab.spans = s.fab.spans := by
  dsimp only
  split
  · exact ⟨rfl, rfl, rfl⟩
  · have h := passNode_sends .die slot e nx s
    refine ⟨.ofSends h, ?_, ?_⟩
    all_goals
      unfold passRoot
      rw [h.frame]

/-- The cue of an ended epoch leaves the die root, which opens `nx`. -/
theorem abortCue_leaves {c : Cue} (hc : c.abort = true) (slot : Nat) (nx : W32) (s : State) :
    let t := applyAfter slot (startDown .die c (cueOut .die c (setEpoch slot nx s)))
    Breaks t s ∧ t.tree.epochs = Tbl.set 0#32 slot nx s.tree.epochs ∧ t.fab.spans = s.fab.spans := by
  dsimp only
  have hdep := (startDown_abort hc _).trans (cueOut_departs .die c (setEpoch slot nx s))
  obtain ⟨htree, hfab⟩ := applyAfter_tree slot (startDown .die c (cueOut .die c (setEpoch slot nx s)))
  refine ⟨(applyAfter_breaks _ _).trans ((Breaks.ofDeparts hdep).trans rfl), ?_, ?_⟩
  · rw [htree, hdep]
    rfl
  · rw [hfab, hdep]
    rfl

theorem abortSlot_die (slot : Nat) (stalls : List Nat) (s : State) :
    let t := abortSlot slot .die stalls s
    Breaks t s ∧ t.tree.epochs = Tbl.set 0#32 slot (epochOf s slot + 1) s.tree.epochs ∧ t.fab.spans = s.fab.spans := by
  obtain ⟨hbreaks, hepochs, hspans⟩ :=
    endedNodes_breaks slot (epochOf s slot + 1) (epochOf s slot) (unschedule (fun i => i == .rootDecision .die slot) s)
  dsimp only
  simp only [abortSlot, abortTo]
  generalize hcue : Cue.mk .. = c
  obtain ⟨hleaves, he, hs⟩ := abortCue_leaves (c := c) (by rw [← hcue]) slot (epochOf s slot + 1) _
  exact ⟨hleaves.trans (hbreaks.trans rfl), he.trans (congrArg (Tbl.set 0#32 slot _) hepochs), hs.trans hspans⟩

/-! ## The three actions on one entry (R208) -/

theorem spanState_setSpan {e : Nat} {x : SpanState} (h : x.broken = true) (s : State) : spanState (setSpan e x s) e = x :=
  Tbl.get_set_self _ _ _ _ fun hx => by simp [hx, SpanState.none] at h

theorem setSpan_breaks (e : Nat) (x : SpanState) (s : State) : Breaks (setSpan e x s) s := rfl

theorem endEpoch_now {slot e : Nat} {s : State} (hw : cueWaits s slot = false) :
    let t := endEpoch slot e s
    Breaks t s ∧ t.tree.epochs = Tbl.set 0#32 slot (epochOf s slot + 1) s.tree.epochs
      ∧ spanState t e = { spanState s e with broken := true } := by
  obtain ⟨hb, he, hs⟩ := abortSlot_die slot (memberStalls s slot) s
  have hspan : spanState (abortSlot slot .die (memberStalls s slot) s) e = spanState s e := congrArg (Tbl.get SpanState.none · e) hs
  dsimp only
  simp only [endEpoch, hw, Bool.false_eq_true, if_false]
  rw [hspan]
  exact ⟨(Breaks.ofSends (setNode_sends _ _ _ _)).trans ((setSpan_breaks _ _ _).trans hb), he, spanState_setSpan rfl _⟩

theorem endEpoch_later {slot e : Nat} {s : State} (hw : cueWaits s slot = true) :
    let t := endEpoch slot e s
    Breaks t s ∧ t.tree.epochs = s.tree.epochs ∧ spanState t e = { spanState s e with broken := true, abortNext := true } := by
  dsimp only
  simp only [endEpoch, hw, if_true]
  exact ⟨(setSpan_breaks _ _ _).trans (.ofSends (setNode_sends _ _ _ _)), rfl, spanState_setSpan rfl _⟩

/-- SPAN_ABORT goes to the ports given, and what waited stays. -/
theorem sendSpans_queued (slot : Nat) (pkt : SpanPkt) (l : List Nat) (s : State) :
    let t := l.foldl (fun a p => sendSpan p slot a.clk.tclk pkt a) s
    NodeSends t s ∧ t.tree = s.tree ∧ t.fab.spans = s.fab.spans ∧ ∀ q ∈ l, ∃ j ∈ t.fab.reinQ, j.port = q ∧ j.pkt = pkt := by
  induction l generalizing s with
  | nil => exact ⟨.refl s, rfl, rfl, by simp⟩
  | cons p l ih =>
    obtain ⟨hsends, htree, hspans, hqueued⟩ := ih (sendSpan p slot s.clk.tclk pkt s)
    refine ⟨hsends.trans (sendSpan_sends _ _ _ _ _), htree, hspans, fun q hq => ?_⟩
    rcases List.mem_cons.mp hq with rfl | hq
    · exact ⟨_, hsends.queued (List.mem_append_right _ (List.mem_singleton_self _)), rfl, rfl⟩
    · exact hqueued q hq

/-- What tells the partition of a lost span and looks at its set again changes neither spans nor epochs. -/
theorem lossEvent_breaks (slot : Nat) (s : State) :
    let t := settle .die slot (match slotOwner s slot with | some p => event p 0x05 (BitVec.ofNat 32 (slotRel s p slot)) 0 s | none => s)
    Breaks t s ∧ t.tree.epochs = s.tree.epochs ∧ t.fab.spans = s.fab.spans ∧ s.fab.reinQ ⊆ t.fab.reinQ := by
  have hnotice : NoticeFrame
      (match slotOwner s slot with | some p => event p 0x05 (BitVec.ofNat 32 (slotRel s p slot)) 0 s | none => s) s := by
    split
    · exact event_notice _ _ _ _ _
    · exact .refl s
  dsimp only
  generalize (match slotOwner s slot with | some p => event p 0x05 (BitVec.ofNat 32 (slotRel s p slot)) 0 s | none => s) = u at hnotice
  have hsends := settle_sends .die slot u
  refine ⟨(Breaks.ofSends hsends).trans (.ofNotice hnotice), ?_, ?_, ?_⟩
  · rw [hsends.frame, hnotice]
  · rw [hsends.frame, hnotice]
  · refine List.Subset.trans ?_ hsends.queued
    rw [hnotice]
    exact List.Subset.refl _

/-- The state in which a span's epoch ends: nothing of its epoch waits to be sent. -/
def withoutQueued (s : State) (skip : Option Nat) (e : Nat) : State :=
  dropQueued (spanPkt s (spanSlot s e) 5 ((epochOf s (spanSlot s e)).setWidth 6)).span skip s

/-- A valid entry that is not BROKEN is lost: its epoch ends, and every other port of the span is sent a SPAN_ABORT. -/
theorem loseSpan_spec {skip : Option Nat} {e : Nat} {s : State} (hv : spanValid s e = true) (hn : (spanState s e).broken = false)
    (hb : Breaks (endEpoch (spanSlot s e) e (withoutQueued s skip e)) (withoutQueued s skip e)) :
    let t := loseSpan skip e s
    Breaks t s ∧ t.tree.epochs = (endEpoch (spanSlot s e) e (withoutQueued s skip e)).tree.epochs
      ∧ spanState t e = spanState (endEpoch (spanSlot s e) e (withoutQueued s skip e)) e
      ∧ ∀ q ∈ spanPorts s e, skip ≠ some q → ∃ j ∈ t.fab.reinQ, j.port = q ∧ j.pkt.fkind = 5 := by
  dsimp only
  unfold loseSpan
  rw [if_neg (by simp [hv, hn])]
  dsimp only
  obtain ⟨hsends, htree, hspans, hqueued⟩ := sendSpans_queued (spanSlot s e)
    (spanPkt s (spanSlot s e) 5 ((epochOf s (spanSlot s e)).setWidth 6)) ((spanPorts s e).filter fun p => skip != some p)
    (endEpoch (spanSlot s e) e (withoutQueued s skip e))
  unfold withoutQueued at *
  generalize List.foldl _ _ _ = u at *
  obtain ⟨hevent, hepochs, hspans', hkept⟩ := lossEvent_breaks (spanSlot s e) u
  refine ⟨hevent.trans ((Breaks.ofSends hsends).trans (hb.trans rfl)), hepochs.trans (by rw [htree]), ?_, fun q hq hskip => ?_⟩
  · exact congrArg (Tbl.get SpanState.none · e) (hspans'.trans hspans)
  · obtain ⟨j, hj, hport, hpkt⟩ := hqueued q (List.mem_filter.mpr ⟨hq, by simpa using hskip⟩)
    exact ⟨j, hkept hj, hport, by rw [hpkt]; rfl⟩

/-- What follows for one entry of a SPAN_ABORT or of a port's loss: the record names it, and what the span does not touch stays. -/
theorem linkLoss_one {port e : Nat} {s : State} (hb : Breaks (loseSpan (some port) e s) s) :
    Told (linkLoss port [e] s) s 0x0D (portUnit port) port none [port, fld s (spanKey e 0) 19 0]
      ∧ (linkLoss port [e] s).objs = s.objs ∧ (linkLoss port [e] s).stirs = s.stirs ∧ (linkLoss port [e] s).force = s.force := by
  have hfld : fld (loseSpan (some port) e s) (spanKey e 0) 19 0 = fld s (spanKey e 0) 19 0 := by rw [hb]; rfl
  refine ⟨?_, show (loseSpan (some port) e s).objs = s.objs by rw [hb], show (loseSpan (some port) e s).stirs = s.stirs by rw [hb],
    show (loseSpan (some port) e s).force = s.force by rw [hb]⟩
  have ht := report_told 0x0D (portUnit port) port none [port, fld s (spanKey e 0) 19 0] (loseSpan (some port) e s)
  simpa [linkLoss, lossReport, hfld, Told, hb.houseNow] using ht

/-- The loss with no cue still to leave: the open epoch ends now. -/
theorem linkLoss_now {port e : Nat} {s : State} (hv : spanValid s e = true) (hn : (spanState s e).broken = false)
    (hw : cueWaits s (spanSlot s e) = false) :
    let t := linkLoss port [e] s
    spanState t e = { spanState s e with broken := true }
      ∧ t.tree.epochs = Tbl.set 0#32 (spanSlot s e) (epochOf s (spanSlot s e) + 1) s.tree.epochs
      ∧ (∀ q ∈ spanPorts s e, q ≠ port → ∃ j ∈ t.fab.reinQ, j.port = q ∧ j.pkt.fkind = 5)
      ∧ Told t s 0x0D (portUnit port) port none [port, fld s (spanKey e 0) 19 0]
      ∧ t.objs = s.objs ∧ t.stirs = s.stirs ∧ t.force = s.force := by
  obtain ⟨hb, hepochs, hspan⟩ := endEpoch_now (slot := spanSlot s e) (e := e) (s := withoutQueued s (some port) e) hw
  obtain ⟨hlost, hepochs', hspan', hsent⟩ := loseSpan_spec hv hn hb
  exact ⟨hspan'.trans hspan, hepochs'.trans hepochs, fun q hq hne => hsent q hq (fun h => hne (Option.some.inj h).symm), linkLoss_one hlost⟩

theorem linkLoss_later {port e : Nat} {s : State} (hv : spanValid s e = true) (hn : (spanState s e).broken = false)
    (hw : cueWaits s (spanSlot s e) = true) :
    let t := linkLoss port [e] s
    spanState t e = { spanState s e with broken := true, abortNext := true }
      ∧ t.tree.epochs = s.tree.epochs ∧ t.tree.held = s.tree.held
      ∧ (∀ q ∈ spanPorts s e, q ≠ port → ∃ j ∈ t.fab.reinQ, j.port = q ∧ j.pkt.fkind = 5)
      ∧ Told t s 0x0D (portUnit port) port none [port, fld s (spanKey e 0) 19 0]
      ∧ t.objs = s.objs ∧ t.stirs = s.stirs ∧ t.force = s.force := by
  obtain ⟨hb, hepochs, hspan⟩ := endEpoch_later (slot := spanSlot s e) (e := e) (s := withoutQueued s (some port) e) hw
  obtain ⟨hlost, hepochs', hspan', hsent⟩ := loseSpan_spec hv hn hb
  have hheld : (loseSpan (some port) e s).tree.held = s.tree.held := by rw [hlost]
  exact ⟨hspan'.trans hspan, hepochs'.trans hepochs, hheld, fun q hq hne => hsent q hq (fun h => hne (Option.some.inj h).symm),
    linkLoss_one hlost⟩

/-! ## A span packet at its entry (R190, R208) -/

theorem ports_contains {port : Nat} : ports.contains port = true ↔ port < 4 ∨ 8 ≤ port ∧ port < 24 := by
  simp only [ports, List.contains_eq_mem, List.mem_append, List.mem_range, List.mem_map, decide_eq_true_eq]
  constructor
  · rintro (h | ⟨a, h, rfl⟩) <;> omega
  · rintro (h | ⟨h, h'⟩)
    · exact .inl h
    · exact .inr ⟨port - 8, by omega, by omega⟩

section row
variable {port k : Nat} {pkt : SpanPkt} {row : SpanPkt → Instr} {f : SpanPkt → Nat → State → State} {s : State}
  (hport : ports.contains port = true) (hk : pkt.fkind.toNat = k)
include hport hk

theorem spanRowOk_down (hu : portUp s port = false) (taken : Bool) : spanRowOk port k pkt taken row f s = .next s := by
  simp only [spanRowOk, hk, ne_eq, not_true_eq_false, if_false]
  exact answer_next.mpr ⟨hport, by simp [hu]⟩

/-- A whole packet of a valid entry that is not BROKEN has its effect. -/
theorem spanRowOk_taken {e : Nat} (h : portUp s port = true ∧ spanFor s pkt.span = some e ∧ (spanState s e).broken = false) :
    spanRowOk port k pkt true row f s = .next (f pkt e s) := by
  obtain ⟨hu, he, hb⟩ := h
  simp only [spanRowOk, hk, ne_eq, not_true_eq_false, if_false]
  exact answer_next.mpr ⟨hport, by simp [hu, spanTake, he, hb]⟩

end row

/-- The effect of an IDLE or ACTIVE that one of the entry's own child ports brings for an epoch the node knows. -/
theorem spanIdleness_below {active : Bool} {port e : Nat} {pkt : SpanPkt} {g : W32} {s : State}
    (h : (spanDown s e).contains port = true ∧ genEpoch (node s .die (spanSlot s e)) pkt.gen = some g) :
    spanIdleness active port pkt e s = if active then activeArrive .die (spanSlot s e) (portChild port) s
      else idleArrive .die (spanSlot s e) (portChild port) pkt.gen s := by
  obtain ⟨hd, hg⟩ := h
  have hd' : port ∈ spanDown s e := by simpa using hd
  simp [spanIdleness, hd', hg]

/-- No acknowledgement crosses a port: an ACTIVE only takes the child in again (log 27). -/
theorem activeArrive_port {slot port : Nat} {s : State} (hi : (node s .die slot).idleSent = false) (hw : (node s .die slot).ackWait = false) :
    activeArrive .die slot (portChild port) s = setNode .die slot
      { node s .die slot with idle := (node s .die slot).idle.filter fun j => j.1 != portChild port } s := by
  have hc : childPlace .die (portChild port) = none := if_neg (by simp [portChild]; omega)
  simp [activeArrive, hi, hw, sendAck, hc]

/-! ## Flits that are discarded (Table PAR-7, Table FAB-6) -/

/-- The record of a port on which something has just arrived. -/
def restartedPort (port : Nat) (s : State) : FabPort :=
  { fabPort s port with lastRx := (houseNow s).toNat, lost := false, resends := 0 }

/-- The times of the flits of a port discarded lately, now among them. -/
def badsNow (port : Nat) (s : State) : List Nat :=
  (houseNow s).toNat :: (fabPort s port).bads.filter fun t => decide ((houseNow s).toNat < t + 1000 * usTicks)

theorem restartedPort_ne_none {port : Nat} {s : State} (h : 0 < (houseNow s).toNat) : restartedPort port s ≠ FabPort.none :=
  fun hx => absurd (congrArg FabPort.lastRx hx) (Nat.ne_of_gt h)

theorem fabPort_noteRx {port : Nat} {s : State} (h : 0 < (houseNow s).toNat) (n : Nat) :
    fabPort (noteRx port n s) port = restartedPort port s :=
  Tbl.get_set_self _ _ _ _ (restartedPort_ne_none h)

theorem discardedPort_ne_none {port : Nat} {s : State} (h : 0 < (houseNow s).toNat) :
    { restartedPort port s with bads := badsNow port s } ≠ FabPort.none :=
  fun hx => absurd (congrArg FabPort.lastRx hx) (Nat.ne_of_gt h)

/-- A port written after something arrived on it holds what is written. -/
theorem setFabPort_noteRx {port n : Nat} {y : FabPort} {s : State} (h : 0 < (houseNow s).toNat) (hy : y ≠ FabPort.none) :
    Tbl.set FabPort.none port y (noteRx port n s).fab.ports = Tbl.set FabPort.none port y s.fab.ports :=
  Tbl.set_set _ _ _ _ _ (restartedPort_ne_none h) hy

theorem badFlit_tug {port : Nat} (h : port < 4) (s : State) : badFlit port s = s := if_pos h

theorem badFlit_rein {port : Nat} {s u : State} (hp : 8 ≤ port) (hu : fabPort u port = restartedPort port s) (hn : houseNow u = houseNow s)
    (hl : (badsNow port s).length < 16) :
    badFlit port u = setFabPort port { restartedPort port s with bads := badsNow port s } u := by
  have h4 : ¬ port < 4 := by omega
  have hl' : ¬ 16 ≤ ((houseNow s).toNat :: (restartedPort port s).bads.filter fun t => decide ((houseNow s).toNat < t + 1000 * usTicks)).length :=
    Nat.not_le.mpr hl
  simp only [badFlit, if_neg h4, hu, hn, if_neg hl']
  rfl

/-- A reserved FKIND on a tug counts its bytes and is recorded. -/
theorem fabricPacketDiscard_told {port : Nat} {pkt : SpanPkt} {s : State} :
    Told (fabricRecord port pkt (noteRx port 1 s)) s 0x0B (portUnit port) port none [port, headerOf pkt] :=
  report_told _ _ _ _ _ (noteRx port 1 s)

theorem told_setFabPort {port : Nat} {y : FabPort} {t s : State} {type unit index : Nat} {p : Option Nat} {d : List Nat} :
    Told (setFabPort port y t) s type unit index p d ↔ Told t s type unit index p d := by
  unfold Told
  rfl

theorem setFabPort_record {port : Nat} {pkt : SpanPkt} {y : FabPort} {s : State} (h : 0 < (houseNow s).toNat) (hy : y ≠ FabPort.none) :
    setFabPort port y (fabricRecord port pkt (noteRx port 1 s)) = { s with
      fab := { (noteRx port 1 s).fab with ports := Tbl.set FabPort.none port y s.fab.ports },
      agenda := (fabricRecord port pkt (noteRx port 1 s)).agenda, free := s.free + 1 } := by
  rw [← setFabPort_noteRx h hy]
  rfl

theorem exec_fabricPacketDiscard {port : Nat} {pkt : SpanPkt} {s : State} (hport : ports.contains port = true)
    (hk : fkindReserved pkt.fkind = true) : exec (.fabricPacketDiscard port pkt) s
      = .next (if portUp s port then badFlit port (fabricRecord port pkt (noteRx port 1 s)) else s) := by
  simp only [exec, execFabricPacketDiscard, hk, Bool.not_true, Bool.false_eq_true, if_false]
  exact answer_next.mpr ⟨hport, rfl⟩

/-- Settles O38: an entry's IDLE and ACTIVE reach the die root, a SPAN_ABORT ends the span's epoch now or after its cue, and a reserved
FKIND is recorded. -/
theorem spansIdleRejoinAndBreak : Obligations.SpansIdleRejoinAndBreak := by
  unfold Obligations.SpansIdleRejoinAndBreak
  intro s port e pkt g hport slot ns x now ours below heard lately restarted discarded lost
  have toNat : ∀ {k : BitVec 4}, pkt.fkind = k → pkt.fkind.toNat = k.toNat := fun h => congrArg BitVec.toNat h
  refine ⟨fun hu taken => ⟨fun hk => ?_, fun hk => ?_, fun hk => ?_, fun hk => ?_⟩, fun ho hb hk hl => ?_, fun ho hb hk hi hw => ?_,
    fun ho hk hv hw => ?_, fun ho hk hv hw => ?_, fun hu hp hk => ?_, fun hu hp hk hn hl => ?_⟩
  · exact spanRowOk_down hport (toNat hk) hu taken
  · exact spanRowOk_down hport (toNat hk) hu taken
  · exact spanRowOk_down hport (toNat hk) hu taken
  · rw [exec_fabricPacketDiscard hport hk, hu]
    rfl
  · have hexec : exec (.spanIdle port pkt true) s = .next (spanIdleness false port pkt e s) := spanRowOk_taken hport (toNat hk) ho
    rw [hexec, spanIdleness_below hb, completes_next]
    obtain ⟨-, hg⟩ := hb
    obtain ⟨htree, hnode⟩ := settle_setNode .die slot { ns with
      idle := (ns.idle.filter fun j => j.1 != portChild port) ++ [(portChild port, g)], lastEv := s.clk.tclk } s (solid_of_idle (by simp))
    simp only [Bool.false_eq_true, if_false]
    rw [idleArrive_taken rfl hg hl]
    exact ⟨hnode.idle, hnode.cur, hnode.epoch, htree⟩
  · have hexec : exec (.spanActive port pkt true) s = .next (spanIdleness true port pkt e s) := spanRowOk_taken hport (toNat hk) ho
    rw [hexec, spanIdleness_below hb, if_pos rfl, activeArrive_port hi hw]
    rfl
  · have hexec : exec (.spanAbort port pkt true) s = .next (linkLoss port [e] s) :=
      spanRowOk_taken (f := fun _ => spanAborted port) hport (toNat hk) ho
    obtain ⟨-, -, hn⟩ := ho
    rw [hexec, completes_next]
    exact linkLoss_now hv hn hw
  · have hexec : exec (.spanAbort port pkt true) s = .next (linkLoss port [e] s) :=
      spanRowOk_taken (f := fun _ => spanAborted port) hport (toNat hk) ho
    obtain ⟨-, -, hn⟩ := ho
    obtain ⟨hspan, hepochs, hheld, -, hrest⟩ := linkLoss_later (port := port) hv hn hw
    rw [hexec, completes_next]
    exact ⟨hspan, hepochs, hheld, hrest⟩
  · rw [exec_fabricPacketDiscard hport hk, if_pos hu, badFlit_tug hp, completes_next]
    exact ⟨fabricPacketDiscard_told, rfl⟩
  · have hbad := badFlit_rein (u := fabricRecord port pkt (noteRx port 1 s)) hp (fabPort_noteRx hn 1) rfl hl
    rw [exec_fabricPacketDiscard hport hk, if_pos hu, completes_next, hbad]
    refine ⟨told_setFabPort.mpr fabricPacketDiscard_told, ?_⟩
    exact setFabPort_record hn (discardedPort_ne_none hn)

end Sys2Proof.Machine

/-! PROOFS. Heartbeats, timeouts and the optical link: what a port hears, and what its loss takes with it. -/

namespace Sys2Proof.Machine

/-! ## The loss of a port that one span uses (R207, R208) -/

theorem mem_spansOn {s : State} {port e : Nat} (h : e ∈ spansOn s port) : spanValid s e = true ∧ (spanState s e).broken = false := by
  have h' := (List.mem_filter.mp h).2
  simp only [Bool.and_eq_true, Bool.not_eq_true'] at h'
  obtain ⟨⟨hv, hb⟩, -⟩ := h'
  exact ⟨hv, hb⟩

/-- Whether the epoch ends now or after its cue, the span is BROKEN and its other ports are told. -/
theorem linkLoss_breaks {port e : Nat} {s : State} (hv : spanValid s e = true) (hn : (spanState s e).broken = false) :
    let t := linkLoss port [e] s
    t.fab.ports = s.fab.ports ∧ (spanState t e).broken = true
      ∧ Told t s 0x0D (portUnit port) port none [port, fld s (spanKey e 0) 19 0]
      ∧ (∀ q ∈ spanPorts s e, q ≠ port → ∃ j ∈ t.fab.reinQ, j.port = q ∧ j.pkt.fkind = 5)
      ∧ t.objs = s.objs ∧ t.stirs = s.stirs ∧ t.force = s.force := by
  have hends : Breaks (endEpoch (spanSlot s e) e (withoutQueued s (some port) e)) (withoutQueued s (some port) e) := by
    cases hw : cueWaits (withoutQueued s (some port) e) (spanSlot s e) with
    | true => exact (endEpoch_later hw).1
    | false => exact (endEpoch_now hw).1
  obtain ⟨hlost, -, -, -⟩ := loseSpan_spec hv hn hends
  have hports : (loseSpan (some port) e s).fab.ports = s.fab.ports := by rw [hlost]
  cases hw : cueWaits s (spanSlot s e) with
  | true =>
    obtain ⟨hspan, -, -, hsent, htold, hrest⟩ := linkLoss_later (port := port) hv hn hw
    exact ⟨hports, congrArg SpanState.broken hspan, htold, hsent, hrest⟩
  | false =>
    obtain ⟨hspan, -, hsent, htold, hrest⟩ := linkLoss_now (port := port) hv hn hw
    exact ⟨hports, congrArg SpanState.broken hspan, htold, hsent, hrest⟩

theorem portLost_one {port e : Nat} {s : State} (h : spansOn s port = [e]) :
    let t := portLost port s
    (fabPort t port).lost = true ∧ (spanState t e).broken = true
      ∧ Told t s 0x0D (portUnit port) port none [port, fld s (spanKey e 0) 19 0]
      ∧ (∀ q ∈ spanPorts s e, q ≠ port → ∃ j ∈ t.fab.reinQ, j.port = q ∧ j.pkt.fkind = 5)
      ∧ t.objs = s.objs ∧ t.stirs = s.stirs ∧ t.force = s.force := by
  obtain ⟨hv, hn⟩ := mem_spansOn (s := s) (port := port) (e := e) (by simp [h])
  obtain ⟨hports, hrest⟩ := linkLoss_breaks (port := port) (s := setFabPort port { fabPort s port with lost := true } s) hv hn
  have hlost : (Tbl.get FabPort.none (Tbl.set FabPort.none port { fabPort s port with lost := true } s.fab.ports) port).lost = true := by
    rw [Tbl.get_set_self]
    exact fun hx => absurd (congrArg FabPort.lost hx) (by simp [FabPort.none])
  dsimp only
  rw [portLost, h]
  exact ⟨(congrArg (fun l => (Tbl.get FabPort.none l port).lost) hports).trans hlost, hrest⟩

/-- The loss of a port no span uses, of a state that differs from `s` in the fabric alone. -/
theorem portLost_alone {q : Nat} {s u : State} (hu : u = { s with fab := u.fab }) (hx : fabPort u q = fabPort s q)
    (hp : u.fab.ports = s.fab.ports) (h : spansOn u q = []) :
    Told (portLost q u) s 0x0D (portUnit q) q none [q]
      ∧ portLost q u = { s with
          fab := { u.fab with ports := Tbl.set FabPort.none q { fabPort s q with lost := true } s.fab.ports },
          agenda := (portLost q u).agenda, free := (portLost q u).free } := by
  rw [portLost_idle h, ← hx, ← hp]
  obtain ⟨htold, hframe⟩ := report_ofFab (type := 0x0D) (unit := portUnit q) (index := q) (d := [q]) (s := s)
    (u := setFabPort q { fabPort u q with lost := true } u) (by rw [hu]; rfl)
  exact ⟨htold, hframe⟩

/-! ## The optical link (R207, R312) -/

/-- A peer that is reachable again. -/
def reachable (now : Nat) (x : FabPort) : FabPort := { x with lost := false, lastRx := now }

theorem reachable_ne_none {now : Nat} (h : 0 < now) (x : FabPort) : reachable now x ≠ FabPort.none :=
  fun hx => absurd (congrArg FabPort.lastRx hx) (Nat.ne_of_gt h)

/-- Every peer of a list becomes reachable; the other ports stay. -/
theorem foldl_reachable {now : Nat} (hn : 0 < now) (l : List Nat) (s : State) :
    let t := l.foldl (fun a i => setFabPort (8 + i) (reachable now (fabPort a (8 + i))) a) s
    (∀ j, fabPort t (8 + j) = if j ∈ l then reachable now (fabPort s (8 + j)) else fabPort s (8 + j))
      ∧ t = { s with fab := { s.fab with ports := t.fab.ports } } := by
  induction l generalizing s with
  | nil => exact ⟨fun j => by simp, rfl⟩
  | cons i l ih =>
    obtain ⟨hports, hframe⟩ := ih (setFabPort (8 + i) (reachable now (fabPort s (8 + i))) s)
    refine ⟨fun j => ?_, hframe⟩
    have hset : fabPort (setFabPort (8 + i) (reachable now (fabPort s (8 + i))) s) (8 + j)
        = if j = i then reachable now (fabPort s (8 + j)) else fabPort s (8 + j) := by
      by_cases hji : j = i
      · rw [if_pos hji, hji]
        exact Tbl.get_set_self _ _ _ _ (reachable_ne_none hn _)
      · rw [if_neg hji]
        exact Tbl.get_set_ne _ _ _ _ _ (by omega)
    rw [List.foldl_cons, hports, hset]
    by_cases hji : j = i <;> by_cases hjl : j ∈ l <;> simp [hji, hjl, reachable]

/-- Settles O39: each clause by the branch its hypotheses leave; a lost port takes its spans with it. -/
theorem portsAreHeardAndLost : Obligations.PortsAreHeardAndLost := by
  unfold Obligations.PortsAreHeardAndLost
  intro s port i e die hport x put now peers alone
  have ok : ∀ t : State, answer (ports.contains port) t = .next t := fun t => answer_next.mpr ⟨hport, rfl⟩
  refine ⟨fun h => ?_, fun h => ?_, fun h => ?_, fun h => ?_, fun h => ?_, fun h he => ?_, fun h he => ?_, fun hn => ?_, fun h => ?_,
    fun h hp => ?_, fun h hp he => ?_, fun hp => ?_, fun hp he => ?_⟩
  · simp only [exec, execHeartbeat, ok, h, Bool.false_eq_true, if_false]
  · simp only [exec, execHeartbeat, ok, h, if_true]
    rfl
  · simp only [exec, execHeartbeatArrival, ok, h, if_true]
    rfl
  · simp only [exec, execHeartbeatArrival, ok, h, Bool.false_eq_true, if_false]
  · simp only [exec, execPortTimeout, ok, h, Bool.false_eq_true, if_false]
  · simp only [exec, execPortTimeout, ok, h, if_true, completes_next]
    exact portLost_alone rfl rfl rfl he
  · simp only [exec, execPortTimeout, ok, h, if_true, completes_next]
    exact portLost_one he
  · obtain ⟨hports, hframe⟩ := foldl_reachable hn (validPeers s) { s with fab := { s.fab with reinUp := true } }
    refine completes_next.mpr ⟨fun j hj => (hports j).trans (if_pos hj), hframe⟩
  · simp only [exec, execReinUp, reinUp, h, Bool.false_eq_true, if_false]
  · simp only [exec, execReinUp, reinUp, h, hp, Bool.false_eq_true, if_false, if_true, List.foldl_nil]
  · simp only [exec, execReinUp, reinUp, h, hp, Bool.false_eq_true, if_false, if_true, List.foldl_cons, List.foldl_nil, completes_next]
    exact portLost_alone rfl rfl rfl he
  · simp only [exec, execReinUnreach]
    rw [show (validPeers s).filter (fun i => fld s (0x6040 + 4 * i) 15 0 == die.toNat) = [] from hp, List.foldl_nil]
  · simp only [exec, execReinUnreach]
    rw [show (validPeers s).filter (fun i => fld s (0x6040 + 4 * i) 15 0 == die.toNat) = [i] from hp]
    exact completes_next.mpr (portLost_alone rfl rfl rfl he)

end Sys2Proof.Machine

/-! PROOFS. A stale span cue that is the 16th flit a rein peer has had discarded within 1 ms: the peer is cut off, and its span breaks
(Table PAR-7, R208). -/

namespace Sys2Proof.Machine

/-- An engine at work whose entry 127, of slot 511, has the last rein peer as its UP port, with 15 flits of that peer discarded now. -/
def nearlyCut : State :=
  { State.reset with
    boot := { State.reset.boot with inReset := false, reduced := false, stage := 3, firstDone := true },
    parts := [(0, Part.initial .active)],
    force := [(0x607C, 0x8000_0000#32), (spanKey 127 0, 0x9FFF_FFFF#32), (spanKey 127 4, 0xA3E0_0000#32)],
    fab := { State.reset.fab with ports := [(23, { FabPort.none with bads := List.replicate 15 0 })], reinUp := true } }

/-- A cue of that span whose GEN is not that of the open epoch. -/
def otherGenCue : SpanPkt :=
  { fkind := 2, span := 0xFFFFF, gen := 2, opst := 0, vote := 0, beat := 0, count := 0, data := 0, empty := false }

theorem nearlyCut_heard : ports.contains 23 = true ∧ portUp nearlyCut 23 = true ∧ spanFor nearlyCut otherGenCue.span = some 127
    ∧ (spanState nearlyCut 127).broken = false ∧ otherGenCue.gen ≠ (epochOf nearlyCut (spanSlot nearlyCut 127)).setWidth 6 := by
  decide +kernel

/-- The discarded cue ends the epoch of the slot. -/
theorem nearlyCut_ends : epochOf nearlyCut 511 = 0 ∧ epochOf (spanCue 23 otherGenCue 127 nearlyCut) 511 = 1 := by
  decide +kernel

/-- Refutes O37: the 16th flit of a rein peer that is discarded within 1 ms loses the port, so that a stale cue can change the tree: it
ends the open epoch of every span of that port. -/
theorem not_spanPartialsAndCuesReachTheDieRoot : ¬ Obligations.SpanPartialsAndCuesReachTheDieRoot := by
  intro h
  obtain ⟨hport, hup, hfor, hbroken, hgen⟩ := nearlyCut_heard
  obtain ⟨-, -, -, -, hstale, -, -⟩ := h nearlyCut 23 127 otherGenCue hport
  obtain ⟨t, ht, -, htree, -⟩ := hstale ⟨hup, hfor, hbroken⟩ rfl (.inr hgen)
  have hexec : exec (.spanCue 23 otherGenCue true) nearlyCut = .next (spanCue 23 otherGenCue 127 nearlyCut) :=
    spanRowOk_taken (f := spanCue 23) hport rfl ⟨hup, hfor, hbroken⟩
  obtain rfl : spanCue 23 otherGenCue 127 nearlyCut = t := by
    rw [hexec] at ht
    exact Host.Outcome.next.inj ht
  obtain ⟨hbefore, hafter⟩ := nearlyCut_ends
  have hsame : epochOf (spanCue 23 otherGenCue 127 nearlyCut) 511 = epochOf nearlyCut 511 := by
    rw [epochOf, htree, epochOf]
  rw [hbefore, hafter] at hsame
  exact absurd hsame (by decide)

end Sys2Proof.Machine

/-! PROOFS. The house clock: entering a state, the two-way exchange and what its measurement does in each state (R204 to R206). -/

namespace Sys2Proof.Machine

/-! ## The clock's hold on the fabric spans (R206) -/

theorem Breaks.foldl {α : Type} {f : State → α → State} (h : ∀ a x, Breaks (f a x) a) (l : List α) (s : State) : Breaks (l.foldl f s) s := by
  induction l generalizing s with
  | nil => exact .refl s
  | cons x l ih => exact (ih _).trans (h s x)

theorem endEpoch_breaks (slot e : Nat) (s : State) : Breaks (endEpoch slot e s) s := by
  cases hw : cueWaits s slot with
  | true => exact (endEpoch_later hw).1
  | false => exact (endEpoch_now hw).1

theorem loseSpan_breaks (skip : Option Nat) (e : Nat) (s : State) : Breaks (loseSpan skip e s) s := by
  by_cases h : (!spanValid s e || (spanState s e).broken) = true
  · rw [loseSpan, if_pos h]
    exact .refl s
  · simp only [Bool.or_eq_true, Bool.not_eq_true', not_or, Bool.not_eq_false, Bool.not_eq_true] at h
    exact (loseSpan_spec h.1 h.2 (endEpoch_breaks _ _ _)).1

theorem lossReport_breaks (port : Nat) (es : List Nat) (s : State) : Breaks (lossReport port es s) s := rfl

theorem clockLost_breaks (s : State) : Breaks (clockLost s) s := by
  simp only [clockLost]
  split
  · exact .refl s
  · exact (Breaks.foldl (fun a p => lossReport_breaks p _ a) _ _).trans (Breaks.foldl (fun a e => loseSpan_breaks none e a) _ _)

theorem traceTimebase_breaks (s : State) : Breaks (traceTimebase s) s := by
  unfold traceTimebase
  split <;> rfl

/-- House time is of the clock's frame, edge and counts. -/
theorem houseNow_congr {t s : State} (hc : t.clk = s.clk) (hf : t.house.frameStart = s.house.frameStart) (he : t.house.edge = s.house.edge)
    (hn : t.house.n = s.house.n) : houseNow t = houseNow s := by
  simp only [houseNow, houseFine, nOf, hc, hf, he, hn]

/-- A setting of the clock is of the words in force. -/
theorem hcSrc_congr {t s : State} (h : t.force = s.force) : hcSrc t = hcSrc s := by
  simp only [hcSrc, fld, reg, h]

theorem rcBefore_cyc {t s : State} (h : t.cyc = s.cyc) (off : Nat) (old : W32) : (rcBefore off old t).cyc = (rcBefore off old s).cyc := by
  simp only [rcBefore, h]
  split
  · exact h
  · rfl

/-! ## Entering a state (R205) -/

/-- The record of the clock once it has entered a state. -/
def entered (x : HcState) (s : State) : House :=
  { s.house with state := x, holdSince := if x = .holdover then (houseNow s).toNat else s.house.holdSince }

theorem setHc_stays {x : HcState} {s : State} (h : s.house.state = x) : setHc x s = s := if_pos h.symm

/-- The state after the loss of the clock's hold, where it is lost. -/
def holdLost (x : HcState) (s : State) : State :=
  if clockHolds s && !clockHolds { s with house := { s.house with state := x } } then clockLost { s with house := { s.house with state := x } }
  else { s with house := { s.house with state := x } }

theorem holdLost_breaks (x : HcState) (s : State) : Breaks (holdLost x s) { s with house := { s.house with state := x } } := by
  unfold holdLost
  split
  · exact clockLost_breaks _
  · exact .refl _

/-- Entering another state writes it, with the start of a holdover, and may lose the fabric spans. -/
theorem setHc_enters {x : HcState} {s : State} (h : s.house.state ≠ x) :
    (setHc x s).house = entered x s ∧ Breaks (setHc x s) { s with house := (setHc x s).house } := by
  have hl := holdLost_breaks x s
  have heq : setHc x s = traceTimebase
      (if x = .holdover then { holdLost x s with house := { (holdLost x s).house with holdSince := (houseNow s).toNat } } else holdLost x s) := by
    rw [setHc, if_neg (Ne.symm h)]
    rfl
  have hhouse : (setHc x s).house = entered x s := by
    rw [heq, traceTimebase_house, entered, hl]
    split <;> rfl
  refine ⟨hhouse, ?_⟩
  rw [hhouse, heq]
  refine (traceTimebase_breaks _).trans ?_
  unfold entered
  split
  · rw [hl]
    rfl
  · exact hl

/-- The clock holds the spans in LOCKED and HOLDOVER: entering either leaves the tree. -/
theorem setHc_tree {x : HcState} {s : State} (h : x = .locked ∨ x = .holdover) : (setHc x s).tree = s.tree := by
  have hl : holdLost x s = { s with house := { s.house with state := x } } := by
    rcases h with rfl | rfl <;> simp [holdLost, clockHolds]
  have htree : ∀ u : State, (traceTimebase u).tree = u.tree := fun u => by
    unfold traceTimebase
    split <;> rfl
  by_cases hs : x = s.house.state
  · rw [setHc, if_pos hs]
  · have heq : setHc x s = traceTimebase
        (if x = .holdover then { holdLost x s with house := { (holdLost x s).house with holdSince := (houseNow s).toNat } } else holdLost x s) := by
      rw [setHc, if_neg hs]
      rfl
    rw [heq, htree, hl]
    split <;> rfl

theorem setHc_keeps (x : HcState) (s : State) : (setHc x s).objs = s.objs ∧ (setHc x s).stirs = s.stirs ∧ (setHc x s).force = s.force := by
  by_cases h : s.house.state = x
  · rw [setHc_stays h]
    exact ⟨rfl, rfl, rfl⟩
  · rw [(setHc_enters h).2]
    exact ⟨rfl, rfl, rfl⟩

/-! ## The exchange (R204) -/

section exchange
variable {s : State}

theorem houseExchange_other (h : hcSrc s ≠ 2) : houseExchange s = s := if_pos h

/-- The state in which a new exchange starts. -/
def exchangeBegun (u : State) (now : Nat) : State :=
  { u with house := { u.house with exch := none, exchOn := true, lastExch := now } }

theorem houseExchange_eq (h : hcSrc s = 2) : houseExchange s =
    let u := exchangeBegun (if s.house.exchOn then missed s else s) (houseNow s).toNat
    if portUp u (8 + hcPeer u) then queueOut (8 + hcPeer u) (exchangePkt 1 0 0 0) u else u :=
  if_neg (by simp [h])

/-- An exchange that nothing is missing before. -/
theorem houseExchange_plain (h : hcSrc s = 2) (hm : s.house.exchOn = false ∨ s.house.state ≠ .locked) : houseExchange s =
    if portUp s (8 + hcPeer s) then queueOut (8 + hcPeer s) (exchangePkt 1 0 0 0) (exchangeBegun s (houseNow s).toNat)
    else exchangeBegun s (houseNow s).toNat := by
  have hu : (if s.house.exchOn then missed s else s) = s := by
    rcases hm with hm | hm <;> simp [hm, missed]
  rw [houseExchange_eq h, hu]
  rfl

theorem queueOut_frame (port : Nat) (pkt : SpanPkt) (u : State) :
    queueOut port pkt u = { u with fab := (queueOut port pkt u).fab } := rfl

theorem houseExchange_missed (h : hcSrc s = 2) (ho : s.house.exchOn = true) (hs : s.house.state = .locked) :
    (houseExchange s).house = { s.house with exch := none, exchOn := true, lastExch := (houseNow s).toNat, state := .holdover, holdSince := (houseNow s).toNat }
      ∧ (houseExchange s).objs = s.objs ∧ (houseExchange s).stirs = s.stirs ∧ (houseExchange s).tree = s.tree := by
  have hu : (if s.house.exchOn then missed s else s) = setHc .holdover s := by simp [ho, missed, hs]
  obtain ⟨hhouse, -⟩ := setHc_enters (x := .holdover) (s := s) (by simp [hs])
  obtain ⟨hobjs, hstirs, -⟩ := setHc_keeps .holdover s
  have htree := setHc_tree (x := .holdover) (s := s) (.inr rfl)
  have hbegun : (exchangeBegun (setHc .holdover s) (houseNow s).toNat).house
      = { s.house with exch := none, exchOn := true, lastExch := (houseNow s).toNat, state := .holdover, holdSince := (houseNow s).toNat } := by
    rw [exchangeBegun, hhouse]
    rfl
  rw [houseExchange_eq h, hu]
  dsimp only
  split
  · rw [queueOut_frame]
    exact ⟨hbegun, hobjs, hstirs, htree⟩
  · exact ⟨hbegun, hobjs, hstirs, htree⟩

end exchange

/-! ## The measurement (R204, R205) -/

/-- The clock's record once a measurement of `o` has set OFFSET. -/
def tookHouse (o : Int) (s : State) : House :=
  { s.house with offset := saturate16 (o / 128), exch := none, exchOn := false, lastExch := (houseNow s).toNat }

/-- And once the correction that it calls for is to be slewed. -/
def slewedHouse (o : Int) (s : State) : House :=
  { s.house with offset := saturate16 (o / 128), exch := none, exchOn := false, lastExch := (houseNow s).toNat, slew := -(o / 128) }

section measurement
variable {o : Int} {s : State}

theorem measured_free (h : s.house.state = .free) : measured o s = { s with house := tookHouse o s } := by
  simp only [measured, tookHouse, h]

theorem measured_locking (h : s.house.state = .locking) : measured o s = lockingStep o { s with house := tookHouse o s } := by
  simp only [measured, tookHouse, h]

theorem measured_locked (h : s.house.state = .locked) (hn : o.natAbs ≤ 8 * 128) : measured o s = { s with house := slewedHouse o s } := by
  have h8 : ¬ 8 * 128 < iabs o := Nat.not_lt.mpr hn
  have h32 : ¬ 32 * 128 < iabs o := fun hf => h8 (Nat.lt_of_le_of_lt (by decide) hf)
  simp only [measured, slewedHouse, h, if_neg h8, if_neg h32]

/-- An excursion is counted (R17, R205). -/
def excursion (o : Int) (s : State) : State :=
  { s with
    house := { s.house with offset := saturate16 (o / 128), exch := none, exchOn := false, lastExch := (houseNow s).toNat,
                            slew := -(o / 128), excur := s.house.excur + 1 },
    cyc := (rcBefore 0x011C s.house.excur s).cyc }

/-- An excursion that relocks: the state in which LOCKING is entered. -/
def relocking (o : Int) (s : State) : State :=
  { s with
    house := { s.house with offset := saturate16 (o / 128), exch := none, exchOn := false, lastExch := (houseNow s).toNat,
                            slew := -(o / 128), excur := s.house.excur + 1, good := 0 },
    cyc := (rcBefore 0x011C s.house.excur s).cyc }

theorem rcBefore_excursion (o : Int) (s : State) :
    rcBefore 0x011C s.house.excur { s with house := { slewedHouse o s with excur := s.house.excur + 1 } } = excursion o s := by
  rw [rcBefore_frame, rcBefore_cyc (s := s) (by rfl)]
  simp only [excursion, slewedHouse]

theorem measured_excursion (h : s.house.state = .locked) (hf : 8 * 128 < o.natAbs) :
    measured o s = if 32 * 128 < o.natAbs then houseRecord 5 (setHc .locking (relocking o s)) else excursion o s := by
  have h8 : 8 * 128 < iabs o := hf
  have hgood : { excursion o s with house := { (excursion o s).house with good := 0 } } = relocking o s := by
    simp only [relocking, excursion]
  rw [← hgood, ← rcBefore_excursion]
  simp only [measured, slewedHouse, h, if_pos h8]
  rfl

theorem lockingStep_slews (h : o.natAbs ≤ 1024 * 128) : lockingStep o s =
    let g := if o.natAbs ≤ 4 * 128 then s.house.good + 1 else 0
    let u := { s with house := { s.house with good := g, slew := -(o / 128) } }
    if 16 ≤ g then setHc .locked u else u := by
  have hn : ¬ 1024 * 128 < iabs o := Nat.not_lt.mpr h
  simp only [lockingStep, if_neg hn]
  rfl

theorem lockingStep_steps (h : 1024 * 128 < o.natAbs) (ha : s.house.announced = []) : lockingStep o s = { s with
    house := { s.house with good := 0, slew := 0, tell := true, announced :=
      [{ frame := s.house.frameNo + 65, slew := 0, step := some (s.house.frameStart + BitVec.ofInt 64 (128 * 65 - o / 128)) }] } } := by
  have hp : 1024 * 128 < iabs o := h
  simp only [lockingStep, if_pos hp, ha, List.any_nil, Bool.false_eq_true, if_false, List.nil_append]

end measurement

/-- A record of the clock after it has entered a state: it tells the state and the offset it then has. -/
theorem houseRecord_entered {x : HcState} {cause : Nat} {s u : State} (h : u.house.state ≠ x) (hn : houseNow u = houseNow s) :
    let t := houseRecord cause (setHc x u)
    t.house = entered x u ∧ Told t s 0x07 13 0 none [hcCode (hcReported t), u.house.offset.toNat, cause]
      ∧ t.objs = u.objs ∧ t.stirs = u.stirs := by
  obtain ⟨hhouse, hbreaks⟩ := setHc_enters h
  obtain ⟨hobjs, hstirs, -⟩ := setHc_keeps x u
  have hnow : houseNow (setHc x u) = houseNow s := by
    rw [hbreaks.houseNow, hhouse, ← hn]
    rfl
  refine ⟨hhouse, ?_, hobjs, hstirs⟩
  have ht : Told (houseRecord cause (setHc x u)) (setHc x u) 0x07 13 0 none
      [hcCode (hcReported (houseRecord cause (setHc x u))), (setHc x u).house.offset.toNat, cause] := report_told _ _ _ _ _ (setHc x u)
  rw [hhouse] at ht
  simp only [Told, hnow] at ht
  exact ht

section outcomes
variable {o : Int} {s : State}

theorem measured_counts (h : s.house.state = .locked) (hf : 8 * 128 < o.natAbs) (hn : o.natAbs ≤ 32 * 128) : measured o s = excursion o s :=
  (measured_excursion h hf).trans (if_neg (Nat.not_lt.mpr hn))

theorem setHc_entered {x : HcState} (hx : x ≠ .holdover) (h : s.house.state ≠ x) :
    (setHc x s).house = { s.house with state := x } ∧ (setHc x s).objs = s.objs ∧ (setHc x s).stirs = s.stirs := by
  obtain ⟨hobjs, hstirs, -⟩ := setHc_keeps x s
  refine ⟨(setHc_enters h).1.trans ?_, hobjs, hstirs⟩
  rw [entered, if_neg hx]

theorem relocking_edge : (relocking o s).clk = s.clk ∧ (relocking o s).house.frameStart = s.house.frameStart
    ∧ (relocking o s).house.edge = s.house.edge ∧ (relocking o s).house.n = s.house.n := ⟨rfl, rfl, rfl, rfl⟩

theorem houseNow_relocking : houseNow (relocking o s) = houseNow s := by
  obtain ⟨hc, hf, he, hn⟩ := relocking_edge (o := o) (s := s)
  exact houseNow_congr hc hf he hn

/-- A clock that follows its peer reports the state it is in. -/
theorem hcReported_sourced (h : hcSrc s ≠ 0) : hcReported s = s.house.state := if_neg fun hx => h hx.1

theorem measured_relocks (h : s.house.state = .locked) (hf : 32 * 128 < o.natAbs) (hsrc : hcSrc s = 2) :
    (measured o s).house = { slewedHouse o s with excur := s.house.excur + 1, good := 0, state := .locking }
      ∧ Told (measured o s) s 0x07 13 0 none [1, (saturate16 (o / 128)).toNat, 5]
      ∧ (measured o s).objs = s.objs ∧ (measured o s).stirs = s.stirs := by
  have hne : (relocking o s).house.state ≠ .locking := by
    show s.house.state ≠ .locking
    simp [h]
  have hmeas : measured o s = houseRecord 5 (setHc .locking (relocking o s)) :=
    (measured_excursion h (Nat.lt_trans (by decide) hf)).trans (if_pos hf)
  obtain ⟨hhouse, hobjs, hstirs⟩ := setHc_entered (x := .locking) (by decide) hne
  obtain ⟨-, htold, -⟩ := houseRecord_entered (cause := 5) (s := s) hne houseNow_relocking
  have hsrc' : hcSrc (houseRecord 5 (setHc .locking (relocking o s))) ≠ 0 := by
    obtain ⟨-, -, hforce⟩ := setHc_keeps .locking (relocking o s)
    have hsame : hcSrc (houseRecord 5 (setHc .locking (relocking o s))) = hcSrc s := hcSrc_congr hforce
    simp [hsame, hsrc]
  have hcode : hcCode (hcReported (houseRecord 5 (setHc .locking (relocking o s)))) = 1 := by
    rw [hcReported_sourced hsrc']
    exact congrArg (fun h => hcCode h.state) hhouse
  rw [hcode] at htold
  rw [hmeas]
  exact ⟨hhouse, htold, hobjs, hstirs⟩

theorem measured_good (h : s.house.state = .locking) (hn : o.natAbs ≤ 4 * 128) (hg : s.house.good < 15) :
    measured o s = { s with house := { slewedHouse o s with good := s.house.good + 1 } } := by
  rw [measured_locking h, lockingStep_slews (Nat.le_trans hn (by decide))]
  simp only [if_pos hn]
  exact if_neg (by show ¬ 16 ≤ s.house.good + 1; omega)

theorem measured_locks (h : s.house.state = .locking) (hn : o.natAbs ≤ 4 * 128) (hg : 15 ≤ s.house.good) :
    (measured o s).house = { slewedHouse o s with good := s.house.good + 1, state := .locked }
      ∧ (measured o s).tree = s.tree ∧ (measured o s).objs = s.objs ∧ (measured o s).stirs = s.stirs := by
  have heq : measured o s = setHc .locked { s with house := { slewedHouse o s with good := s.house.good + 1 } } := by
    rw [measured_locking h, lockingStep_slews (Nat.le_trans hn (by decide))]
    simp only [if_pos hn]
    exact if_pos (by show 16 ≤ s.house.good + 1; omega)
  obtain ⟨hhouse, hkeeps⟩ := setHc_entered (x := .locked) (s := { s with house := { slewedHouse o s with good := s.house.good + 1 } })
    (by decide) (by show s.house.state ≠ .locked; simp [h])
  rw [heq]
  exact ⟨hhouse, setHc_tree (.inl rfl), hkeeps⟩

theorem measured_bad (h : s.house.state = .locking) (hf : 4 * 128 < o.natAbs) (hn : o.natAbs ≤ 1024 * 128) :
    measured o s = { s with house := { slewedHouse o s with good := 0 } } := by
  rw [measured_locking h, lockingStep_slews hn]
  simp only [if_neg (Nat.not_le.mpr hf)]
  exact if_neg (by decide)

theorem measured_jumps (h : s.house.state = .locking) (hf : 1024 * 128 < o.natAbs) (ha : s.house.announced = []) :
    measured o s = { s with house := { tookHouse o s with good := 0, slew := 0, tell := true, announced :=
      [{ frame := s.house.frameNo + 65, slew := 0, step := some (s.house.frameStart + BitVec.ofInt 64 (128 * 65 - o / 128)) }] } } := by
  rw [measured_locking h]
  exact lockingStep_steps hf ha

/-- Out of HOLDOVER a good measurement locks, any other locks again (R205). -/
theorem measured_holdover (h : s.house.state = .holdover) :
    (o.natAbs ≤ 8 * 128 → (measured o s).house = { slewedHouse o s with state := .locked }
      ∧ (measured o s).objs = s.objs ∧ (measured o s).stirs = s.stirs)
    ∧ (8 * 128 < o.natAbs → (measured o s).house = { slewedHouse o s with good := 0, state := .locking }
      ∧ (measured o s).objs = s.objs ∧ (measured o s).stirs = s.stirs) := by
  have heq : measured o s = if o.natAbs ≤ 8 * 128 then setHc .locked { s with house := slewedHouse o s }
      else setHc .locking { s with house := { slewedHouse o s with good := 0 } } := by
    simp only [measured, slewedHouse, h]
    rfl
  refine ⟨fun hn => ?_, fun hf => ?_⟩
  · rw [heq.trans (if_pos hn)]
    exact setHc_entered (by decide) (by show s.house.state ≠ .locked; simp [h])
  · rw [heq.trans (if_neg (Nat.not_le.mpr hf))]
    exact setHc_entered (by decide) (by show s.house.state ≠ .locking; simp [h])

end outcomes

/-! ## What the rein's exchange brings (R204) -/

theorem noteRx_frame (port n : Nat) (s : State) : noteRx port n s = { s with fab := (noteRx port n s).fab } := rfl

section reply
variable {port : Nat} {t1 t2 t3 : W64} {s : State}

theorem exchangeReply_down (h : portUp s port = false) (asPeer : Bool) : exchangeReply port t1 t2 t3 asPeer s = s := by
  simp [exchangeReply, h]

theorem exchangeReply_peer (h : portUp s port = true) :
    exchangeReply port t1 t2 t3 true s = queueOut port (exchangePkt 2 t1 (BitVec.ofNat 64 (houseFine s)) 0) (noteRx port 1 s) := by
  simp only [exchangeReply, h, Bool.not_true, Bool.false_eq_true, if_false, if_true]

theorem exchangeReply_other (h : portUp s port = true) (hn : hcSrc s ≠ 2 ∨ port ≠ 8 + hcPeer s ∨ s.house.exch ≠ some t1) :
    exchangeReply port t1 t2 t3 false s = noteRx port 1 s := by
  simp only [exchangeReply, h, Bool.not_true, Bool.false_eq_true, if_false]
  exact if_pos (hn.imp_right (Or.imp_left Ne.symm))

theorem exchangeReply_measured (h : portUp s port = true ∧ hcSrc s = 2 ∧ port = 8 + hcPeer s ∧ s.house.exch = some t1) :
    exchangeReply port t1 t2 t3 false s
      = measured (offsetOf (reg s 0x0118) t1 t2 t3 (BitVec.ofNat 64 (houseFine s))) { s with fab := (noteRx port 1 s).fab } := by
  obtain ⟨hu, hsrc, hport, hexch⟩ := h
  rw [← noteRx_frame]
  simp only [exchangeReply, hu, Bool.not_true, Bool.false_eq_true, if_false]
  exact if_neg (by simp [hsrc, ← hport, hexch])

end reply

/-- Settles O42: the exchange starts or is missed; a measurement does what its state and size call for; a holdover ends at its limit. -/
theorem houseTimeIsMeasured : Obligations.HouseTimeIsMeasured := by
  unfold Obligations.HouseTimeIsMeasured
  intro s port t1 t2 t3 hlo hhi h now fine o size heard queued master began measure took slewed jump reply
  have hex : ∀ b : Bool, exec (.exchangeReply port t1 t2 t3 b) s = .next (exchangeReply port t1 t2 t3 b s) := fun b =>
    answer_next.mpr ⟨decide_eq_true ⟨hlo, hhi⟩, rfl⟩
  have hmeas : measure → reply = .next (measured o { s with fab := heard }) := fun hm => (hex false).trans (congrArg _ (exchangeReply_measured hm))
  have hn : houseNow { s with fab := heard } = houseNow s := rfl
  refine ⟨fun h2 => ?_, fun h2 ho hu => ?_, fun h2 ho hu => ?_, fun h2 ho hs => ?_, fun hu => ⟨?_, ?_⟩, fun hu => ?_, fun hu hq => ?_,
    fun hm hs => ?_, fun hm hs hz => ?_, fun hm hs hz hw => ?_, fun hm hs hz => ?_, fun hm hs hz hg => ?_, fun hm hs hz hg => ?_,
    fun hm hs hz hw => ?_, fun hm hs hz ha => ?_, fun hm hs hz => ?_, fun hm hs hz => ?_, fun hl => ?_, fun hl => ?_⟩
  · exact congrArg Host.Outcome.next (houseExchange_other h2)
  · refine congrArg Host.Outcome.next ((houseExchange_plain h2 (.inl ho)).trans ?_)
    rw [if_pos hu]
    rfl
  · refine congrArg Host.Outcome.next ((houseExchange_plain h2 ho).trans ?_)
    rw [if_neg (by simpa using hu)]
    rfl
  · exact completes_next.mpr (houseExchange_missed h2 ho hs)
  · exact (hex true).trans (congrArg _ (exchangeReply_down hu true))
  · exact (hex false).trans (congrArg _ (exchangeReply_down hu false))
  · exact (hex true).trans (congrArg _ (exchangeReply_peer hu))
  · exact (hex false).trans (congrArg _ (exchangeReply_other hu hq))
  · exact (hmeas hm).trans (congrArg _ (measured_free hs))
  · exact (hmeas hm).trans (congrArg _ (measured_locked hs hz))
  · rw [hmeas hm, measured_counts (s := { s with fab := heard }) hs hz hw, excursion, rcBefore_cyc (t := { s with fab := heard }) (s := s) rfl]
    rfl
  · obtain ⟨hu, hsrc, hport, hexch⟩ := id hm
    obtain ⟨hhouse, htold, hkeeps⟩ := measured_relocks (o := o) (s := { s with fab := heard }) hs hz hsrc
    rw [hmeas hm, completes_next]
    exact ⟨hhouse, Told.of_houseNow htold hn, hkeeps⟩
  · exact (hmeas hm).trans (congrArg _ (measured_good (s := { s with fab := heard }) hs hz hg))
  · obtain ⟨hhouse, htree, hkeeps⟩ := measured_locks (o := o) (s := { s with fab := heard }) hs hz hg
    rw [hmeas hm, completes_next]
    exact ⟨hhouse, hkeeps.1, hkeeps.2, htree⟩
  · exact (hmeas hm).trans (congrArg _ (measured_bad (s := { s with fab := heard }) hs hz hw))
  · exact (hmeas hm).trans (congrArg _ (measured_jumps (s := { s with fab := heard }) hs hz ha))
  · obtain ⟨hhouse, hobjs, hstirs⟩ := (measured_holdover (o := o) (s := { s with fab := heard }) hs).1 hz
    rw [hmeas hm, completes_next]
    exact ⟨hhouse, hobjs, hstirs⟩
  · obtain ⟨hhouse, hobjs, hstirs⟩ := (measured_holdover (o := o) (s := { s with fab := heard }) hs).2 hz
    rw [hmeas hm, completes_next]
    exact ⟨hhouse, hobjs, hstirs⟩
  · exact congrArg Host.Outcome.next (if_neg (by simp [hl]))
  · have hne : s.house.state ≠ .free := by
      simp only [limitPassed, Bool.and_eq_true, beq_iff_eq] at hl
      simp [hl.1]
    obtain ⟨hhouse, htold, hkeeps⟩ := houseRecord_entered (cause := 6) (s := s) hne rfl
    simp only [exec, execHoldoverLimit, hl, if_true, completes_next]
    exact ⟨hhouse, htold, hkeeps⟩

end Sys2Proof.Machine

/-! PROOFS. House frames (R31, R138, R203) and the HOUSE packets of the tug that the clock follows (R202). -/

namespace Sys2Proof.Machine

/-! ## A frame begins -/

theorem frameZero_eq (edges : Nat) (s : State) : frameZero edges s = { s with
    house := { s.house with frameStart := 0, href := 0, lead := 1, fresh := true, len := edges,
                            unstable := decide (edges < 20) || decide (48 < edges) },
    clk := retune (if 20 ≤ edges ∧ edges ≤ 48 then edges else s.clk.mult) 0 s.clk } := by
  simp only [frameZero, unstableFrame, Bool.or_false]

/-- The records and corrections of a frame's first edge: of the clock only the correction under way differs, and what is due stays. -/
structure FrameTells (t s : State) : Prop where
  frame : t = { s with house := { s.house with slew := t.house.slew, tell := t.house.tell, announced := t.house.announced },
                       fab := t.fab, agenda := t.agenda, free := t.free }
  due : s.agenda ⊆ t.agenda

theorem FrameTells.refl (s : State) : FrameTells s s := ⟨rfl, List.Subset.refl _⟩

theorem FrameTells.trans {u t s : State} (h : FrameTells u t) (g : FrameTells t s) : FrameTells u s := by
  refine ⟨?_, List.Subset.trans g.due h.due⟩
  rw [h.frame, g.frame]

theorem FrameTells.houseNow {t s : State} (h : FrameTells t s) : houseNow t = houseNow s := by
  rw [h.frame]
  rfl

/-- A record on its way stays on its way. -/
theorem FrameTells.told {t s : State} (h : FrameTells t s) {type unit index : Nat} {p : Option Nat} {d : List Nat}
    (ht : Told s s type unit index p d) : Told t t type unit index p d := by
  obtain ⟨due, hdue⟩ := ht
  exact ⟨due, by rw [h.houseNow]; exact h.due hdue⟩

theorem report_tells (type unit index : Nat) (p : Option Nat) (d : List Nat) (s : State) :
    FrameTells (report type unit index p d s) s := ⟨rfl, List.subset_append_left _ _⟩

theorem retrainTugs_tells (s : State) : FrameTells (retrainTugs s) s := by
  unfold retrainTugs
  generalize List.range 4 = l
  induction l generalizing s with
  | nil => exact .refl s
  | cons p l ih => exact (ih _).trans ⟨rfl, List.Subset.refl _⟩

theorem nextSlew_tells (s : State) : FrameTells (nextSlew s) s := by
  simp only [nextSlew]
  split
  · exact .refl s
  · exact ⟨rfl, List.Subset.refl _⟩

/-- The state once a frame has begun, before its records and corrections. -/
def frameBegun (edges : Nat) (href : W64) (s : State) : State :=
  let h := s.house
  let c := edgesMade h
  let was := unstableFrame (countBefore h) c
  let now := h.frameNo + 1
  let bad := unstableFrame (some c) edges
  let runs := if was = h.unstable then h.runs else noteRun (HouseRun.mk h.frameStart (s.clk.tclk + 1 - c) (nOf s) was) h.runs
  let mult := if 20 ≤ edges ∧ edges ≤ 48 then edges else s.clk.mult
  { s with
    clk := retune mult (if h.len = 0 ∧ h.fresh then 128 * s.clk.mult else 0) s.clk,
    house := { h with
      frameStart := nextStart s, edge := 0, fresh := true, n := c, len := edges, unstable := bad, badLast := was, frameNo := now, adopt := none,
      nStat := if was then h.nStat else c, href := href, hrefCyc := 0, ticks := frameTicks s h.frameNo,
      runs := noteRun (HouseRun.mk (nextStart s) (s.clk.tclk + 1) (if edges = 0 then 0 else if c = 0 then mult else c) bad) runs,
      announced := h.announced.filter fun a => now < a.frame || (a.frame == now && a.step.isNone) } }

/-- The first record of a frame: the frame before was unstable. -/
def toldUnstable (edges : Nat) (href : W64) (s : State) : State :=
  if unstableFrame (countBefore s.house) (edgesMade s.house) then houseRecord 1 (frameBegun edges href s) else frameBegun edges href s

/-- The second: the counter does not read the start that is due. -/
def toldStart (edges : Nat) (href : W64) (s : State) : State :=
  if nextStart s = href then toldUnstable edges href s else houseRecord 2 (toldUnstable edges href s)

theorem nextFrame_eq (edges : Nat) (href : W64) (s : State) : nextFrame edges href s =
    nextSlew (if edgesMade s.house = edges ∨ edgesMade s.house = 0 then toldStart edges href s else retrainTugs (toldStart edges href s)) := rfl

theorem toldUnstable_tells (edges : Nat) (href : W64) (s : State) : FrameTells (toldUnstable edges href s) (frameBegun edges href s) := by
  unfold toldUnstable
  split
  · exact report_tells _ _ _ _ _ _
  · exact .refl _

theorem toldStart_tells (edges : Nat) (href : W64) (s : State) : FrameTells (toldStart edges href s) (toldUnstable edges href s) := by
  unfold toldStart
  split
  · exact .refl _
  · exact report_tells _ _ _ _ _ _

theorem nextFrame_tells (edges : Nat) (href : W64) (s : State) : FrameTells (nextFrame edges href s) (toldStart edges href s) := by
  rw [nextFrame_eq]
  refine (nextSlew_tells _).trans ?_
  split
  · exact .refl _
  · exact retrainTugs_tells _

theorem nextFrame_begun (edges : Nat) (href : W64) (s : State) : FrameTells (nextFrame edges href s) (frameBegun edges href s) :=
  (nextFrame_tells edges href s).trans ((toldStart_tells edges href s).trans (toldUnstable_tells edges href s))

/-- A record of the clock tells the state and the offset. -/
theorem houseRecord_told (cause : Nat) (s : State) :
    Told (houseRecord cause s) (houseRecord cause s) 0x07 13 0 none [hcCode (hcReported s), s.house.offset.toNat, cause] :=
  Told.of_houseNow (report_told _ _ _ _ _ s) rfl

theorem nextFrame_unstable {edges : Nat} {href : W64} {s : State}
    (h : unstableFrame (countBefore s.house) (edgesMade s.house) = true) :
    Told (nextFrame edges href s) (nextFrame edges href s) 0x07 13 0 none [hcCode (hcReported s), s.house.offset.toNat, 1] := by
  refine (nextFrame_tells edges href s).told ((toldStart_tells edges href s).told ?_)
  rw [toldUnstable, if_pos h]
  exact houseRecord_told 1 (frameBegun edges href s)

theorem nextFrame_offTime {edges : Nat} {href : W64} {s : State} (h : nextStart s ≠ href) :
    Told (nextFrame edges href s) (nextFrame edges href s) 0x07 13 0 none [hcCode (hcReported s), s.house.offset.toNat, 2] := by
  refine (nextFrame_tells edges href s).told ?_
  rw [toldStart, if_neg h]
  have ht := houseRecord_told 2 (toldUnstable edges href s)
  have hcode : hcReported (toldUnstable edges href s) = hcReported s := by
    rw [(toldUnstable_tells edges href s).frame]
    rfl
  have hoffset : (toldUnstable edges href s).house.offset = s.house.offset := by
    rw [(toldUnstable_tells edges href s).frame]
    rfl
  rwa [hcode, hoffset] at ht

/-! ## HOUSE from the tug that the clock follows (R202, R203) -/

/-- The state in which a HOUSE packet's time is compared: its tug has been heard. -/
def houseHeard (port : Nat) (s : State) : State :=
  { noteRx port 1 s with house := { s.house with lastExch := (houseNow s).toNat } }

/-- The HREF edge, counted from the present frame's start, at which a HOUSE packet of the tug left. -/
def carriedEdge (port : Nat) (s : State) : Int :=
  nearestHref (max 1 s.house.len) ((s.house.edge : Int) - ((fabPort s port).transit : Int))

/-- The time it carries, at the end of the present frame. -/
def carriedTime (port : Nat) (start : W64) (s : State) : W64 := start + BitVec.ofInt 64 (ticksToEnd s (carriedEdge port s / 5))

section house
variable {port : Nat} {start value : W64} {st kind : BitVec 2} {frame : Nat} {s : State}

theorem housePacket_down (h : portUp s port = false) : housePacket port start st kind value frame s = s := by simp [housePacket, h]

theorem housePacket_other (h : portUp s port = true) (hn : hcSrc s ≠ 1 ∨ hcTug s ≠ port) :
    housePacket port start st kind value frame s = noteRx port 1 s := by
  simp only [housePacket, h, Bool.not_true, Bool.false_eq_true, if_false]
  exact if_pos hn

variable (h : port < 4 ∧ portUp s port = true ∧ hcSrc s = 1 ∧ hcTug s = port)
include h

theorem housePacket_heard : housePacket port start st kind value frame s =
    announce kind.toNat value frame (setHc (hcOf st) (adoptTime port start (houseHeard port s))) := by
  obtain ⟨-, hu, hsrc, htug⟩ := h
  simp only [housePacket, hu, Bool.not_true, Bool.false_eq_true, if_false]
  exact if_neg (by simp [hsrc, htug])

/-- The tug's record, in use, keeps its transit as it is heard. -/
theorem fabPort_heard : (fabPort (houseHeard port s) port).transit = (fabPort s port).transit := by
  obtain ⟨hlt, hu, -, -⟩ := h
  have hup : (fabPort s port).up = true := by
    simp only [portUp, hlt, if_true, Bool.and_eq_true] at hu
    exact hu.1
  have hget : fabPort (houseHeard port s) port = restartedPort port s :=
    Tbl.get_set_self _ _ _ _ fun hx => Bool.noConfusion ((congrArg FabPort.up hx).symm.trans hup)
  rw [hget]
  rfl

/-- Where the frames coincide the carried time is compared with the one that is due. -/
theorem adoptTime_frames (hk : carriedEdge port s % 5 = 0) : adoptTime port start (houseHeard port s) =
    if carriedTime port start s = s.house.frameStart + BitVec.ofInt 64 (frameTicks s s.house.frameNo) then houseHeard port s
    else houseRecord 3 { houseHeard port s with
      house := { s.house with lastExch := (houseNow s).toNat, adopt := some (carriedTime port start s) } } := by
  have hedge : nearestHref (max 1 (houseHeard port s).house.len)
      (((houseHeard port s).house.edge : Int) - ((fabPort (houseHeard port s) port).transit : Int)) = carriedEdge port s := by
    rw [fabPort_heard h]
    rfl
  simp only [adoptTime, hedge, if_pos hk]
  rfl

omit h in
/-- Whatever it adopts, the clock keeps its state, its frame and its corrections. -/
theorem adoptTime_keeps (u : State) :
    let t := adoptTime port start u
    t.house.state = u.house.state ∧ t.house.lastExch = u.house.lastExch ∧ t.house.frameNo = u.house.frameNo
      ∧ t.objs = u.objs ∧ t.stirs = u.stirs := by
  simp only [adoptTime]
  split
  · split <;> exact ⟨rfl, rfl, rfl, rfl, rfl⟩
  · exact ⟨rfl, rfl, rfl, rfl, rfl⟩

/-- The state once the time and the state of a HOUSE packet are taken. -/
def stateTaken (port : Nat) (start : W64) (st : BitVec 2) (s : State) : State :=
  setHc (hcOf st) (adoptTime port start (houseHeard port s))

omit h in
theorem setHc_state (x : HcState) (u : State) : (setHc x u).house.state = x := by rw [setHc_house]

omit h in
theorem stateTaken_keeps :
    let t := stateTaken port start st s
    t.house.state = hcOf st ∧ t.house.lastExch = (houseNow s).toNat ∧ t.house.frameNo = s.house.frameNo
      ∧ t.objs = s.objs ∧ t.stirs = s.stirs := by
  obtain ⟨-, hlast, hframe, hobjs, hstirs⟩ := adoptTime_keeps (port := port) (start := start) (houseHeard port s)
  obtain ⟨hobjs', hstirs', -⟩ := setHc_keeps (hcOf st) (adoptTime port start (houseHeard port s))
  have hhouse := setHc_house (hcOf st) (adoptTime port start (houseHeard port s))
  exact ⟨setHc_state _ _, (congrArg House.lastExch hhouse).trans hlast, (congrArg House.frameNo hhouse).trans hframe,
    hobjs'.trans hobjs, hstirs'.trans hstirs⟩

end house

/-- The correction that a HOUSE packet announces: a slew of kind 1, or a step. -/
def correction (k : Nat) (value : W64) (f : Nat) : Announce :=
  if k = 1 then { frame := f, slew := if value.msb then -1 else 1, step := none } else { frame := f, slew := 0, step := some value }

/-- A correction announced for a frame ahead stands among those announced. -/
theorem announce_mem {k frame : Nat} {value : W64} {u : State} (hk : k = 1 ∨ k = 2) (hf : frame ≠ 0) :
    (announce k value frame u).house.state = u.house.state
      ∧ correction k value (u.house.frameNo + frame) ∈ (announce k value frame u).house.announced := by
  have hn : ¬ (k = 0 ∨ 3 ≤ k) := by omega
  have heq : announce k value frame u = if u.house.announced.contains (correction k value (u.house.frameNo + frame)) then u
      else { u with house := { u.house with
        tell := true, announced := u.house.announced ++ [correction k value (u.house.frameNo + frame)] } } := by
    simp only [announce, if_neg hn, if_neg hf]
    rfl
  rw [heq]
  split
  · next hc => exact ⟨rfl, by simpa using hc⟩
  · exact ⟨rfl, List.mem_append_right _ (List.mem_singleton_self _)⟩

/-- Settles O41: a frame's start, records and corrections; the tug that the clock follows, its time and its announcements. -/
theorem houseFramesBegin : Obligations.HouseFramesBegin := by
  unfold Obligations.HouseFramesBegin
  intro s edges port href start value st kind frame h c was mult heard ours k plain carried slew step_
  have hex : ∀ kind : BitVec 2, port < 4 → exec (.house port start st kind value frame) s = .next (housePacket port start st kind value frame s) :=
    fun kind hp => answer_next.mpr ⟨decide_eq_true hp, rfl⟩
  have htake : ∀ kind : BitVec 2, ours → exec (.house port start st kind value frame) s
      = .next (announce kind.toNat value frame (stateTaken port start st s)) :=
    fun kind ho => (hex kind ho.1).trans (congrArg _ (housePacket_heard ho))
  have htimed : hcOf st = h.state → ours → exec (.house port start st 0 value frame) s = .next (adoptTime port start (houseHeard port s)) := by
    intro hs ho
    obtain ⟨hstate, -⟩ := adoptTime_keeps (port := port) (start := start) (houseHeard port s)
    rw [htake 0 ho]
    exact congrArg Host.Outcome.next (setHc_stays (hstate.trans hs.symm))
  refine ⟨fun hl => ?_, fun hl => ?_, fun hp hu => ?_, fun hp hu hn => ?_, fun ho hs hk ht => ?_, fun ho hs hk ht => ?_, fun ho => ?_,
    fun ho hf => ?_, fun ho hf => ?_⟩
  · refine congrArg Host.Outcome.next ((if_neg hl).trans (frameZero_eq edges s))
  · have hframe : houseFrame edges href s = nextFrame edges href s := if_pos hl
    have hbegun := (nextFrame_begun edges href s).frame
    refine completes_next.mpr ?_
    rw [hframe]
    refine ⟨?_, ?_, ?_, ?_, ?_, ?_, ?_, ?_, ?_, ?_, ?_, nextFrame_unstable, nextFrame_offTime, ?_⟩
    all_goals
      rw [hbegun]
      rfl
  · exact (hex kind hp).trans (congrArg _ (housePacket_down hu))
  · exact (hex kind hp).trans (congrArg _ (housePacket_other hu hn))
  · exact (htimed hs.symm ho).trans (congrArg _ ((adoptTime_frames ho hk).trans (if_pos ht)))
  · have hadopt := (adoptTime_frames (start := start) ho hk).trans (if_neg ht)
    rw [htimed hs.symm ho, hadopt, completes_next]
    exact ⟨rfl, rfl, Told.of_houseNow (report_told _ _ _ _ _ _) rfl, rfl⟩
  · rw [htake 0 ho, completes_next]
    obtain ⟨hstate, hlast, -, hkeeps⟩ := stateTaken_keeps (port := port) (start := start) (st := st) (s := s)
    exact ⟨hstate, hlast, hkeeps⟩
  · rw [htake 1 ho, completes_next]
    obtain ⟨hstate, -, hframe, -⟩ := stateTaken_keeps (port := port) (start := start) (st := st) (s := s)
    obtain ⟨hstays, hmem⟩ := announce_mem (k := 1) (value := value) (u := stateTaken port start st s) (.inl rfl) hf
    rw [hframe] at hmem
    exact ⟨hstays.trans hstate, hmem⟩
  · rw [htake 2 ho, completes_next]
    obtain ⟨hstate, -, hframe, -⟩ := stateTaken_keeps (port := port) (start := start) (st := st) (s := s)
    obtain ⟨hstays, hmem⟩ := announce_mem (k := 2) (value := value) (u := stateTaken port start st s) (.inr rfl) hf
    rw [hframe] at hmem
    exact ⟨hstays.trans hstate, hmem⟩

end Sys2Proof.Machine

/-! PROOFS. A reset's trigger (R214): what its actions leave of the clocks, the house clock and the partitions' states. -/

namespace Sys2Proof.Machine

/-! ## Operations that leave the clocks and the partitions' states -/

/-- The clocks and the house clock stay, and so does the state of every partition that is not FREE. -/
structure Calm (t s : State) : Prop where
  clk : t.clk = s.clk
  house : t.house = s.house
  state : ∀ q, (part s q).state ≠ .free → (part t q).state = (part s q).state

theorem Calm.plain {t s : State} (hc : t.clk = s.clk) (hh : t.house = s.house) (hp : t.parts = s.parts) : Calm t s :=
  ⟨hc, hh, fun q _ => by rw [part, part, hp]⟩

theorem Calm.refl (s : State) : Calm s s := .plain rfl rfl rfl

theorem Calm.trans {u t s : State} (h : Calm u t) (g : Calm t s) : Calm u s :=
  ⟨h.clk.trans g.clk, h.house.trans g.house, fun q hq => (h.state q (by rwa [g.state q hq])).trans (g.state q hq)⟩

/-- A step that touches neither clocks nor partitions, after one that leaves them. -/
theorem Calm.after {u t s : State} (g : Calm t s) (hc : u.clk = t.clk) (hh : u.house = t.house) (hp : u.parts = t.parts) : Calm u s :=
  Calm.trans (.plain hc hh hp) g

theorem Calm.foldl {α : Type} {f : State → α → State} (h : ∀ a x, Calm (f a x) a) (l : List α) (s : State) : Calm (l.foldl f s) s := by
  induction l generalizing s with
  | nil => exact .refl s
  | cons x l ih => exact (ih _).trans (h s x)

theorem Calm.ite {c : Prop} [Decidable c] {t u s : State} (ht : Calm t s) (hu : Calm u s) : Calm (if c then t else u) s := by
  split
  · exact ht
  · exact hu

theorem Calm.houseNow {t s : State} (h : Calm t s) : houseNow t = houseNow s :=
  houseNow_congr h.clk (by rw [h.house]) (by rw [h.house]) (by rw [h.house])

theorem Calm.ofNotice {t s : State} (h : NoticeFrame t s) (hp : PartsCount t s) : Calm t s :=
  ⟨by rw [h], by rw [h], fun _ hq => hp.state hq⟩

theorem Calm.ofBreaks {t s : State} (h : Breaks t s) (hp : PartsCount t s) : Calm t s :=
  ⟨by rw [h], by rw [h], fun _ hq => hp.state hq⟩

theorem Calm.ofTree {t s : State} (h : TreeOnly t s) : Calm t s := .plain (by rw [h]) (by rw [h]) (by rw [h])

theorem Calm.ofAgenda {t s : State} (h : AgendaOnly t s) : Calm t s := .plain (by rw [h]) (by rw [h]) (by rw [h])

/-- A record written with the state it had. -/
theorem setPart_calm {p : Nat} {x : Part} {s : State} (h : x.state = (part s p).state) : Calm (setPart p x s) s := by
  refine ⟨rfl, rfl, fun q hq => ?_⟩
  by_cases hqp : q = p
  · subst hqp
    have hx : x ≠ partFree := fun hx => hq (by rw [← h, hx]; rfl)
    rw [part_setPart hx, h]
  · rw [part_setPart_ne hqp]

theorem afterT_calm (n : Nat) (ev : Instr) (s : State) : Calm (afterT n ev s) s := .plain rfl rfl rfl

theorem count_calm (p i n : Nat) (s : State) : Calm (count p i n s) s := setPart_calm rfl

/-! ## Notices and completions -/

theorem event_calm (p type : Nat) (d0 : W32) (d1 : W128) (s : State) : Calm (event p type d0 d1 s) s :=
  .ofNotice (event_notice _ _ _ _ _) (event_partsCount _ _ _ _ _)

theorem raiseIrq_calm (p vec : Nat) (s : State) : Calm (raiseIrq p vec s) s :=
  .ofNotice (raiseIrq_notice _ _ _) (raiseIrq_partsCount _ _ _)

theorem wantWriteback_calm (p : Nat) (s : State) : Calm (wantWriteback p s) s :=
  .ofNotice (wantWriteback_notice _ _) (wantWriteback_partsCount _ _)

theorem writeEntry_calm (p kind : Nat) (base : W64) (i : W32) (log2 : Nat) (w0 w1 w2 w3 : W64) (s : State) :
    Calm (writeEntry p kind base i log2 w0 w1 w2 w3 s) s :=
  .ofNotice (writeEntry_notice _ _ _ _ _ _ _ _ _ _) (writeEntry_partsCount _ _ _ _ _ _ _ _ _ _)

theorem issueWrite_calm (w : DmaWrite) (s : State) : Calm (issueWrite w s) s :=
  .ofNotice (issueWrite_notice _ _) (issueWrite_partsCount _ _)

theorem issueKept_calm (p : Nat) (s : State) : Calm (issueKept p s) s := by
  simp only [issueKept]
  refine (Calm.foldl (fun a i => raiseIrq_calm _ _ a) _ _).trans ((Calm.foldl (fun a w => ?_) _ _).trans (.plain rfl rfl rfl))
  exact .ite (issueWrite_calm w a) (.refl a)

theorem irqCheck_calm (p : Nat) (s : State) : Calm (irqCheck p s) s :=
  .ite ((raiseIrq_calm _ _ _).trans (.plain rfl rfl rfl)) (.refl s)

theorem irqArm_calm (p : Nat) (s : State) : Calm (irqArm p s) s := .ite (.plain rfl rfl rfl) (.plain rfl rfl rfl)

theorem moderate_calm (p : Nat) (irq : Bool) (s : State) : Calm (moderate p irq s) s :=
  (irqCheck_calm _ _).trans (.ite ((irqArm_calm _ _).trans (.plain rfl rfl rfl)) (.plain rfl rfl rfl))

theorem setPage_calm (p o : Nat) (v : W32) (s : State) : Calm (setPage p o v s) s := .plain rfl rfl rfl

theorem complete_calm (x : Desc) (r : Done) (force : Bool) (s : State) : Calm (complete x r force s) s := by
  simp only [complete]
  refine .ite (.plain rfl rfl rfl) ((moderate_calm _ _ _).trans ((wantWriteback_calm _ _).trans ((setPage_calm _ _ _ _).trans ?_)))
  exact (writeEntry_calm _ _ _ _ _ _ _ _ _ _).trans (.plain rfl rfl rfl)

/-! ## The home's answers and its aborted waiters (R163) -/

theorem hostPump_calm (x : Desc) (n : Nat) (s : State) : Calm (hostPump x n s) s := by
  induction n generalizing s with
  | zero => exact .refl s
  | succ n ih =>
    simp only [hostPump]
    split
    · refine .ite ?_ (.refl s)
      split
      · exact (ih _).trans (.plain rfl rfl rfl)
      · exact .refl s
    · exact .refl s

theorem hostPumpAll_calm (p : Nat) (s : State) : Calm (hostPumpAll p s) s := .foldl (fun a (d : DescState) => hostPump_calm d.x 16 a) _ _

theorem hostDone_calm (r : HomeReq) (status : BitVec 5) (pay : W128) (s : State) : Calm (hostDone r status pay s) s := by
  simp only [hostDone]
  split
  · exact (hostPumpAll_calm _ _).trans (.plain rfl rfl rfl)
  · exact (hostPumpAll_calm _ _).trans (.ite ((complete_calm _ _ _ _).trans (.plain rfl rfl rfl)) (.plain rfl rfl rfl))

theorem respond_calm (r : HomeReq) (status : BitVec 5) (pay : W128) (poll : Bool) (s : State) : Calm (respond r status pay poll s) s :=
  .ite (.plain rfl rfl rfl) (.ite (.refl s) (.ite (.ite (.plain rfl rfl rfl) (hostDone_calm _ _ _ _)) (.plain rfl rfl rfl)))

theorem unlinkAll_calm (e : Nat) (s : State) : Calm (unlinkAll e s) s := by
  refine .foldl (fun a l => ?_) _ _
  exact .ite (.plain rfl rfl rfl) (.refl a)

theorem abortWaiter_calm (e : Nat) (s : State) : Calm (abortWaiter e s) s := by
  have hfreed : Calm (freeWaiter e (if (waiter s e).kept then s
      else count (waiter s e).req.part 7 (s.clk.eclk - (waiter s e).since) (unlinkAll e s))) s :=
    Calm.after (t := if (waiter s e).kept then s
      else count (waiter s e).req.part 7 (s.clk.eclk - (waiter s e).since) (unlinkAll e s))
      (.ite (.refl s) ((count_calm _ _ _ _).trans (unlinkAll_calm _ _))) rfl rfl rfl
  exact .ite hfreed ((respond_calm _ _ _ _ _).trans hfreed)

theorem abortInputs_calm (p : Nat) (s : State) : Calm (abortInputs p s) s := by
  refine .foldl (fun a pipe => ?_) _ _
  refine Calm.trans (.foldl (fun b it => ?_) _ _) (t := setInput pipe ((inputOf a pipe).filter fun it =>
    !(it.req.part == p && it.req.src != srcSetup)) a) (.plain rfl rfl rfl)
  exact .ite (.refl b) (respond_calm _ _ _ _ b)

theorem abortHome_calm (p : Nat) (s : State) : Calm (abortHome p s) s :=
  Calm.trans (Calm.foldl (fun a e => abortWaiter_calm e a) _ _) (abortInputs_calm p s)

theorem clearObjs_calm (q : Bool → Nat → Bool) (s : State) : Calm (clearObjs q s) s := by
  refine .foldl (fun a o => ?_) _ _
  exact .plain rfl rfl rfl

theorem journalDrop_calm (p : Nat) (s : State) : Calm (journalDrop p s) s := .plain rfl rfl rfl

theorem resetHome_calm (p : Nat) (s : State) : Calm (resetHome p s) s :=
  (clearObjs_calm _ _).trans ((journalDrop_calm _ _).trans ((abortHome_calm _ _).trans (.plain rfl rfl rfl)))

theorem resetTallies_calm (p : Nat) (s : State) : Calm (resetTallies p s) s := by
  refine (Calm.foldl (fun a t => ?_) _ _).trans (.plain rfl rfl rfl)
  exact .plain rfl rfl rfl

/-! ## The tree and the stirrups -/

theorem endEpoch_partsCount (slot e : Nat) (s : State) : PartsCount (endEpoch slot e s) s := by
  unfold endEpoch
  split
  · exact .of_parts rfl
  · exact PartsCount.trans (.of_parts rfl) (abortSlot_partsCount _ _ _ _)

theorem loseSpan_partsCount (skip : Option Nat) (e : Nat) (s : State) : PartsCount (loseSpan skip e s) s := by
  simp only [loseSpan]
  split
  · exact .refl s
  · have hsent := PartsCount.trans
      (PartsCount.foldl (f := fun a p => sendSpan p (spanSlot s e) a.clk.tclk
        (spanPkt s (spanSlot s e) 5 ((epochOf s (spanSlot s e)).setWidth 6)) a) (fun _ _ => .of_parts rfl)
        ((spanPorts s e).filter fun p => skip != some p) _)
      ((endEpoch_partsCount (spanSlot s e) e (withoutQueued s skip e)).trans (.of_parts rfl))
    refine (settle_partsCount _ _ _).trans ?_
    split
    · exact (event_partsCount _ _ _ _ _).trans hsent
    · exact hsent

theorem loseSpan_calm (skip : Option Nat) (e : Nat) (s : State) : Calm (loseSpan skip e s) s :=
  .ofBreaks (loseSpan_breaks _ _ _) (loseSpan_partsCount _ _ _)

theorem settle_calm (at_ : Place) (slot : Nat) (s : State) : Calm (settle at_ slot s) s := .ofTree (settle_touches at_ slot s).1

theorem setAbstain_calm (at_ : Place) (slot m k : Nat) (asleep : Bool) (s : State) : Calm (setAbstain at_ slot m k asleep s) s :=
  (settle_calm _ _ _).trans (.plain rfl rfl rfl)

theorem memberSync_calm (slot st : Nat) (s : State) : Calm (memberSync slot st s) s := by
  have habstain : ∀ at_ asleep, Calm (abstainAt at_ slot st 0 asleep s) s := fun _ _ => .ite (.refl s) (setAbstain_calm _ _ _ _ _ _)
  have hrejoin : ∀ at_, Calm (rejoinAt at_ slot st s) s := fun _ => .ite (.refl s) ((settle_calm _ _ _).trans (.plain rfl rfl rfl))
  exact .ite (.ite (.refl s) (habstain _ _)) (.ite (.ite (.refl s) (habstain _ _)) (.ite (hrejoin _) (.refl s)))

theorem slotSync_calm (slot : Nat) (s : State) : Calm (slotSync slot s) s := .foldl (fun a st => memberSync_calm slot st a) _ _

theorem voidCall_calm (slot st : Nat) (s : State) : Calm (voidCall slot st s) s :=
  .ite (.plain rfl rfl rfl) (.ite (.plain rfl rfl rfl) (.ite (.plain rfl rfl rfl)
    (.ite ((setAbstain_calm _ _ _ _ _ _).trans (.plain rfl rfl rfl)) (.refl s))))

theorem wake_calm (st : Nat) (s : State) : Calm (wake st s) s := .ofAgenda (wake_agendaOnly st s)

theorem tryRole_calm (st : Nat) (s : State) : Calm (tryRole st s) s := by
  simp only [tryRole]
  split
  · exact .refl s
  · exact .ite ((wake_calm _ _).trans ((Calm.ofAgenda (bootJoin_agendaOnly _ _)).trans (.plain rfl rfl rfl))) (.refl s)

theorem thaw_calm (st : Nat) (s : State) : Calm (thaw st s) s := by
  have hvoid : Calm (match (stir s st).call with | some c => if c.boot then s else voidCall c.slot st s | none => s) s := by
    split
    · exact .ite (.refl s) (voidCall_calm _ _ _)
    · exact .refl s
  exact .ite (.refl s) ((tryRole_calm _ _).trans ((wake_calm _ _).trans (hvoid.after rfl rfl rfl)))

theorem abortQueue_calm (st : Nat) (s : State) : Calm (abortQueue st s) s := by
  simp only [abortQueue]
  exact .ite (.plain rfl rfl rfl) ((count_calm _ _ _ _).trans (.plain rfl rfl rfl))

theorem abortCalls_calm (p : Nat) (s : State) : Calm (abortCalls p s) s := by
  refine .foldl (fun a st => ?_) _ _
  simp only [abortCall]
  split
  · exact .ite (.refl a) (.plain rfl rfl rfl)
  · exact .refl a

/-! ## A reset's trigger (R214, R268) -/

theorem dropSnaps_calm (q : Desc → Bool) (s : State) : Calm (dropSnaps q s) s := by
  simp only [dropSnaps]
  split
  · exact .ite (.plain rfl rfl rfl) (.plain rfl rfl rfl)
  · exact .plain rfl rfl rfl

theorem abortDescs_calm (q : DescState → Bool) (p : Nat) (s : State) : Calm (abortDescs q p s) s := by
  simp only [abortDescs]
  exact (Calm.foldl (fun a d => complete_calm _ _ _ a) _ _).trans ((dropSnaps_calm _ _).trans (.plain rfl rfl rfl))

theorem flushHost_calm (p : Nat) (s : State) : Calm (flushHost p s) s := by
  have hended : Calm (abortDescs (fun _ => true) p (issueKept p s)) s := (abortDescs_calm _ _ _).trans (issueKept_calm _ _)
  simp only [flushHost]
  generalize abortDescs (fun _ => true) p (issueKept p s) = s1 at hended ⊢
  have hrings : Calm ((List.range 4).foldl (fun a q => setPage p (0x20 * q + 8) (pageReg a p (0x20 * q + 8) &&& 0xBFFF_FFFF#32)
      (setPage p (0x20 * q + 0x10) (pageReg a p (0x20 * q + 0xC)) a)) s1) s :=
    (Calm.foldl (fun a q => (setPage_calm _ _ _ _).trans (setPage_calm _ _ _ a)) _ _).trans hended
  generalize (List.range 4).foldl (fun a q => setPage p (0x20 * q + 8) (pageReg a p (0x20 * q + 8) &&& 0xBFFF_FFFF#32)
      (setPage p (0x20 * q + 0x10) (pageReg a p (0x20 * q + 0xC)) a)) s1 = s2 at hrings ⊢
  have hstops : Calm ([0x88, 0xA8].foldl (fun a o => setPage p o (pageReg a p o &&& 0xBFFF_FFFF#32) a) s2) s :=
    (Calm.foldl (fun a o => setPage_calm _ _ _ a) _ _).trans hrings
  generalize [0x88, 0xA8].foldl (fun a o => setPage p o (pageReg a p o &&& 0xBFFF_FFFF#32) a) s2 = s3 at hstops ⊢
  refine (event_calm _ _ _ _ _).trans ?_
  split
  · exact ((wantWriteback_calm _ _).trans hstops).after rfl rfl rfl
  · exact hstops.after rfl rfl rfl

theorem updPart_calm {p : Nat} {f : Part → Part} (hf : ∀ x, (f x).state = x.state) (s : State) : Calm (updPart p f s) s :=
  setPart_calm (hf _)

theorem dropSlots_calm (slots : List Nat) (s : State) : Calm (dropSlots slots s) s := .plain rfl rfl rfl

theorem resetActions_calm (p : Nat) (s : State) : Calm (resetActions p s) s := by
  simp only [resetActions]
  refine (updPart_calm (f := fun x => { x with replays := 0, steps := 0 }) (fun _ => rfl) _).trans ((flushHost_calm _ _).trans ((Calm.foldl (fun a st => thaw_calm st a) _ _).trans ?_))
  refine (resetTallies_calm _ _).trans ((resetHome_calm _ _).trans ((Calm.foldl (fun a i => slotSync_calm i a) _ _).trans ?_))
  refine (count_calm _ _ _ _).trans ((abortCalls_calm _ _).trans ((dropSlots_calm _ _).trans ?_))
  have hspans := (Calm.foldl (fun a e => loseSpan_calm none e a) (slotEntries ((stirsOf s p).foldl (fun a st => abortQueue st a) s) p) _).trans
    (Calm.foldl (fun a st => abortQueue_calm st a) (stirsOf s p) s)
  exact hspans.after rfl rfl rfl

theorem setCause_calm (p : Nat) (src : CurtainSrc) (s : State) : Calm (setCause p src s) s := by
  simp only [setCause]
  exact .ite ((event_calm _ _ _ _ _).trans (setPart_calm rfl)) (setPart_calm rfl)

theorem sendCurtain_calm (p act cause : Nat) (s : State) : Calm (sendCurtain p act cause s) s := by
  refine Calm.trans (t := { s with cur := { s.cur with seq := s.cur.seq + 1 } }) (.foldl (fun a q => .foldl (fun b j => ?_) _ _) _ _)
    (.plain rfl rfl rfl)
  exact .plain rfl rfl rfl

/-- A curtain that is asked for is not in force yet, and the partition's state stays. -/
theorem curtainRaise_calm (p : Nat) (src : CurtainSrc) (s : State) : Calm (curtainRaise p src false s) s := by
  simp only [curtainRaise, Bool.false_eq_true, if_false]
  have hcause := setCause_calm p src s
  exact (Calm.ite ((sendCurtain_calm p 0 (causeOf src + 1) _).trans hcause) hcause).after rfl rfl rfl

/-- A reset's trigger makes a partition that is at work RESETTING, at the present house time. -/
theorem partReset_triggers {p : Nat} {s : State} (hf : (part s p).state ≠ .free) (hr : (part s p).state ≠ .resetting) (cause : Nat) :
    (part (partReset p cause false s) p).state = .resetting ∧ houseNow (partReset p cause false s) = houseNow s := by
  have hmark : (part (setPart p { part s p with state := .resetting, resetAt := (houseNow s).toNat } s) p).state = .resetting := by
    rw [part_setPart fun hx => PartState.noConfusion (congrArg Part.state hx)]
  have hcalm : Calm (partReset p cause false s) (setPart p { part s p with state := .resetting, resetAt := (houseNow s).toNat } s) := by
    rw [partReset, if_neg Bool.false_ne_true, if_neg hf, if_neg hr]
    generalize setPart p { part s p with state := .resetting, resetAt := (houseNow s).toNat } s = s1
    have hasked : Calm (if cause = causeDestroy then s1 else curtainRaise p .fault false s1) s1 := .ite (.refl _) (curtainRaise_calm _ _ _)
    simp only [takeFree]
    exact (afterT_calm _ _ _).trans ((resetActions_calm p _).trans (Calm.after hasked rfl rfl rfl))
  exact ⟨(hcalm.state p (by rw [hmark]; decide)).trans hmark, hcalm.houseNow⟩

end Sys2Proof.Machine

/-! PROOFS. Errors that the checks find, and online tests (R213, R229): ErrorsAreContainedAndTested. -/

namespace Sys2Proof.Machine

/-! ## What the checks find (R213) -/

/-- A check's finding of one node poisons the epoch whose partial it has not sent, and is recorded (R213). -/
theorem scrub_slot {b slot : Nat} (check : Nat) {s : State} (hb : b < 18) (hslot : slot < 512) (hcount : isCount s slot = false)
    (hsent : (node s (.barn b) slot).sent = false) (hidle : combining s (.barn b) slot (node s (.barn b) slot).epoch = false) :
    exec (.patrolScrub (some (.slot (.barn b) slot none check))) s = .next (report 0x11 3 (126 + b) (slotOwner s slot)
      [slot, (node s (.barn b) slot).epoch.toNat, check]
      (setNode (.barn b) slot { node s (.barn b) slot with cur := { (node s (.barn b) slot).cur with poison := true } } s)) := by
  have hepoch : errorEpoch (.barn b) slot none s = (node s (.barn b) slot).epoch := by simp [errorEpoch, hsent]
  have herror : slotError (.barn b) slot none s
      = setNode (.barn b) slot { node s (.barn b) slot with cur := { (node s (.barn b) slot).cur with poison := true } } s := by
    simp [slotError, hcount, hepoch, hidle]
  refine answer_next.2 ⟨by simp [scrubOk, Place.ok, hb, hslot], ?_⟩
  rw [scrub, herror, hepoch]
  rfl

/-- A state error resets its partition, and is recorded at its time. -/
theorem scrub_state {p unit : Nat} (ram addr : Nat) {s : State} (hp : p < 64) (hu : unit < 256) (hf : (part s p).state ≠ .free)
    (hr : (part s p).state ≠ .resetting) :
    Completes (exec (.patrolScrub (some (.state p unit ram addr))) s) fun t =>
      (part t p).state = .resetting ∧ Told t s 0x13 unit p (some p) [ram, addr] := by
  obtain ⟨hstate, hnow⟩ := partReset_triggers hf hr causeState
  exact completes_answer.2 ⟨by simp [scrubOk, hp, hu], hstate, (report_told ..).of_houseNow hnow⟩

theorem scrub_spill {x : TraceRec} {s : State} (hx : s.obs.spill = [x]) :
    exec (.patrolScrub (some (.spill 0))) s = .next { s with obs := { s.obs with spill := [{ x with bad := true }] } } := by
  refine answer_next.2 ⟨rfl, ?_⟩
  simp [scrub, hx]

/-! ## Online tests (R229) -/

theorem bistStart_live {kind index : Nat} {s : State} (hk : kind < 8) (hi : index < 256) (hlive : s.boot.inReset = false) :
    exec (.bistStart kind index) s = .next (bistStart kind index s) := by
  refine answer_next.2 ⟨decide_eq_true ⟨hk, hi⟩, ?_⟩
  rw [regWrite, hlive]
  exact if_neg Bool.false_ne_true

/-- A test that its target allows runs its time; its outcome is open. -/
theorem bistStart_runs {kind index : Nat} {s : State} (hk : kind < 5) (hbusy : s.bist.busy = false) (hallowed : testAllowed s kind index = true) :
    ∃ pass n, bistStart kind index s = { s with
      bist := { s.bist with busy := true, kind := kind, index := index }, free := s.free + 1 + 1
      agenda := s.agenda ++ [{ clk := .house, due := (houseNow s).toNat + testUs kind * usTicks, ev := .bistDone pass n }] } := by
  rw [bistStart, if_neg (by simp [hbusy]; omega), hallowed]
  exact ⟨_, _, rfl⟩

theorem bistStart_refused {kind index : Nat} {s : State} (hk : kind < 5) (hbusy : s.bist.busy = false) (hallowed : testAllowed s kind index = false) :
    bistStart kind index s = bistRecord kind index 3 0 { s with bist := { s.bist with result := 3 } } := by
  rw [bistStart, if_neg (by simp [hbusy]; omega), hallowed]
  rfl

/-- The test in progress is over: its result, its failures and the targets out of service. -/
def testOver (result fails : Nat) (failed : List (Nat × Nat)) (s : State) : State :=
  unschedule isBistDone { s with bist := { s.bist with
    busy := false, result := BitVec.ofNat 2 result, fails := BitVec.ofNat 16 (min fails 0xFFFF), failed := failed } }

/-- A failed test is recorded, and only a home pipeline's failure is a die error. -/
theorem bistDone_fails {fails : Nat} {s : State} (hbusy : s.bist.busy = true) :
    bistDone false fails s =
      let tested := (s.bist.kind, s.bist.index)
      let t := bistRecord s.bist.kind s.bist.index 2 (min fails 0xFFFF)
        (testOver 2 fails (s.bist.failed.filter (· != tested) ++ [tested]) s)
      if s.bist.kind = 3 then dieError 7 s.bist.index t else t := by
  simp [bistDone, hbusy, testOver]

theorem Told.dieError {t s : State} {type unit index : Nat} {p : Option Nat} {d : List Nat} (h : Told t s type unit index p d)
    (u addr : Nat) : Told (dieError u addr t) s type unit index p d := by
  obtain ⟨due, hin⟩ := h
  exact ⟨due, List.mem_append_left _ hin⟩

/-- Settles O44: each finding's lemma, and the cases of a test's start and end. -/
theorem errorsAreContainedAndTested : Obligations.ErrorsAreContainedAndTested := by
  intro s unit index addr st kind fails b slot check p ram x hb hslot hp hu
  refine ⟨rfl, fun hi => ?_, fun hcount hsent hidle => ?_, fun hf hr => scrub_state ram addr hp hu hf hr, fun hst => ?_, rfl, scrub_spill, ?_,
    ?_, ?_, ?_, ?_, ?_, ?_, ?_⟩
  · exact completes_answer.2 ⟨by simp [scrubOk, hu, hi], report_told .., rfl⟩
  · rw [scrub_slot check hb hslot hcount hsent hidle]
    exact completes_next.2 ⟨rfl, (report_told ..).of_houseNow rfl, rfl⟩
  · exact answer_next.2 ⟨decide_eq_true hst, rfl⟩
  · exact completes_answer.2 ⟨rfl, rfl, (report_told ..).of_houseNow rfl, rfl⟩
  · rintro ⟨hi, hlive, hbusy, hk⟩ hallowed
    obtain ⟨pass, n, hrun⟩ := bistStart_runs hk hbusy hallowed
    rw [bistStart_live (by omega) hi hlive, hrun]
    exact completes_next.2 ⟨rfl, ⟨pass, n, by simp⟩, rfl⟩
  · rintro ⟨hi, hlive, hbusy, hk⟩ hallowed
    rw [bistStart_live (by omega) hi hlive, bistStart_refused hk hbusy hallowed]
    exact completes_next.2 ⟨rfl, (report_told ..).of_houseNow rfl, rfl⟩
  · intro hk hi hlive hbad
    rw [bistStart_live hk hi hlive, bistStart, if_pos hbad]
    exact completes_next.2 ⟨report_told .., rfl⟩
  · intro hk hi hreset
    refine answer_next.2 ⟨decide_eq_true ⟨hk, hi⟩, ?_⟩
    rw [regWrite, if_pos hreset]
  · intro hbusy
    simp [exec, execBistDone, bistDone, hbusy, unschedule]
  · intro hbusy
    have htold := (report_told 0x19 (testPart s.bist.kind s.bist.index).1 (testPart s.bist.kind s.bist.index).2 none
      [s.bist.kind, s.bist.index, 2, min fails 0xFFFF] (testOver 2 fails (s.bist.failed.filter
        (· != (s.bist.kind, s.bist.index)) ++ [(s.bist.kind, s.bist.index)]) s)).of_houseNow (s := s) rfl
    refine completes_next.2 ?_
    rw [bistDone_fails hbusy]
    by_cases hk : s.bist.kind = 3
    · rw [if_pos hk]
      exact ⟨rfl, htold.dieError 7 s.bist.index, fun _ => rfl, fun h => absurd hk h⟩
    · rw [if_neg hk]
      exact ⟨rfl, htold, fun h => absurd h hk, fun _ => rfl⟩
  · intro hbusy pass
    simp [exec, execBistDone, bistDone, hbusy]

end Sys2Proof.Machine

/-! PROOFS. A descriptor that starts alone at its unit (R84, R141, R261, R262): HostOperationsReachTheirUnits. -/

namespace Sys2Proof.Machine

/-! ## The start (R265, R266) -/

/-- The state in which the one fetched descriptor has started, and whether it waits at its unit. -/
def startedAlone (d : DescState) (parked : Bool) (s : State) : State :=
  { s with hq := { s.hq with descs := [{ d with started := true, parked := parked }] } }

/-- A descriptor that hands its requests to the home, from the first on. -/
def begunDesc (d : DescState) : DescState := { d with started := true, parked := false, left := d.ids.length, next := 0, worst := stOk }

def homeBegun (d : DescState) (s : State) : State := { s with hq := { s.hq with descs := [begunDesc d] } }

section alone
variable {s : State} {d : DescState} (hd : s.hq.descs = [d]) (hdecoded : d.decoded = true) (hnew : d.started = false)
include hd hdecoded

theorem descIs_alone : descIs s (descOp d.x) d.x = true := by simp [descIs, findDesc, hd, hdecoded]

theorem descRow_alone_row (hx : descOk d.x = true) {op : Nat} (hop : descOp d.x = op) (f : DescState → State → State) :
    descRow op d.x f s = .next (runDesc d.x f s) :=
  descRow_next.2 ⟨hop ▸ descIs_alone hd hdecoded, hx, rfl⟩

include hnew

theorem descRow_alone (hx : descOk d.x = true) {op : Nat} (hop : descOp d.x = op) (hok : d.refusal = 0) (hcov : covered s d.x.part = false)
    (f : DescState → State → State) :
    descRow op d.x f s = .next (f { d with started := true, parked := false } (startedAlone d false s)) := by
  rw [descRow_alone_row hd hdecoded hx hop, runDesc_alone hd hdecoded hnew hok hcov]
  rfl

/-- Under a curtain a tally command waits at its unit. -/
theorem runDesc_parks (hop : descOp d.x = 4) (hcov : covered s d.x.part = true) (f : DescState → State → State) :
    runDesc d.x f s = startedAlone d true s := by
  have hcurtain : ∀ q, covered { s with hq := q } d.x.part = true := fun _ => hcov
  simp [runDesc, yetToRun, findDesc, hd, hdecoded, hnew, begin_, updDesc, sameDesc, waitsAtUnit, hop, hcurtain, startedAlone]

/-- A refused home operation runs there as a null operation. -/
theorem runDesc_null (hop : descOp d.x = 2 ∨ descOp d.x = 3) (hno : d.refusal ≠ 0) (f : DescState → State → State) :
    runDesc d.x f s = hostPump d.x 16 (homeBegun d s) := by
  have hwaits : ∀ a, waitsAtUnit a d.x = false := fun a => by
    obtain h | h := hop <;> simp [waitsAtUnit, h]
  have hhome : ∀ e : DescState, e.x = d.x → atHome e = true := fun e he => by
    obtain h | h := hop <;> simp [atHome, he, h]
  simp [runDesc, yetToRun, findDesc, hd, hdecoded, hnew, begin_, updDesc, sameDesc, hwaits, hno, hhome, homeBegun, begunDesc]

end alone

theorem runHome_started (d : DescState) (s : State) :
    runHome { d with started := true, parked := false } (startedAlone d false s) = hostPump d.x 16 (homeBegun d s) := by
  simp [runHome, startedAlone, updDesc, sameDesc, homeBegun, begunDesc]

theorem completes_of {o : Host.Outcome State Fault Refusal} {t : State} {P : State → Prop} (h : o = .next t) (ht : P t) : Completes o P :=
  ⟨t, h, ht⟩

/-- A home operation that starts alone hands over its requests. -/
theorem descRow_home {s : State} {d : DescState} (hd : s.hq.descs = [d]) (hdecoded : d.decoded = true) (hnew : d.started = false)
    (hx : descOk d.x = true) {op : Nat} (hop : descOp d.x = op) (hok : d.refusal = 0) (hcov : covered s d.x.part = false) :
    descRow op d.x runHome s = .next (hostPump d.x 16 (homeBegun d s)) := by
  rw [descRow_alone hd hdecoded hnew hx hop hok hcov, runHome_started]

/-! ## Requests at the home (R141, R261) -/

/-- Requests of one partition have been handed to the home, and nothing else has happened but in the host queues. -/
def Handed (p : Nat) (l : List HomeReq) (t s : State) : Prop :=
  t.home.crossing = s.home.crossing ++ l.map (fun r => { due := s.clk.eclk + 1, req := r, entry := none })
    ∧ flyOf t p = flyOf s p + l.length
    ∧ t = { s with hq := t.hq, home := { s.home with crossing := t.home.crossing }, agenda := t.agenda }

/-- The one fetched descriptor's next request leaves. -/
def handOne (d : DescState) (r : HomeReq) (s : State) : State :=
  homeDirect r none 1 (setFly d.x.part (flyOf s d.x.part + 1) { s with hq := { s.hq with descs := [{ d with next := d.next + 1 }] } })

section pump
variable {s : State} {d : DescState} (hd : s.hq.descs = [d])
include hd

theorem hostPump_hands (hnext : d.next < d.ids.length) (hfly : flyOf s d.x.part < 16) {r : HomeReq} (hr : hostReq s d d.next = some r)
    (n : Nat) : hostPump d.x (n + 1) s = hostPump d.x n (handOne d r s) := by
  have hfree : ringBlocked s d.x = false := by simp [ringBlocked, hd, -BitVec.toNat_sub]
  simp [hostPump, findDesc, hd, hfree, hnext, hfly, hr, updDesc, sameDesc, handOne]

theorem hostPump_done (hnext : d.ids.length ≤ d.next) (n : Nat) : hostPump d.x n s = s := by
  cases n with
  | zero => rfl
  | succ n => simp [hostPump, findDesc, hd, Nat.not_lt.mpr hnext]

end pump

theorem flyOf_handOne (d : DescState) (r : HomeReq) (s : State) : flyOf (handOne d r s) d.x.part = flyOf s d.x.part + 1 :=
  Tbl.get_set_self _ _ _ _ (Nat.succ_ne_zero _)

theorem handOne_handed (d : DescState) (r : HomeReq) (s : State) : Handed d.x.part [r] (handOne d r s) s :=
  ⟨rfl, flyOf_handOne d r s, rfl⟩

theorem Handed.append {p : Nat} {l k : List HomeReq} {u t s : State} (h : Handed p k u t) (g : Handed p l t s) : Handed p (l ++ k) u s := by
  obtain ⟨hcross, hfly, hrest⟩ := h
  obtain ⟨gcross, gfly, grest⟩ := g
  have hclk : t.clk = s.clk := by rw [grest]
  refine ⟨by rw [hcross, gcross, hclk, List.map_append, List.append_assoc], by rw [hfly, gfly, List.length_append, Nat.add_assoc], ?_⟩
  rw [hrest, grest]

/-- The request of an id of a descriptor, which names its place among them. -/
def idRequest (s : State) (d : DescState) (i k : Nat) : HomeReq :=
  { tok := descOp d.x == 3, obj := i
    op := if d.refusal = 0 then BitVec.ofNat 5 (descBits d.x 1 20 16) else if descOp d.x = 3 then 0x16 else 0x04, nohold := false, rid := 0
    src := srcHost, merged := false, mlevel := false, mrec := 0, poll := false, part := d.x.part, pay := descWord d.x 3 ++ descWord d.x 2
    leftT := s.clk.tclk, ring := d.x.ring, didx := d.x.idx, sub := k, word := if d.refusal = 0 then 0 else nullWord }

theorem hostReq_id {s : State} {d : DescState} {i k : Nat} (h : d.ids[k]? = some i) : hostReq s d k = some (idRequest s d i k) := by
  simp [hostReq, h, idRequest]

/-- The request of a descriptor that was not refused. -/
theorem idRequest_ok {d : DescState} (hok : d.refusal = 0) (s : State) (i k : Nat) : idRequest s d i k =
    { tok := descOp d.x == 3, obj := i, op := BitVec.ofNat 5 (descBits d.x 1 20 16), nohold := false, rid := 0, src := srcHost, merged := false
      mlevel := false, mrec := 0, poll := false, part := d.x.part, pay := descWord d.x 3 ++ descWord d.x 2, leftT := s.clk.tclk
      ring := d.x.ring, didx := d.x.idx, sub := k, word := 0 } := by
  simp only [idRequest, hok, if_true]

/-- The null request as which a refused one runs. -/
theorem idRequest_null {d : DescState} (hno : d.refusal ≠ 0) (s : State) (i k : Nat) : idRequest s d i k =
    { tok := descOp d.x == 3, obj := i, op := if descOp d.x = 3 then 0x16 else 0x04, nohold := false, rid := 0, src := srcHost, merged := false
      mlevel := false, mrec := 0, poll := false, part := d.x.part, pay := descWord d.x 3 ++ descWord d.x 2, leftT := s.clk.tclk
      ring := d.x.ring, didx := d.x.idx, sub := k, word := nullWord } := by
  simp only [idRequest, hno, if_false]

/-- The one id of a descriptor is handed over. -/
theorem hostPump_one {s : State} {d : DescState} {i : Nat} (hids : d.ids = [i]) (hfly : flyOf s d.x.part < 16) :
    Handed d.x.part [idRequest s d i 0] (hostPump d.x 16 (homeBegun d s)) s := by
  have hfirst : hostPump d.x 16 (homeBegun d s) = handOne (begunDesc d) (idRequest s d i 0) (homeBegun d s) :=
    (hostPump_hands (s := homeBegun d s) (d := begunDesc d) rfl (by simp [begunDesc, hids]) hfly
      (hostReq_id (i := i) (by simp [begunDesc, hids])) 15).trans
      (hostPump_done (d := { begunDesc d with next := 1 }) rfl (by simp [begunDesc, hids]) 15)
  rw [hfirst]
  exact handOne_handed (begunDesc d) (idRequest s d i 0) (homeBegun d s)

/-- Two ids of a descriptor are handed over in their order. -/
theorem hostPump_two {s : State} {d : DescState} {i j : Nat} (hids : d.ids = [i, j]) (hfly : flyOf s d.x.part < 15) :
    Handed d.x.part [idRequest s d i 0, idRequest s d j 1] (hostPump d.x 16 (homeBegun d s)) s := by
  let t := handOne (begunDesc d) (idRequest s d i 0) (homeBegun d s)
  have hflown : flyOf t d.x.part < 16 := by
    have ht : flyOf t d.x.part = flyOf s d.x.part + 1 := flyOf_handOne (begunDesc d) _ (homeBegun d s)
    omega
  have hfirst : hostPump d.x 16 (homeBegun d s) = hostPump d.x 15 t :=
    hostPump_hands (s := homeBegun d s) (d := begunDesc d) rfl (by simp [begunDesc, hids]) (Nat.lt_succ_of_lt hfly)
      (hostReq_id (by simp [begunDesc, hids])) 15
  have hsecond : hostPump d.x 15 t = handOne { begunDesc d with next := 1 } (idRequest s d j 1) t :=
    (hostPump_hands (s := t) (d := { begunDesc d with next := 1 }) rfl (by simp [begunDesc, hids]) hflown
      (hostReq_id (i := j) (by simp [begunDesc, hids])) 14).trans (hostPump_done (d := { begunDesc d with next := 2 }) rfl (by simp [begunDesc, hids]) 14)
  rw [hfirst, hsecond]
  exact Handed.append (handOne_handed { begunDesc d with next := 1 } _ t) (handOne_handed (begunDesc d) _ (homeBegun d s))

/-! ## Calls and controls of the host member (R84, R262) -/

theorem hostAct_of {act : Nat} {x : Desc} (h : dAct x = act) (f : DescState → State → State) (s : State) :
    hostAct act x f s = descRow 1 x f s := if_neg (not_not.2 h)

/-- A call goes to the die root across the clocks, and through the conversion where its slot sums in floating point. -/
theorem callHost_calls {d : DescState} {s : State} (hcall : s.hq.hostCall = []) :
    ∃ due, s.clk.tclk + 2 + convertT s (d.ids.headD 0) ≤ due ∧ callHost d s = { s with
      hq := { s.hq with hostCall := [(d.ids.headD 0, d.x)] }, parts := (count d.x.part 0 1 s).parts, free := s.free + 1
      agenda := s.agenda ++ [{ clk := .tclk, due := due, ev := .partialArrival .die (.call
        { hostPartial s d.x (d.ids.headD 0) with leftT := due, firstAt := due, lastAt := due }) }] } := by
  refine ⟨(crossDue s .eclk .tclk 2 3).1 + convertT s (d.ids.headD 0), Nat.add_le_add_right (Nat.le_add_right _ _) _, ?_⟩
  simp only [callHost, crossDue, takeFree, hcall, List.any_nil, Bool.false_eq_true, if_false, List.nil_append]
  rfl

theorem NoticeFrame.ite {c : Prop} [Decidable c] {t u s : State} (ht : NoticeFrame t s) (hu : NoticeFrame u s) :
    NoticeFrame (if c then t else u) s := by
  split
  · exact ht
  · exact hu

theorem irqCheck_notice (p : Nat) (s : State) : NoticeFrame (irqCheck p s) s :=
  .ite ((raiseIrq_notice _ _ _).trans rfl) (.refl s)

theorem irqArm_notice (p : Nat) (s : State) : NoticeFrame (irqArm p s) s := by
  simp only [irqArm]
  exact .ite rfl rfl

theorem moderate_notice (p : Nat) (irq : Bool) (s : State) : NoticeFrame (moderate p irq s) s :=
  (irqCheck_notice _ _).trans (.ite ((irqArm_notice _ _).trans rfl) rfl)

/-- A completion only moves the host's queues, pages and interrupts. -/
theorem complete_notice (x : Desc) (r : Done) (force : Bool) (s : State) : NoticeFrame (complete x r force s) s := by
  simp only [complete]
  refine .ite rfl ((moderate_notice _ _ _).trans ((wantWriteback_notice _ _).trans ?_))
  exact NoticeFrame.trans (t := writeEntry _ _ _ _ _ _ _ _ _ _) rfl ((writeEntry_notice _ _ _ _ _ _ _ _ _ _).trans rfl)

/-- A second call of the host member while one is pending is BUSY, and reaches neither the tree nor an object. -/
theorem callHost_second {d : DescState} {s : State} (hcall : (s.hq.hostCall.any fun h => h.1 == d.ids.headD 0) = true) :
    let t := callHost d s
    Completed t s d.x stBusy ∧ t.hq.hostCall = s.hq.hostCall ∧ t.tree = s.tree ∧ t.objs = s.objs := by
  have hbusy : callHost d s = complete d.x (Done.plain stBusy) false s := if_pos hcall
  obtain ⟨hcalls, hdone⟩ := complete_spec d.x (Done.plain stBusy) s
  have hframe := complete_notice d.x (Done.plain stBusy) false s
  rw [hbusy]
  exact ⟨hdone, hcalls, by rw [hframe], by rw [hframe]⟩

/-! ## Staged words (R261, R332) -/

/-- Staging words, only the staged store, the die-wide request and the crossings change. -/
def StagesOnly (t s : State) : Prop := t.hq = s.hq ∧ t.force = s.force ∧ t.stirs = s.stirs ∧ t.tree = s.tree ∧ t.objs = s.objs

theorem StagesOnly.trans {u t s : State} (h : StagesOnly u t) (g : StagesOnly t s) : StagesOnly u s := by
  obtain ⟨h1, h2, h3, h4, h5⟩ := h
  obtain ⟨g1, g2, g3, g4, g5⟩ := g
  exact ⟨h1.trans g1, h2.trans g2, h3.trans g3, h4.trans g4, h5.trans g5⟩

theorem stageWord_stagesOnly (k : Nat) (v mask : W32) (s : State) : StagesOnly (stageWord k v mask s) s := by
  simp only [stageWord]
  split
  · exact ⟨rfl, rfl, rfl, rfl, rfl⟩
  · split
    · exact ⟨rfl, rfl, rfl, rfl, rfl⟩
    · split <;> exact ⟨rfl, rfl, rfl, rfl, rfl⟩

/-- A value staged under a mask waits for its acknowledgement. -/
def Pends (t : State) (k : Nat) (v m : W32) : Prop := (v, m) ∈ (stagedAt t k).pend

section stageWord
variable {k : Nat} (hk : isRosterKey k = false) (v mask : W32) (s : State)
include hk

/-- A word that is no roster word is staged where its mask leaves a bit of it. -/
theorem stagedAt_stageWord (j : Nat) : stagedAt (stageWord k v mask s) j =
    if mask &&& wbMask k &&& ~~~ (fixedBits k) = 0 then stagedAt s j else stagedAt (stage k v (mask &&& wbMask k &&& ~~~ (fixedBits k)) s) j := by
  simp only [stageWord, hk, Bool.false_and, Bool.false_eq_true, if_false]
  split
  · rfl
  · split <;> rfl

theorem stageWord_pends {m : W32} (hm : mask &&& wbMask k &&& ~~~ (fixedBits k) = m) (h0 : m ≠ 0) : Pends (stageWord k v mask s) k v m := by
  rw [Pends, stagedAt_stageWord hk, hm, if_neg h0, stagedAt_stage]
  exact List.mem_append_right _ (List.mem_singleton_self _)

/-- Later writes leave what waits for its acknowledgement. -/
theorem Pends.stageWord {j : Nat} {w m : W32} (h : Pends s j w m) : Pends (stageWord k v mask s) j w m := by
  rw [Pends, stagedAt_stageWord hk]
  split
  · exact h
  · by_cases hj : j = k
    · subst hj
      rw [stagedAt_stage]
      exact List.mem_append_left _ h
    · rw [show stagedAt (stage k v _ s) j = stagedAt s j from Tbl.get_set_ne _ _ _ _ _ hj]
      exact h

end stageWord

theorem stageDone_waits {t : State} {d : DescState} {k : Nat} {v m : W32} (hd : t.hq.descs = [d]) (hk : k ∈ descKeys d) (hp : Pends t k v m) :
    stageDone t = t := by
  have hwaits : ((descKeys d).all fun k => (stagedAt t k).pend.isEmpty) = false :=
    List.all_eq_false.mpr ⟨k, hk, by simpa using List.ne_nil_of_mem hp⟩
  simp [stageDone, hd, hwaits]


/-! ## The words of STAGE_CONFIG and WATCH_SET -/

theorem isRosterKey_slotKey {slot : Nat} (h : slot < 512) (w : Nat) (hw : w < 16) : isRosterKey (slotKey slot w) = false := by
  have hlow : ¬ 0x20000 ≤ slotKey slot w := by
    unfold slotKey
    omega
  simp [isRosterKey, hlow]

theorem isRosterKey_objCfgKey (tok : Bool) (i : Nat) : isRosterKey (objCfgKey tok i) = false := by
  have hhigh : ¬ objCfgKey tok i < 0x20000 + nStirrup := by
    unfold objCfgKey nStirrup
    omega
  simp [isRosterKey, hhigh]

/-- The watchpoint words' writable bits (Table OBS-5), none of them fixed. -/
theorem wpKey_words : ∀ w < 16, (∀ o ∈ [0, 4, 8, 0xC, 0x10], isRosterKey (wpKey w o) = false ∧ fixedBits (wpKey w o) = 0)
    ∧ wbMask (wpKey w 0) = 0xFC00_01FF ∧ wbMask (wpKey w 4) = 0xFFFF_FFFF ∧ wbMask (wpKey w 8) = 0xF_FFFF
    ∧ wbMask (wpKey w 0xC) = 0xF_FFFF ∧ wbMask (wpKey w 0x10) = 0x1FFF := by
  decide

/-- A word a STAGE_CONFIG stages as a register write would. -/
theorem stageDesc_pends {k : Nat} (hk : isRosterKey k = false) (v : W32) (s : State)
    (h0 : ~~~ (reservedBits k v) &&& wbMask k &&& ~~~ (fixedBits k) ≠ 0) :
    Pends (stageDesc k v s) k v (~~~ (reservedBits k v) &&& wbMask k &&& ~~~ (fixedBits k)) :=
  stageWord_pends hk v _ s rfl h0

/-- A STAGE_CONFIG whose one word is an object's. -/
theorem runStage_object {d : DescState} {tok : Bool} {s : State} (hkind : dKind d.x = if tok then 2 else 1) (hmask : dWmask d.x = 1) :
    runStage d s = stageDone (stageDesc (objCfgKey tok (d.ids.headD 0)) (stageValue d.x 0) s) := by
  have hwords : ((List.range 3).filter fun w => 1 / 2 ^ w % 2 == 1) = [0] := by decide
  cases tok <;> simp [runStage, hkind, hmask, hwords]

theorem runStage_slot {d : DescState} {s : State} (hkind : dKind d.x = 0) (hmask : dWmask d.x = 7) :
    runStage d s = stageDone (stageDesc (slotKey (d.ids.headD 0) 8) (stageValue d.x 2) (stageDesc (slotKey (d.ids.headD 0) 4) (stageValue d.x 1)
      (stageDesc (slotKey (d.ids.headD 0) 0) (stageValue d.x 0) s))) := by
  have hwords : ((List.range 3).filter fun w => 7 / 2 ^ w % 2 == 1) = [0, 1, 2] := by decide
  simp [runStage, hkind, hmask, hwords]

/-- A descriptor that completes as it starts alone has completed. -/
theorem Completed.ofStarted {t s : State} {d : DescState} {status : BitVec 5} (h : Completed t (startedAlone d false s) d.x status)
    (hd : s.hq.descs = [d]) : Completed t s d.x status := by
  obtain ⟨hdescs, hpage⟩ := h
  exact ⟨by rw [hdescs, hd]; simp [startedAlone, sameDesc], hpage⟩

theorem runTally_crosses (d : DescState) (s : State) :
    let r : TallyReq := { tally := d.ids.headD 0, op := BitVec.ofNat 5 (dOp d.x), nohold := false, src := srcHost, part := d.x.part
                          pay := ((descWord d.x 2).setWidth 32 : W32).setWidth 128, leftT := s.clk.tclk, ring := d.x.ring, didx := d.x.idx
                          word := 0 }
    ∃ due, s.clk.tclk + 2 ≤ due ∧ (runTally d s).tly.due = s.tly.due ++ [{ due := due, act := .cmd r }]
      ∧ runTally d s = { s with tly := { s.tly with due := (runTally d s).tly.due }, agenda := (runTally d s).agenda, free := s.free + 1 } := by
  refine ⟨(crossDue s .eclk .tclk 2 3).1, Nat.le_add_right _ _, ?_⟩
  simp only [runTally, tallyAt]
  split <;> exact ⟨rfl, rfl⟩

/-- Words are staged, and nothing is in force. -/
def Settles (t s : State) : Prop := t.hq.descs = s.hq.descs ∧ t.force = s.force ∧ t.stirs = s.stirs ∧ t.tree = s.tree ∧ t.objs = s.objs

theorem StagesOnly.settles {t s : State} (h : StagesOnly t s) : Settles t s := by
  obtain ⟨hhq, hrest⟩ := h
  exact ⟨congrArg _ hhq, hrest⟩

/-- An object's word staged by a descriptor alone waits, and the descriptor with it. -/
theorem runStage_object_stages {d : DescState} {tok : Bool} {s : State} (hop : descOp d.x = 5) (hkind : dKind d.x = if tok then 2 else 1)
    (hmask : dWmask d.x = 1) (hdescs : s.hq.descs = [d]) :
    let k := objCfgKey tok (d.ids.headD 0)
    let v := stageValue d.x 0
    let m := ~~~ (reservedBits k v) &&& wbMask k &&& ~~~ (fixedBits k)
    m ≠ 0 → Settles (runStage d s) s ∧ Pends (runStage d s) k v m := by
  intro k v m hne
  have hpends := stageDesc_pends (isRosterKey_objCfgKey tok _) v s hne
  have hsettles := (stageWord_stagesOnly k v (~~~ reservedBits k v) s).settles
  have hkey : k ∈ descKeys d := by
    have hk : descBits d.x 1 1 0 = if tok then 2 else 1 := hkind
    cases tok <;> simp [k, descKeys, hop, hk]
  have hstaged : runStage d s = stageDesc k v s := (runStage_object hkind hmask).trans (stageDone_waits (hsettles.1.trans hdescs) hkey hpends)
  rw [hstaged]
  exact ⟨hsettles, hpends⟩

/-- A slot's three words staged by a descriptor alone wait, and the descriptor with them. -/
theorem runStage_slot_stages {d : DescState} {s : State} (hop : descOp d.x = 5) (hkind : dKind d.x = 0) (hmask : dWmask d.x = 7)
    (hslot : d.ids.headD 0 < 512) (hdescs : s.hq.descs = [d]) :
    let k := slotKey (d.ids.headD 0) 0
    let v := stageValue d.x 0
    let m := ~~~ (reservedBits k v) &&& wbMask k &&& ~~~ (fixedBits k)
    m ≠ 0 → Settles (runStage d s) s ∧ Pends (runStage d s) k v m := by
  intro k v m hne
  have hfirst := stageDesc_pends (isRosterKey_slotKey hslot 0 (by decide)) v s hne
  let s1 := stageDesc k v s
  let s2 := stageDesc (slotKey (d.ids.headD 0) 4) (stageValue d.x 1) s1
  let s3 := stageDesc (slotKey (d.ids.headD 0) 8) (stageValue d.x 2) s2
  have hpends : Pends s3 k v m := Pends.stageWord (isRosterKey_slotKey hslot 8 (by decide)) _ _ s2
    (Pends.stageWord (isRosterKey_slotKey hslot 4 (by decide)) _ _ s1 hfirst)
  have hsettles : Settles s3 s :=
    ((stageWord_stagesOnly _ _ _ s2).trans ((stageWord_stagesOnly _ _ _ s1).trans (stageWord_stagesOnly _ _ _ s))).settles
  have hkey : k ∈ descKeys d := by
    have hk : descBits d.x 1 1 0 = 0 := hkind
    have hw : descBits d.x 1 6 4 = 7 := hmask
    simp [k, descKeys, hop, hk, hw]
    exact ⟨0, by decide, rfl⟩
  have hstaged := (runStage_slot (s := s) hkind hmask).trans (stageDone_waits (hsettles.1.trans hdescs) hkey hpends)
  rw [hstaged]
  exact ⟨hsettles, hpends⟩

/-- A watchpoint word staged with all its writable bits. -/
theorem watchWord_pends {w o : Nat} {m : W32} (hw : w < 16) (ho : o ∈ [0, 4, 8, 0xC, 0x10]) (hm : wbMask (wpKey w o) = m) (h0 : m ≠ 0)
    (v : W32) (s : State) : Pends (stageWord (wpKey w o) v 0xFFFF_FFFF s) (wpKey w o) v m := by
  obtain ⟨hkeys, -⟩ := wpKey_words w hw
  obtain ⟨hroster, hfixed⟩ := hkeys o ho
  refine stageWord_pends hroster v _ s ?_ h0
  have hall : (0xFFFF_FFFF : W32) = BitVec.allOnes 32 := rfl
  rw [hm, hfixed, hall, BitVec.allOnes_and, show ~~~ (0 : W32) = BitVec.allOnes 32 from rfl, BitVec.and_allOnes]

/-- What WATCH_SET puts into the watchpoint's control word (Table HST-2). -/
def watchCtl (d : DescState) : W32 :=
  BitVec.ofNat 32 (descBits d.x 1 8 8 * 2 ^ 31 + descBits d.x 1 9 9 * 2 ^ 30 + descBits d.x 1 10 10 * 2 ^ 29
    + descBits d.x 1 11 11 * 2 ^ 28 + descBits d.x 1 12 12 * 2 ^ 27 + descBits d.x 3 32 32 * 2 ^ 26 + d.ids.getD 1 0)

/-- WATCH_SET stages the watchpoint's five words. -/
theorem runWatch_stages {d : DescState} (hw : d.ids.headD 0 < 16) (s : State) :
    let w := d.ids.headD 0
    let t := runWatch d s
    Settles t s ∧ Pends t (wpKey w 0) (watchCtl d) 0xFC00_01FF ∧ Pends t (wpKey w 4) ((descWord d.x 2).setWidth 32) 0xFFFF_FFFF
      ∧ Pends t (wpKey w 8) (BitVec.ofNat 32 (descBits d.x 2 51 32)) 0xF_FFFF
      ∧ Pends t (wpKey w 0xC) (BitVec.ofNat 32 (descBits d.x 3 19 0)) 0xF_FFFF
      ∧ Pends t (wpKey w 0x10) (BitVec.ofNat 32 (d.ids.getD 2 0)) 0x1FFF := by
  intro w t
  obtain ⟨hkeys, h0, h4, h8, hC, h10⟩ := wpKey_words w hw
  let s1 := stageWord (wpKey w 0) (watchCtl d) 0xFFFF_FFFF s
  let s2 := stageWord (wpKey w 4) ((descWord d.x 2).setWidth 32) 0xFFFF_FFFF s1
  let s3 := stageWord (wpKey w 8) (BitVec.ofNat 32 (descBits d.x 2 51 32)) 0xFFFF_FFFF s2
  let s4 := stageWord (wpKey w 0xC) (BitVec.ofNat 32 (descBits d.x 3 19 0)) 0xFFFF_FFFF s3
  have htop : ∀ {k v m}, Pends s4 k v m → Pends t k v m := Pends.stageWord (hkeys 0x10 (by simp)).1 _ _ s4
  have hC' : ∀ {k v m}, Pends s3 k v m → Pends t k v m := fun h => htop (Pends.stageWord (hkeys 0xC (by simp)).1 _ _ s3 h)
  have h8' : ∀ {k v m}, Pends s2 k v m → Pends t k v m := fun h => hC' (Pends.stageWord (hkeys 8 (by simp)).1 _ _ s2 h)
  have h4' : ∀ {k v m}, Pends s1 k v m → Pends t k v m := fun h => h8' (Pends.stageWord (hkeys 4 (by simp)).1 _ _ s1 h)
  have hsettles : Settles t s := ((stageWord_stagesOnly _ _ _ s4).trans ((stageWord_stagesOnly _ _ _ s3).trans
    ((stageWord_stagesOnly _ _ _ s2).trans ((stageWord_stagesOnly _ _ _ s1).trans (stageWord_stagesOnly _ _ _ s))))).settles
  exact ⟨hsettles, h4' (watchWord_pends hw (by simp) h0 (by decide) _ s), h8' (watchWord_pends hw (by simp) h4 (by decide) _ s1),
    hC' (watchWord_pends hw (by simp) h8 (by decide) _ s2), htop (watchWord_pends hw (by simp) hC (by decide) _ s3),
    watchWord_pends hw (by simp) h10 (by decide) _ s4⟩

/-- Settles O51: the start of a descriptor alone, then the effect of its row. -/
theorem hostOperationsReachTheirUnits : Obligations.HostOperationsReachTheirUnits := by
  intro s x d i j hx
  dsimp only
  refine ⟨?_, ?_, ?_, ?_, ?_, ?_, ?_, ?_, ?_, ?_, ?_, ?_, ?_, ?_, ?_, ?_⟩
  · rintro ⟨⟨⟨hd, rfl, hdec, hnew⟩, hok, hcov⟩, hop⟩ hact hcall
    obtain ⟨due, hdue, hcalls⟩ := callHost_calls (d := { d with started := true, parked := false }) (s := startedAlone d false s) hcall
    rw [show exec (.hostCall d.x) s = hostAct 0 d.x callHost s from rfl, hostAct_of hact, descRow_alone hd hdec hnew hx hop hok hcov, hcalls]
    exact completes_next.2 ⟨⟨_, List.mem_append_right _ (List.mem_singleton_self _), rfl, rfl, hdue⟩, rfl⟩
  · rintro ⟨⟨⟨hd, rfl, hdec, hnew⟩, hok, hcov⟩, hop⟩ hact hcall
    rw [show exec (.hostCall d.x) s = hostAct 0 d.x callHost s from rfl, hostAct_of hact, descRow_alone hd hdec hnew hx hop hok hcov]
    obtain ⟨hdone, hrest⟩ := callHost_second (d := { d with started := true, parked := false }) (s := startedAlone d false s) hcall
    exact completes_next.2 ⟨hdone.ofStarted hd, hrest⟩
  · rintro ⟨⟨⟨hd, rfl, hdec, hnew⟩, hok, hcov⟩, hop⟩ hact
    rw [show exec (.hostAbstain d.x) s = hostAct 1 d.x (ctrlHost 0) s from rfl, hostAct_of hact, descRow_alone hd hdec hnew hx hop hok hcov]
    exact completes_next.2 ⟨⟨_, List.mem_append_right _ (List.mem_singleton_self _), rfl, rfl⟩, rfl⟩
  · rintro ⟨⟨⟨hd, rfl, hdec, hnew⟩, hok, hcov⟩, hop⟩ hact
    rw [show exec (.hostRejoin d.x) s = hostAct 2 d.x (ctrlHost 1) s from rfl, hostAct_of hact, descRow_alone hd hdec hnew hx hop hok hcov]
    exact completes_next.2 ⟨⟨_, List.mem_append_right _ (List.mem_singleton_self _), rfl, rfl⟩, rfl⟩
  · rintro ⟨⟨⟨hd, rfl, hdec, hnew⟩, hok, hcov⟩, hop⟩ ⟨hids, hfly⟩
    have hhanded := hostPump_one (s := s) hids hfly
    simp only [idRequest_ok hok] at hhanded
    exact completes_of (descRow_home hd hdec hnew hx hop hok hcov) hhanded
  · rintro ⟨⟨⟨hd, rfl, hdec, hnew⟩, hok, hcov⟩, hop⟩ ⟨hids, hfly⟩
    have hhanded := hostPump_two (s := s) hids hfly
    simp only [idRequest_ok hok] at hhanded
    exact completes_of (descRow_home hd hdec hnew hx hop hok hcov) hhanded
  · rintro ⟨⟨⟨hd, rfl, hdec, hnew⟩, hok, hcov⟩, hop⟩ ⟨hids, hfly⟩
    have hhanded := hostPump_one (s := s) hids hfly
    simp only [idRequest_ok hok] at hhanded
    exact completes_of (descRow_home hd hdec hnew hx hop hok hcov) hhanded
  · rintro ⟨⟨⟨hd, rfl, hdec, hnew⟩, hok, hcov⟩, hop⟩ ⟨hids, hfly⟩
    have hhanded := hostPump_two (s := s) hids hfly
    simp only [idRequest_ok hok] at hhanded
    exact completes_of (descRow_home hd hdec hnew hx hop hok hcov) hhanded
  · rintro ⟨hd, rfl, hdec, hnew⟩ hno hop ⟨hids, hfly⟩
    have hhanded := hostPump_one (s := s) hids hfly
    rw [idRequest_null hno, if_neg (by rw [hop]; decide)] at hhanded
    exact completes_of ((descRow_alone_row hd hdec hx hop _).trans (congrArg _ (runDesc_null hd hdec hnew (.inl hop) hno _))) hhanded
  · rintro ⟨hd, rfl, hdec, hnew⟩ hno hop ⟨hids, hfly⟩
    have hhanded := hostPump_one (s := s) hids hfly
    rw [idRequest_null hno, if_pos hop] at hhanded
    exact completes_of ((descRow_alone_row hd hdec hx hop _).trans (congrArg _ (runDesc_null hd hdec hnew (.inr hop) hno _))) hhanded
  · rintro ⟨⟨⟨hd, rfl, hdec, hnew⟩, hok, hcov⟩, hop⟩
    rw [show exec (.tallyOp d.x) s = descRow 4 d.x runTally s from rfl, descRow_alone hd hdec hnew hx hop hok hcov]
    obtain ⟨due, hlate, hdue, hrest⟩ := runTally_crosses { d with started := true, parked := false } (startedAlone d false s)
    refine completes_next.2 ⟨⟨{ due := due, act := .cmd _ }, ?_, rfl, hlate, hdue⟩, ?_⟩
    · rw [hdue]
      exact List.mem_append_right _ (List.mem_singleton_self _)
    · rw [hrest]
      rfl
  · rintro ⟨hd, rfl, hdec, hnew⟩ hok hop hcov
    exact (descRow_alone_row hd hdec hx hop _).trans (congrArg _ (runDesc_parks hd hdec hnew hop hcov _))
  · rintro ⟨⟨⟨hd, rfl, hdec, hnew⟩, hok, hcov⟩, hop⟩ hkind hmask - hslot hne
    exact completes_of (descRow_alone hd hdec hnew hx hop hok hcov _)
      (runStage_slot_stages (d := { d with started := true, parked := false }) hop hkind hmask hslot rfl hne)
  · rintro ⟨⟨⟨hd, rfl, hdec, hnew⟩, hok, hcov⟩, hop⟩ hkind hmask - hne
    exact completes_of (descRow_alone hd hdec hnew hx hop hok hcov _)
      (runStage_object_stages (d := { d with started := true, parked := false }) (tok := false) hop hkind hmask rfl hne)
  · rintro ⟨⟨⟨hd, rfl, hdec, hnew⟩, hok, hcov⟩, hop⟩ hkind hmask - hne
    exact completes_of (descRow_alone hd hdec hnew hx hop hok hcov _)
      (runStage_object_stages (d := { d with started := true, parked := false }) (tok := true) hop hkind hmask rfl hne)
  · rintro ⟨⟨⟨hd, rfl, hdec, hnew⟩, hok, hcov⟩, hop⟩ hw
    exact completes_of (descRow_alone hd hdec hnew hx hop hok hcov _) (runWatch_stages (d := { d with started := true, parked := false }) hw (startedAlone d false s))

end Sys2Proof.Machine

/-! PROOFS. Reset and its release, the first cue and the flash read again (R297 to R311): ResetStartsTheEngine. -/

namespace Sys2Proof.Machine

/-! ## The release (R297, R299) -/

/-- The state in which the release begins stage 0. -/
def released (f : Fuses) (s : State) : State :=
  { s with
    boot := { s.boot with inReset := false, fuses := f, good := f.goodMap, trims := f.trim }
    dbg := { s.dbg with disabled := f.debugDis }
    house := { s.house with lead := 1 + frameWait s, fresh := true, len := s.clk.mult }
    free := s.free + 1
    home := { s.home with bucket := [(0, 256)] } }

theorem resetRelease_held {s : State} (h : s.boot.inReset = false ∨ s.boot.pwrgd = false) (f : Fuses) : resetRelease f s = s := by
  obtain h | h := h <;> simp [resetRelease, h]

/-- With no tile isolated, the release is stage 0 on the fuses. -/
theorem resetRelease_stage0 {s : State} (hr : s.boot.inReset = true) (hp : s.boot.pwrgd = true) (hiso : isolatedStirs s = []) (f : Fuses) :
    resetRelease f s = stage0 (released f s) := by
  have hnone : isolatedStirs (released f s) = [] := hiso
  have hgo : ¬ (!s.boot.inReset || !s.boot.pwrgd) = true := by simp [hr, hp]
  have hback : resetRelease f s = (isolatedStirs (released f s)).foldl
    (fun a st => isoOn st (updStir st (fun x => { x with iso := false }) a)) (stage0 (released f s)) := if_neg hgo
  rw [hback, hnone]
  rfl

theorem putFuseRoster_rest (n : Nat) (s : State) :
    (putFuseRoster n s).boot = s.boot ∧ (putFuseRoster n s).dbg = s.dbg ∧ (putFuseRoster n s).house = s.house := by
  unfold putFuseRoster
  induction rosterOf s.boot.fuses.goodMap n 0 generalizing s with
  | nil => exact ⟨rfl, rfl, rfl⟩
  | cons x l ih => exact ih _

/-- Enough good tiles give the grade, and the flash is read unless the die is unprovisioned (R299, R311, R320). -/
theorem stage0_graded {s : State} {g : Nat} (hg : gradeFor s.boot.fuses.grade.toNat (goodTiles s.boot.fuses.goodMap).length = some g) :
    let unprov := s.boot.fuses.keyHash == 0
    (stage0 s).boot = { s.boot with
        stage := 1, grade := g, logical := gradeTiles g, unprov := unprov, halted := unprov, spiBusy := !unprov,
        resA := if unprov then 0xA else 0, resB := if unprov then 0xA else 0 }
      ∧ (stage0 s).dbg = s.dbg ∧ (stage0 s).house = s.house := by
  simp only [stage0, hg]
  exact putFuseRoster_rest _ _

/-- Too few good tiles are a die error. -/
theorem stage0_ungraded {s : State} (hg : gradeFor s.boot.fuses.grade.toNat (goodTiles s.boot.fuses.goodMap).length = none) :
    stage0 s = dieError 18 0 s := by
  simp only [stage0, hg]

theorem dieError_effect (unit addr : Nat) (s : State) :
    (dieError unit addr s).boot = s.boot ∧ (dieError unit addr s).flt.dieErr = true ∧ (dieError unit addr s).cur.raw = true := ⟨rfl, rfl, rfl⟩

/-! ## Requests of firmware (R301, R311) -/

theorem firstcue_asks {s : State} (hstage : s.boot.stage ≠ 0) (hdone : s.boot.firstDone = false) :
    firstcue s = across .mclk .tclk 2 3 (.rootDecision .die 0) { s with boot := { s.boot with firstReq := epochOf s 0 == 0 } } :=
  if_neg (not_or.2 ⟨hstage, by simp [hdone]⟩)

theorem firstcue_refused {s : State} (h : s.boot.stage = 0 ∨ s.boot.firstDone = true) : firstcue s = mgrAccess 0x040C 0x8000_0000 0x301 s :=
  if_pos h

theorem retry_ignored {s : State} (h : s.boot.halted = false ∨ s.boot.unprov = true) : retry s = s := by
  obtain h | h := h <;> simp [retry, h]

theorem retry_reads {s : State} (hhalted : s.boot.halted = true) (hprov : s.boot.unprov = false) :
    retry s = drivePins { s with boot := { s.boot with halted := false, resA := 0, resB := 0, spiBusy := true, phase := 0 } } := by
  simp [retry, hhalted, hprov]

theorem exec_retry (s : State) : exec .retry s = .next (regWrite retry s) := rfl

theorem exec_firstcue (s : State) : exec .firstcue s = .next (regWrite firstcue s) := rfl

/-- Settles O55: reset by its definition, the release by stage 0 on the fuses, and the two requests by their conditions. -/
theorem resetStartsTheEngine : Obligations.ResetStartsTheEngine := by
  intro s b f g
  refine ⟨?_, fun h => congrArg _ (resetRelease_held h f), ?_, ?_, ?_, ?_, ?_, ?_⟩
  · exact completes_next.2 ⟨rfl, rfl, rfl, rfl, rfl, rfl, rfl, rfl, rfl, rfl, rfl, rfl, rfl, rfl, rfl, rfl, rfl, rfl⟩
  · rintro ⟨hr, hp⟩ hiso hg
    obtain ⟨hboot, hdbg, hhouse⟩ := stage0_graded (s := released f s) hg
    refine completes_of (congrArg Host.Outcome.next (resetRelease_stage0 hr hp hiso f)) ?_
    rw [hboot, hdbg, hhouse]
    exact ⟨rfl, rfl, rfl, rfl, rfl, rfl, rfl, rfl, rfl, rfl, rfl, rfl⟩
  · rintro ⟨hr, hp⟩ hiso hg
    obtain ⟨hboot, herr, hraw⟩ := dieError_effect 18 0 (released f s)
    refine completes_of (congrArg Host.Outcome.next ((resetRelease_stage0 hr hp hiso f).trans (stage0_ungraded (s := released f s) hg))) ?_
    rw [hboot]
    exact ⟨rfl, herr, hraw, rfl⟩
  · intro hlive hstage hdone
    rw [exec_firstcue, regWrite_live hlive, firstcue_asks hstage hdone]
    exact completes_next.2 ⟨rfl, ⟨_, List.mem_append_right _ (List.mem_singleton_self _), rfl, rfl⟩, rfl⟩
  · intro hlive hwhy
    rw [exec_firstcue, regWrite_live hlive, firstcue_refused hwhy]
    exact completes_next.2 ⟨report_told .., rfl⟩
  · intro hlive hhalted hprov
    rw [exec_retry, regWrite_live hlive, retry_reads hhalted hprov]
    exact completes_next.2 ⟨rfl, rfl, rfl, rfl, rfl⟩
  · intro hwhy
    rw [exec_retry, regWrite, retry_ignored hwhy]
    exact congrArg _ (ite_self _)

end Sys2Proof.Machine

/-! PROOFS. A well-formed command that the machine answers with a fault: EveryCommandCompletes fails. -/

namespace Sys2Proof.Machine

/-- A change of the die curtain whose act is none of raise, lift and lift with abort (Table OBS-7) faults in every state. -/
theorem exec_dieCurtain_noAct {act : Nat} (h : 3 ≤ act) (propagate : Bool) (s : State) :
    exec (.dieCurtain act propagate) s = .fault .noSuchPart := by
  have hact : decide (act < 3) = false := decide_eq_false (Nat.not_lt.mpr h)
  change answer (decide (act < 3)) _ = _
  rw [hact]
  rfl

/-- Well-formedness bounds no act of the die curtain. -/
theorem wf_dieCurtain (act : Nat) (propagate : Bool) : (Instr.dieCurtain act propagate).wf = true := rfl

/-- Refutes O58: DIE_CURTAIN with act 3 is well formed, and faults. -/
theorem not_everyCommandCompletes : ¬ Obligations.EveryCommandCompletes := by
  intro h
  obtain ⟨t, ht, -⟩ := h State.reset (.dieCurtain 3 false) (wf_dieCurtain 3 false) rfl
  cases (exec_dieCurtain_noAct (Nat.le_refl 3) false State.reset).symm.trans ht

end Sys2Proof.Machine
